-- ==== Sys2Proof/Word.lean ====
section
/-! DEFINITION. Words, names and payload fields shared by the commands and the machine: the manual's own
enumerations (00_scope.md, Conventions) and the contents of the notices a station receives (section 2.1). -/

namespace Sys2Proof

abbrev Byte := BitVec 8
abbrev Word16 := BitVec 16

/-- A bed of this station, 0 to 7 (00_scope.md, Numbering). -/
abbrev BedId := Fin 8

/-- Urgency of a need or a claim (R36, R85). -/
inductive Urgency where
  | normal | dry | severe
deriving DecidableEq, Repr

/-- Why the receiver gave a frame up (R5). -/
inductive AbandonReason where
  | badSync | framingError | lengthAbove24 | recessiveGap
deriving DecidableEq, Repr

/-- How a period measurement ended (R160). -/
inductive ProbeResult where
  | count (c : Nat) | overrange | timeout
deriving DecidableEq, Repr

/-- A period measurement (R160): its ending, the microseconds before the edge that started the counter, or before the
timeout where none did, and the value at which the counter stopped. -/
structure Measurement where
  ending : ProbeResult
  wait : Nat
  counter : Nat
deriving DecidableEq, Repr

/-- A byte heard in the slot after the station's own frame (R9): when its start bit opened, counted in 1/12 ms
from the end of the frame's last stop bit (a bit time is 5), whether it was a good byte, and its value. -/
structure SlotByte where
  opensAt : Nat
  good : Bool
  value : Byte
deriving DecidableEq, Repr

/-- One entry of a TALLY (section 2.1). -/
structure TallyEntry where
  bed : Nat
  flow : Nat
  urgency : Urgency
  committed : Bool
deriving DecidableEq, Repr

/-- The content of a TALLY (section 2.1). -/
structure TallyNotice where
  weatherSource : Bool
  saturated : Bool
  unconfigured : Bool
  barred : Bool
  holds : Bool
  budget : Nat
  entries : List TallyEntry
deriving DecidableEq, Repr

/-- The content of a SKY (section 2.1): temperature in 0.5 degree steps, rain in 0.1 mm, minute 65535 for unset. -/
structure Sky where
  temperature : Int
  recentRain : Nat
  dayRain : Nat
  hourRain : Nat
  hourIndex : Nat
  evapClass : Nat
  minute : Nat
deriving DecidableEq, Repr

end Sys2Proof
end

