-- ==== Sys2Proof/Config.lean ====
section
/-! DEFINITION. What the part fixes: lengths of time and room limits from the manual, and the free value that stands
where the manual states an effect and no value. -/

namespace Sys2Proof.Config

/-- Time is counted in 1/12 ms, the longest unit in which a millisecond and a bit time (1/2400 s, R1) are both whole. -/
def bitTime : Nat := 5
def millisecond : Nat := 12
def second : Nat := 12000
def minute : Nat := 720000

/-- Room of the book (R38). -/
def bookRoom : Nat := 32
/-- The most entries at which a book change clears the saturated flag (R39). -/
def saturatedClear : Nat := 28
/-- A general notice is admitted while the queue holds fewer notices than this (R29). -/
def generalRoom : Nat := 6
/-- The budget that stands while a station has none of its own and counts no peer's: 60.0 L/min (R50). -/
def openBudget : Nat := 120
/-- Access gap of station s is 16 + 3 s bit times (R10). -/
def accessGap (s : Nat) : Nat := (16 + 3 * s) * bitTime
/-- The acknowledge slot, and the quiet that ends DISCARD: 12 bit times (R7, R5). -/
def slotTime : Nat := 12 * bitTime
/-- Idle count at which the yielding mark clears: 64 bit times (R12). -/
def yieldTime : Nat := 64 * bitTime
/-- Moment in the slot at which an answer byte begins: 2 bit times (R8). -/
def answerTime : Nat := 2 * bitTime
/-- Line-loss limit (R18), tally timer (R30), peer expiry (R42), pending lapse (R52), resolution timer (R68), victim
timer (R77), reserve wait (R142), reserve charge (R137), LISTENING (R184). -/
def lineLossTime : Nat := 25 * second
def tallyTime : Nat := 10 * second
def peerTime : Nat := 30 * second
def lapseTime : Nat := 25 * second
def resolutionTime : Nat := 2 * second
def victimTime : Nat := 20 * second
def reserveWaitTime : Nat := 20 * second
def chargeTime : Nat := 10 * second
def listeningTime : Nat := 30 * second
/-- Rate window (R147), confirm limit (R149), rest before a steady window (R152). -/
def windowTime : Nat := 5 * second
def confirmLimit : Nat := 60 * second
def restTime : Nat := 10 * second
/-- Scan period and settle wait (R159), SKY timer and the tips' SKY limit (R167). -/
def scanTime : Nat := 60 * second
def settleTime : Nat := 20 * millisecond
def skyTime : Nat := 5 * minute
def skyGap : Nat := 60 * second
/-- Ages of the weather record (R168, R169). -/
def recordTakeover : Nat := 15 * minute
def recordStale : Nat := 30 * minute
/-- Recovery of the pulse generator (R131), coil test (R141), the two input filters (R145, R165), ATTN half (R178). -/
def recoveryTime : Nat := 100 * millisecond
def coilTestTime : Nat := 5 * millisecond
def flowFilter : Nat := 2 * millisecond
def rainFilter : Nat := 50 * millisecond
def attnHalf : Nat := 250 * millisecond
/-- The longest wait for a rising edge of PFRQ, and the limit of the period counter, in microseconds (R160). -/
def periodWait : Nat := 50000
def periodLimit : Nat := 65535
/-- Microseconds in the model's unit, rounded up (log 56). -/
def micros (n : Nat) : Nat := (n * 12 + 999) / 1000
/-- The edge interval counter stops here (R146). -/
def edgeLimit : Nat := 65535

/-- The value in a place where the manual gives an effect and states no value (log 12). Nothing is known of it. -/
opaque freeWord : Nat → Word16

end Sys2Proof.Config
end

