-- ==== Sys2Proof/Syntax.lean ====
section
/-! DEFINITION. The commands: one constructor per row of spec/opcode_table.json, in the table's order, with the row's
operands. A row that a frame on the line brings about carries the frame's source and target and its payload's fields. -/

namespace Sys2Proof

/-- The rows of the table of operations and events. -/
inductive Instr where
  | coldStart
  | warmStart
  | rstnReturnsHigh
  /-- The bytes read from the setup memory (fewer than 160: the read failed), and the levels of FLOW and RAIN. -/
  | setupImageRead (image : List Byte) (flowHigh rainHigh : Bool)
  | reserveWaitTimeout
  /-- The measured resistance of the bed under test, in whole ohms. -/
  | coilCheck (ohms : Nat)
  | listeningTimerExpiry
  | frameAbandoned (why : AbandonReason)
  | discardQuietEnd
  | slotEnd
  /-- The whole frame, sync byte to check. -/
  | invalidFrame (bytes : List Byte)
  | malformedNotice (src tgt kind : Nat) (payload : List Byte)
  | duplicateNumberEvent (kind len : Nat)
  | unhandedFrameReceived (src tgt kind len : Nat)
  | tallyReceived (src tgt : Nat) (tally : TallyNotice)
  | claimReceived (src tgt bed flow : Nat) (urgency : Urgency) (age : Nat)
  | commitReceived (src tgt bed : Nat)
  | dropReceived (src tgt bed : Nat)
  | freeReceived (src tgt bed : Nat)
  | shedReceived (src tgt victim claimant : Nat) (urgency : Urgency)
  | skyReceived (src tgt : Nat) (sky : Sky)
  | water (src tgt sel litres : Nat)
  | skip (src tgt sel : Nat)
  | pause (src tgt sel : Nat)
  | resume (src tgt sel : Nat)
  | target (src tgt sel start stop : Nat)
  /-- The cause 1 to 12, or 0 for ALL. -/
  | clear (src tgt sel cause : Nat)
  | query (src tgt sel form : Nat)
  | clock (src tgt sel minute : Nat)
  | answerByteStart
  | answerCollision
  | attemptBegin
  | yieldingClear
  | collision
  /-- What the slot after the own frame brought; it matters for a SHED alone (R9). -/
  | transmissionCompletes (slot : Option SlotByte)
  | lineLossClosure
  | tallyFallsDue
  | peerExpiry (station : Nat)
  | pendingLapse (station bed : Nat)
  | resolutionTimerExpiry
  | victimTimerExpiry
  | courtesyDelayEnd (urgency : Urgency)
  | backoffEnd (bed : BedId)
  | waitAgeTick (bed : BedId)
  | dayClockTick
  | hourBoundary
  | dayRollover
  | runDayLimit (bed : BedId)
  | soakEnd (bed : BedId)
  | pulseEnd
  | recoveryEnd
  | pullInEnd (bed : BedId)
  /-- The measured coil voltage in 0.1 V. -/
  | coilSupplyMeasurement (volts : Nat)
  | supplyGood
  | supplyLoss
  | supplyReturn
  | reserveReady
  | flowEdge
  | edgeCounterOverflow
  | rateWindowEnd
  | confirmTimerExpiry (bed : BedId)
  | confirmLimit (bed : BedId)
  | scanStart
  | probeSettleEnd
  | probeMeasurementEnd (gaps : List Nat)
  | rainTip
  | skyTimerExpiry
  | weatherRecordStale
  | attnToggle
  | frameBegins
  | dominantLevel
  | flowFilteredLevelChange
  | rainFilteredLevelChange
  | pwmPeriodBoundary
deriving DecidableEq, Repr

end Sys2Proof
end

