-- ==== Sys2Proof/Decode.lean ====
section
/-! DEFINITION. The line's bits: the check (R4), the payload layouts (section 2.1, R20), reading a whole frame to the
command its end makes (R6, R16, R20), and laying such a command out as a frame. The opcode table gives its rows no bits,
so no table word spells a command. -/

namespace Sys2Proof

/-- No row of the table has bits. -/
def decodeTableWord (_nbits _w : Nat) : Option Instr := none

/-- One bit into the check register (R4). -/
def checkBit (r : Word16) (bit : Bool) : Word16 :=
  if r.msb == bit then r <<< 1 else (r <<< 1) ^^^ 0x1021#16

/-- One byte into the check register, least significant bit first (R4). -/
def checkByte (r : Word16) (b : Byte) : Word16 :=
  [0, 1, 2, 3, 4, 5, 6, 7].foldl (fun r i => checkBit r (b.getLsbD i)) r

/-- The check over the covered bytes (R4). -/
def check (bytes : List Byte) : Word16 := bytes.foldl checkByte 0xFFFF#16

/-- A number as one byte; as two bytes, least significant first (section 2.1). -/
def byte (n : Nat) : Byte := BitVec.ofNat 8 n
def bytes2 (n : Nat) : List Byte := [byte (n % 256), byte (n / 256)]
/-- Two bytes read, least significant first. -/
def word2 (lo hi : Byte) : Nat := lo.toNat + 256 * hi.toNat

/-- The frame of section 1.2: sync, kind, source, target, length, payload, check. -/
def frameBytes (src tgt kind : Nat) (payload : List Byte) : List Byte :=
  let body := byte kind :: byte src :: byte tgt :: byte payload.length :: payload
  let c := check body
  byte 0x6B :: (body ++ [c.extractLsb' 0 8, c.extractLsb' 8 8])

def Urgency.code : Urgency → Nat
  | .normal => 0
  | .dry => 1
  | .severe => 2

def urgencyOf (n : Nat) : Option Urgency :=
  match n with
  | 0 => some .normal
  | 1 => some .dry
  | 2 => some .severe
  | _ => none

/-- A value in the range its layout gives, both ends included. -/
def inRange (lo hi n : Nat) : Bool := decide (lo ≤ n) && decide (n ≤ hi)

/-! ### The fields' ranges (section 2.1, R20) -/

def TallyEntry.fits (e : TallyEntry) : Bool := inRange 0 8 e.bed && inRange 1 120 e.flow

/-- A TALLY's fields lie in range. R20 does not say whether a budget of 0 goes with the unconfigured mark alone; the model's
choice is that 0 and 8 to 120 are in range whatever the mark (log 47). -/
def TallyNotice.fits (t : TallyNotice) : Bool :=
  (t.budget == 0 || inRange 8 120 t.budget) && decide (t.entries.length ≤ 5) && t.entries.all TallyEntry.fits

def claimFits (bed flow age : Nat) : Bool := inRange 0 7 bed && inRange 1 120 flow && inRange 0 255 age
def shedFits (victim claimant : Nat) : Bool := inRange 0 7 victim && inRange 0 7 claimant

def Sky.fits (k : Sky) : Bool :=
  decide (-128 ≤ k.temperature) && decide (k.temperature ≤ 127) && inRange 0 65535 k.recentRain
    && inRange 0 65535 k.dayRain && inRange 0 65535 k.hourRain && inRange 0 23 k.hourIndex
    && inRange 0 3 k.evapClass && (inRange 0 1439 k.minute || k.minute == 65535)

/-! ### Laying payloads out -/

def bitAt (b : Bool) (n : Nat) : Nat := if b then 2 ^ n else 0

def TallyEntry.layout (e : TallyEntry) : List Byte :=
  [byte e.bed, byte e.flow, byte (e.urgency.code + bitAt e.committed 2)]

def TallyNotice.layout (t : TallyNotice) : List Byte :=
  byte (bitAt t.weatherSource 0 + bitAt t.saturated 1 + bitAt t.unconfigured 2 + bitAt t.barred 3 + bitAt t.holds 4)
    :: byte t.budget :: byte t.entries.length :: t.entries.flatMap TallyEntry.layout

def Sky.layout (k : Sky) : List Byte :=
  BitVec.ofInt 8 k.temperature :: (bytes2 k.recentRain ++ bytes2 k.dayRain ++ bytes2 k.hourRain
    ++ [byte k.hourIndex, byte k.evapClass] ++ bytes2 k.minute)

/-- The payload and kind code of a command that a frame of a peer or a panel brings about. -/
def Instr.payload : Instr → Option (Nat × List Byte)
  | .tallyReceived _ _ t => some (1, t.layout)
  | .claimReceived _ _ bed flow u age => some (2, [byte bed, byte flow, byte u.code, byte age])
  | .commitReceived _ _ bed => some (3, [byte bed])
  | .dropReceived _ _ bed => some (4, [byte bed])
  | .freeReceived _ _ bed => some (5, [byte bed])
  | .shedReceived _ _ victim claimant u => some (6, [byte victim, byte claimant, byte u.code])
  | .skyReceived _ _ k => some (7, k.layout)
  | .water _ _ sel litres => some (9, byte 1 :: byte sel :: bytes2 litres)
  | .skip _ _ sel => some (9, [byte 2, byte sel])
  | .pause _ _ sel => some (9, [byte 3, byte sel])
  | .resume _ _ sel => some (9, [byte 4, byte sel])
  | .target _ _ sel start stop => some (9, [byte 5, byte sel, byte start, byte stop])
  | .clear _ _ sel cause => some (9, [byte 6, byte sel, byte cause])
  | .query _ _ sel form => some (9, [byte 7, byte sel, byte form])
  | .clock _ _ sel minute => some (9, byte 8 :: byte sel :: bytes2 minute)
  | .malformedNotice _ _ kind payload => some (kind, payload)
  | _ => none

/-- Source and target of such a command. -/
def Instr.route : Instr → Nat × Nat
  | .tallyReceived s t _ => (s, t)
  | .claimReceived s t _ _ _ _ => (s, t)
  | .commitReceived s t _ => (s, t)
  | .dropReceived s t _ => (s, t)
  | .freeReceived s t _ => (s, t)
  | .shedReceived s t _ _ _ => (s, t)
  | .skyReceived s t _ => (s, t)
  | .water s t _ _ => (s, t)
  | .skip s t _ => (s, t)
  | .pause s t _ => (s, t)
  | .resume s t _ => (s, t)
  | .target s t _ _ _ => (s, t)
  | .clear s t _ _ => (s, t)
  | .query s t _ _ => (s, t)
  | .clock s t _ _ => (s, t)
  | .malformedNotice s t _ _ => (s, t)
  | _ => (0, 0)

/-- The frame on the line whose end is this command. -/
def Instr.frame (i : Instr) : Option (List Byte) :=
  i.payload.map fun p => frameBytes i.route.1 i.route.2 p.1 p.2

/-! ### Reading a frame -/

/-- The entries of a TALLY; none where a field is out of its range. Bits 3 to 7 of a status byte are ignored (R20). -/
def readEntries : List Byte → Option (List TallyEntry)
  | [] => some []
  | bed :: flow :: st :: rest =>
    match urgencyOf (st.toNat % 4), readEntries rest with
    | some u, some es =>
      let e : TallyEntry := ⟨bed.toNat, flow.toNat, u, st.getLsbD 2⟩
      if e.fits then some (e :: es) else none
    | _, _ => none
  | _ => none

def readTally (src tgt : Nat) : List Byte → Option Instr
  | marks :: budget :: n :: rest =>
    match readEntries rest with
    | some es =>
      let t : TallyNotice := ⟨marks.getLsbD 0, marks.getLsbD 1, marks.getLsbD 2, marks.getLsbD 3, marks.getLsbD 4,
        budget.toNat, es⟩
      if es.length == n.toNat && t.fits then some (.tallyReceived src tgt t) else none
    | none => none
  | _ => none

def readSky (src tgt : Nat) : List Byte → Option Instr
  | [t, r0, r1, d0, d1, h0, h1, idx, cls, m0, m1] =>
    let k : Sky := ⟨t.toInt, word2 r0 r1, word2 d0 d1, word2 h0 h1, idx.toNat, cls.toNat, word2 m0 m1⟩
    if k.fits then some (.skyReceived src tgt k) else none
  | _ => none

/-- An ORDER of a known kind and that kind's length; its arguments are the order gate's to check (R20). -/
def readOrder (src tgt : Nat) : List Byte → Option Instr
  | [k, sel] =>
    match k.toNat with
    | 2 => some (.skip src tgt sel.toNat)
    | 3 => some (.pause src tgt sel.toNat)
    | 4 => some (.resume src tgt sel.toNat)
    | _ => none
  | [k, sel, a] =>
    match k.toNat with
    | 6 => some (.clear src tgt sel.toNat a.toNat)
    | 7 => some (.query src tgt sel.toNat a.toNat)
    | _ => none
  | [k, sel, a, b] =>
    match k.toNat with
    | 1 => some (.water src tgt sel.toNat (word2 a b))
    | 5 => some (.target src tgt sel.toNat a.toNat b.toNat)
    | 8 => some (.clock src tgt sel.toNat (word2 a b))
    | _ => none
  | _ => none

def readClaim (src tgt : Nat) : List Byte → Option Instr
  | [bed, flow, u, age] =>
    match urgencyOf u.toNat with
    | some u => if claimFits bed.toNat flow.toNat age.toNat
        then some (.claimReceived src tgt bed.toNat flow.toNat u age.toNat) else none
    | none => none
  | _ => none

def readShed (src tgt : Nat) : List Byte → Option Instr
  | [victim, claimant, u] =>
    match urgencyOf u.toNat with
    | some u => if shedFits victim.toNat claimant.toNat
        then some (.shedReceived src tgt victim.toNat claimant.toNat u) else none
    | none => none
  | _ => none

def readBed (hi : Nat) (k : Nat → Instr) : List Byte → Option Instr
  | [bed] => if bed.toNat ≤ hi then some (k bed.toNat) else none
  | _ => none

/-- The command of a payload by its kind code; none where it is malformed (R20). -/
def readPayload (src tgt kind : Nat) (p : List Byte) : Option Instr :=
  match kind with
  | 1 => readTally src tgt p
  | 2 => readClaim src tgt p
  | 3 => readBed 8 (.commitReceived src tgt) p
  | 4 => readBed 7 (.dropReceived src tgt) p
  | 5 => readBed 8 (.freeReceived src tgt) p
  | 6 => readShed src tgt p
  | 7 => readSky src tgt p
  | 9 => readOrder src tgt p
  | _ => none

/-- Kinds that are handed to a block (R16). -/
def handedKind (kind : Nat) : Bool := inRange 1 7 kind || kind == 9

/-- A complete frame: sync 6Bh, a length of at most 24 and that many payload bytes before the check (R5). -/
def completeFrame (f : List Byte) : Bool :=
  f.getD 0 0 == byte 0x6B && decide ((f.getD 4 0).toNat ≤ 24) && f.length == (f.getD 4 0).toNat + 7

/-- The check that a complete frame carries equals the check computed over it (R6). -/
def checkMatches (f : List Byte) : Bool :=
  let body := (f.drop 1).take (f.length - 3)
  word2 (f.getD (f.length - 2) 0) (f.getD (f.length - 1) 0) == (check body).toNat

/-- The command that the end of a complete frame is to station `own`, for a frame the station did not send (R6, R16, R20). -/
def frameCommand (own : Nat) (f : List Byte) : Instr :=
  let kind := (f.getD 1 0).toNat
  let src := (f.getD 2 0).toNat
  let tgt := (f.getD 3 0).toNat
  let len := (f.getD 4 0).toNat
  let payload := (f.drop 5).take len
  if !checkMatches f then .invalidFrame f
  else if src == own then .duplicateNumberEvent kind len
  else if decide (15 < src) || !(tgt == 0 || tgt == own) || !handedKind kind || (src == 0 && kind != 9) then
    .unhandedFrameReceived src tgt kind len
  else (readPayload src tgt kind payload).getD (.malformedNotice src tgt kind payload)

end Sys2Proof
end

