-- ==== Sys2Proof/Machine/State.lean ====
section
/-! DEFINITION. The station's state as plain data, block by block (00_scope.md, Block diagram), its value after reset,
and the reasons a step could stop for. A field that dates something holds a moment of `State.now` (1/12 ms, log 1). -/

namespace Sys2Proof.Machine

/-- One value for each of the eight beds. -/
structure PerBed (α : Type) where
  b0 : α
  b1 : α
  b2 : α
  b3 : α
  b4 : α
  b5 : α
  b6 : α
  b7 : α
deriving DecidableEq, Repr

/-- The same value for every bed. -/
def PerBed.const {α : Type} (a : α) : PerBed α := ⟨a, a, a, a, a, a, a, a⟩

/-! ### Setup (R84, R183) -/

inductive ValveKind where
  | latch | held
deriving DecidableEq, Repr

inductive BedMode where
  | probe | debt
deriving DecidableEq, Repr

inductive ConfirmMode where
  | immediate | oneSettle | twoSettle | settleThenFlow | flowOnly
deriving DecidableEq, Repr

/-- A bed's block of the setup image (R84). `valid` says the block passed its checks. Flows are in 0.5 L/min, litres per
point in 0.1 L, run threshold, cycle volume and daily cap in litres, soak in minutes, duty in percent. -/
structure BedSetup where
  present : Bool
  valid : Bool
  kind : ValveKind
  mode : BedMode
  confirm : ConfirmMode
  flow : Nat
  dry : Nat
  wet : Nat
  start : Nat
  stop : Nat
  floor : Nat
  litresPerPoint : Nat
  soak : Nat
  cycle : Nat
  area : Nat
  threshold : Nat
  duty : Nat
  cap : Nat
deriving DecidableEq, Repr

/-- A bed of which the setup says nothing. -/
def BedSetup.absent : BedSetup :=
  ⟨false, false, .latch, .probe, .immediate, 0, 0, 0, 0, 0, 0, 0, 0, 0, 0, 0, 0, 0⟩

/-- A group window (R180): base, mask and bed set, bit b for bed b. -/
structure GroupWindow where
  base : Byte
  mask : Byte
  beds : Byte
deriving DecidableEq, Repr

/-- The setup in force. Pulse width and pull-in are in 10 ms, the rain threshold in mm. No budget (0), no pulses and no
group windows stand for a station without a valid image (R185). -/
structure Setup where
  weatherSource : Bool
  fallingEdge : Bool
  budget : Nat
  pulsesPerLitre : Nat
  pulseWidth : Nat
  pullIn : Nat
  windowStart : Nat
  windowEnd : Nat
  rainThreshold : Nat
  c0 : Nat
  c40 : Nat
  groups : List GroupWindow
  beds : PerBed BedSetup
deriving DecidableEq, Repr

/-- No setup: before the image is read, and in UNCONFIGURED (R185). -/
def Setup.blank : Setup := ⟨false, false, 0, 0, 0, 0, 0, 0, 0, 0, 0, [], .const .absent⟩

/-! ### Setup loader (chapter 11) -/

inductive StationState where
  | loading | checking | listening | active | unconfigured | barred
deriving DecidableEq, Repr

structure SetupLoader where
  station : StationState
  rstnLow : Bool
  setup : Setup
  own : Nat
  loadingEnd : Nat
  listenSince : Nat
  clashNoted : Bool
deriving DecidableEq, Repr

/-! ### Alert causes and faults (chapter 10) -/

inductive Cause where
  | coil | probe | leak | noflow | stuck | supply | line | noanswer | saturated | setup | discard | stale
deriving DecidableEq, Repr

/-- The latch pair of a cause, with the bed and value of its last setting (R173). -/
structure Latch where
  pending : Bool
  armed : Bool
  bed : Nat
  value : Nat
deriving DecidableEq, Repr

/-- One latch for each of the twelve causes. -/
structure Latches where
  coil : Latch
  probe : Latch
  leak : Latch
  noflow : Latch
  stuck : Latch
  supply : Latch
  line : Latch
  noanswer : Latch
  saturated : Latch
  setup : Latch
  discard : Latch
  stale : Latch
deriving DecidableEq, Repr

/-- The fields of a fault (R177). -/
structure FaultInfo where
  cause : Cause
  bed : Nat
  peer : Nat
  kind : Nat
  one : Nat
  two : Nat
  minute : Nat
deriving DecidableEq, Repr

inductive OrderKind where
  | water | skip | pause | resume | target | clear | query | clock
deriving DecidableEq, Repr

inductive RefusalReason where
  | stationState | bedRange | argument | bedOff
deriving DecidableEq, Repr

/-- `record` is the locked fault record, absent while it is empty and unlocked (R177); `half` is the driven half of the
ATTN square wave (R178). -/
structure AlertUnit where
  latches : Latches
  record : Option FaultInfo
  more : Bool
  rxErrors : Nat
  collisions : Nat
  refused : Option (OrderKind × RefusalReason)
  half : Bool
  halfSince : Nat
deriving DecidableEq, Repr

/-! ### Notices and the transmit queue (chapter 2) -/

/-- The station form of REPLY, field by field (section 2.1). -/
structure StationReply where
  station : Nat
  holds : Nat
  budget : Nat
  entries : Nat
  committed : Nat
  pending : Nat
  faultCause : Nat
  faultBed : Nat
  faultPeer : Nat
  faultKind : Nat
  faultOne : Nat
  faultTwo : Nat
  faultMinute : Nat
  marks : Nat
  rxErrors : Nat
  collisions : Nat
  refusedKind : Nat
  refusedReason : Nat
deriving DecidableEq, Repr

/-- The bed form of REPLY, field by field (section 2.1). -/
structure BedReply where
  bed : Nat
  state : Nat
  faultCause : Nat
  valve : Nat
  marks : Nat
  wetness : Nat
  need : Nat
  urgency : Nat
  delivered : Nat
  debt : Nat
  start : Nat
  stop : Nat
  floor : Nat
deriving DecidableEq, Repr

/-- A notice of the station's own, with the content fixed as it joins the queue (R22 to R26); a TALLY has none (R21). -/
inductive Notice where
  | tally
  | claim (bed : BedId) (flow : Nat) (urgency : Urgency) (age : Nat)
  | commit (bed : BedId)
  | drop (bed : BedId)
  | free (bed : Nat)
  | shed (station victim : Nat) (claimant : BedId)
  | sky (content : Sky)
  | alert (cause : Cause) (bed value : Nat)
  | stationReply (r : StationReply)
  | bedReply (r : BedReply)
deriving DecidableEq, Repr

/-- A queued notice (R27); `cancelled` is a cancellation or BARRED's removal held until its attempt ends (R28, R33). -/
structure Queued where
  notice : Notice
  unanswered : Nat
  cancelled : Bool
deriving DecidableEq, Repr

structure TransmitQueue where
  queue : List Queued
  headRun : Nat
  tallySince : Option Nat
deriving DecidableEq, Repr

/-! ### Line interface (chapter 1) -/

inductive RxState where
  | hunt | frame | slot | discard
deriving DecidableEq, Repr

inductive Reply where
  | ack | refuse
deriving DecidableEq, Repr

/-- The answer byte of R8: none, decided and waiting for its moment, or going out. -/
inductive AnswerByte where
  | none
  | waiting (r : Reply)
  | sending (r : Reply)
deriving DecidableEq, Repr

/-- An attempt in transmission (R3): when its first start bit opened, and the frame it sends. -/
structure Attempt where
  start : Nat
  bytes : List Byte
deriving DecidableEq, Repr

structure LineInterface where
  rx : RxState
  idleSince : Nat
  frameSince : Nat
  slotSince : Nat
  yielding : Bool
  attempt : Option Attempt
  answer : AnswerByte
  lossSince : Nat
deriving DecidableEq, Repr

/-! ### Supply book and claim exchange (chapters 3 and 4) -/

/-- A book entry (R36); `committed` is its state. -/
structure Entry where
  station : Nat
  bed : Nat
  flow : Nat
  urgency : Urgency
  committed : Bool
  age : Nat
  heard : Nat
deriving DecidableEq, Repr

/-- The last claim of a presence row (R41). -/
structure LastClaim where
  bed : Nat
  flow : Nat
  urgency : Urgency
  age : Nat
deriving DecidableEq, Repr

/-- A row of the presence table (R41). -/
structure Row where
  station : Nat
  heard : Nat
  budget : Option Nat
  barred : Bool
  lastClaim : Option LastClaim
deriving DecidableEq, Repr

inductive Phase where
  | none | sending | resolving | asking | awaiting | ending
deriving DecidableEq, Repr

inductive HeldOutcome where
  | drop | reResolve
deriving DecidableEq, Repr

/-- The claim record (R61), with the senior set of the own PENDING entry (R36, R67). -/
structure Claim where
  phase : Phase
  bed : BedId
  flow : Nat
  urgency : Urgency
  age : Nat
  resolveSince : Option Nat
  shedMade : Bool
  victim : Option (Nat × Nat)
  victimSince : Option Nat
  outcome : Option HeldOutcome
  withdrawn : Bool
  seniors : List (Nat × Nat)
deriving DecidableEq, Repr

/-- Phase NONE, every other field cleared (R61). -/
def Claim.none : Claim := ⟨.none, 0, 0, .normal, 0, .none, false, .none, .none, .none, false, []⟩

/-- `dirty` marks a book or budget change whose steps (R40) are still to run within the event (log 8). -/
structure SupplyBook where
  book : List Entry
  presence : List Row
  budget : Nat
  saturated : Bool
  claim : Claim
  lastFree : Option Nat
  dirty : Bool
deriving DecidableEq, Repr

/-! ### Bed controller (chapters 5 and 6) -/

inductive BedState where
  | off | idle | waiting | claiming | opening | confirming | running | closing | soaking | faulted
deriving DecidableEq, Repr

inductive BedFault where
  | probe | leak | noflow
deriving DecidableEq, Repr

inductive EndCause where
  | needMet | wet | cap | cycleDone | hold | line | overdraw | shed | supply | skip | barred | leak | noflow
deriving DecidableEq, Repr

/-- The run record (R111); its urgency is the bed's (R112). Volumes are in 0.1 L, the kept order in litres. -/
structure Run where
  need : Nat
  delivered : Nat
  cycle : Nat
  cycleDelivered : Nat
  startMinute : Nat
  endCause : Option EndCause
  keptOrder : Option Nat
deriving DecidableEq, Repr

/-- The running part of a bed record (R85). `need` is the need outside a run, in 0.1 L; `backoffEnd` and `soakSince`
date the backoff and the soak timer; `ageSince` is the moment of the wait age's last minute. -/
structure Bed where
  state : BedState
  fault : Option BedFault
  need : Nat
  urgency : Urgency
  ordered : Bool
  skip : Bool
  debt : Nat
  delivered : Nat
  backoffEnd : Option Nat
  waitAge : Nat
  ageSince : Option Nat
  start : Nat
  stop : Nat
  targets : Option (Nat × Nat)
  wetness : Option Nat
  probeFailed : Bool
  run : Option Run
  soakSince : Option Nat
deriving DecidableEq, Repr

/-- A bed record as a start leaves it, but for what a warm start keeps (R110). -/
def Bed.fresh : Bed :=
  ⟨.off, none, 0, .normal, false, false, 0, 0, none, 0, none, 0, 0, none, none, false, none, none⟩

/-- The hold set (R99). -/
structure Holds where
  rain : Bool
  defer : Bool
  freeze : Bool
  pause : Bool
  supply : Bool
  line : Bool
deriving DecidableEq, Repr

def Holds.empty : Holds := ⟨false, false, false, false, false, false⟩

/-- A boundary whose tick has fallen (R92); `minute` is the clock's new minute at that tick. -/
inductive Boundary where
  | day
  | hour (minute : Nat)
deriving DecidableEq, Repr

/-- `hours` and `days` count the boundaries taken since the end of LOADING; `due` lists those still to be taken, oldest
first; `occasion` marks an offer occasion still to be weighed within the event (log 8). -/
structure BedController where
  beds : PerBed Bed
  holds : Holds
  rainApplied : Option Nat
  hours : Nat
  days : Nat
  due : List Boundary
  occasion : Bool
deriving DecidableEq, Repr

/-! ### Valve drive (chapter 7) -/

inductive ValveState where
  | closed | opening | opened | closing | unknown
deriving DecidableEq, Repr

inductive Direction where
  | opens | closes
deriving DecidableEq, Repr

/-- A request of the pulse queue (R132). -/
structure Request where
  bed : BedId
  dir : Direction
deriving DecidableEq, Repr

/-- The pulse generator (R131); `reserve` says the pulse runs from the reserve. -/
inductive Generator where
  | idle
  | pulse (req : Request) (reserve : Bool) (since : Nat)
  | recovery (since : Nat)
deriving DecidableEq, Repr

/-- What a taken hold channel does (R134): wait for the supply, pull in (with a release marked for its end), or hold. -/
inductive ChannelPhase where
  | waiting
  | pullIn (since : Nat) (release : Bool)
  | hold
deriving DecidableEq, Repr

/-- A taken hold channel, with its duties in percent (R135). -/
structure Channel where
  bed : BedId
  phase : ChannelPhase
  active : Option Nat
  pending : Option Nat
deriving DecidableEq, Repr

inductive SupplyState where
  | absent | good | lost
deriving DecidableEq, Repr

/-- How far CHECKING has come (R142): reserve wait, coil check with the beds still to test and the moment the test of
the first of them began, start-up closure, done. -/
inductive CheckPhase where
  | reserveWait (since : Nat)
  | coils (rest : List BedId) (since : Nat)
  | closure
  | done
deriving DecidableEq, Repr

structure ValveDrive where
  valves : PerBed ValveState
  queue : List Request
  generator : Generator
  closures : List BedId
  channelA : Option Channel
  channelB : Option Channel
  supply : SupplyState
  ready : Bool
  chargeSince : Option Nat
  coilVolts : Nat
  measureSince : Nat
  marks : PerBed Bool
  check : CheckPhase
deriving DecidableEq, Repr

/-! ### Flow monitor (chapter 8) -/

/-- The edge interval counter (R146): stopped with the value it holds, or running since a moment. -/
inductive EdgeCounter where
  | stopped (value : Nat)
  | running (since : Nat)
deriving DecidableEq, Repr

/-- `lastWindow` is the pulse count and the end of the last window ended; `level` is the filtered FLOW level. -/
structure FlowMonitor where
  level : Bool
  levelSince : Nat
  pulses : Nat
  carry : Nat
  edge : EdgeCounter
  lastInterval : Option Nat
  windowSince : Nat
  lastWindow : Option (Nat × Nat)
  confirms : PerBed (Option Nat)
  bedCarry : PerBed Nat
  lastTransient : Nat
  leakRun : Nat
  noflowRun : Nat
  stuckRun : Nat
  drawing : Bool
  quiet : Nat
deriving DecidableEq, Repr

/-! ### Probes and weather (chapter 9) -/

/-- The probe scanner (R159): idle, or settling or measuring a channel (8 is the temperature channel) since a moment. -/
inductive Scan where
  | idle
  | settle (channel since : Nat)
  | measure (channel since : Nat)
deriving DecidableEq, Repr

/-- A probe's ring, newest last, its failed mark and its run counts (R162, R163). -/
structure Probe where
  ring : List Nat
  failed : Bool
  bad : Nat
  good : Nat
deriving DecidableEq, Repr

def Probe.fresh : Probe := ⟨[], false, 0, 0⟩

/-- The weather record while its set mark is set (R168). -/
structure WeatherRecord where
  content : Sky
  source : Nat
  receipt : Nat
deriving DecidableEq, Repr

/-- `counter` is the period counter (R160); `complete` holds the 23 complete hourly buckets, newest first (R166); `staleNoted` says the STALE condition has been
reported (R169); `secondSince` is the start of the day clock's seconds count (R170). -/
structure ProbesWeather where
  scan : Scan
  scanDue : Nat
  psel : Nat
  counter : Nat
  probes : PerBed Probe
  temperature : Option Int
  tempFailed : Bool
  tempBad : Nat
  tempGood : Nat
  rainLevel : Bool
  rainSince : Nat
  current : Nat
  complete : List Nat
  lastHourIndex : Nat
  skySince : Option Nat
  lastSky : Option Nat
  weather : Option WeatherRecord
  staleNoted : Bool
  minute : Nat
  clockSet : Bool
  secondSince : Nat
deriving DecidableEq, Repr

/-! ### The machine -/

/-- The station. `now` is the time since reset in 1/12 ms (log 1), `free` counts the free values used (log 12), and
`pending` holds the commands still to be taken, first in first out. -/
structure State where
  now : Nat
  sl : SetupLoader
  li : LineInterface
  tq : TransmitQueue
  sb : SupplyBook
  bc : BedController
  vd : ValveDrive
  fm : FlowMonitor
  pw : ProbesWeather
  au : AlertUnit
  free : Nat
  pending : List Instr
deriving DecidableEq, Repr

/-- Nothing stops the station: the manual describes no machine fault, so there is no constructor and none is raised
(safe). -/
inductive Fault where
deriving DecidableEq, Repr

/-- Reasons for a step to be refused. -/
inductive Refusal where
  /-- Raised by an arm of exec for a command that has no meaning yet; safe, since the machine stops. No arm raises it. -/
  | notModelled (mnemonic : String)
deriving DecidableEq, Repr

/-! ### Reset (R19, R35, R60, R83, R110, R128, R143, R158, R172, R182, R188: the cold start) -/

def Latch.reset : Latch := ⟨false, true, 15, 0⟩

def Latches.reset : Latches :=
  ⟨.reset, .reset, .reset, .reset, .reset, .reset, .reset, .reset, .reset, .reset, .reset, .reset⟩

def SetupLoader.reset : SetupLoader := ⟨.loading, false, .blank, 0, 0, 0, false⟩
def LineInterface.reset : LineInterface := ⟨.discard, 0, 0, 0, false, none, .none, 0⟩
def TransmitQueue.reset : TransmitQueue := ⟨[], 0, none⟩
def SupplyBook.reset : SupplyBook := ⟨[], [], Config.openBudget, false, .none, none, false⟩
def BedController.reset : BedController := ⟨.const .fresh, .empty, none, 0, 0, [], false⟩
def ValveDrive.reset : ValveDrive :=
  ⟨.const .unknown, [], .idle, [], none, none, .absent, false, none, 0, 0, .const false, .reserveWait 0⟩
def FlowMonitor.reset : FlowMonitor :=
  ⟨false, 0, 0, 0, .stopped 0, none, 0, none, .const none, .const 0, 0, 0, 0, 0, false, 0⟩
def ProbesWeather.reset : ProbesWeather :=
  ⟨.idle, 0, 0, 0, .const .fresh, none, false, 0, 0, false, 0, 0, List.replicate 23 0, 23, none, none, none, false, 0,
    false, 0⟩
def AlertUnit.reset : AlertUnit := ⟨.reset, none, false, 0, 0, none, false, 0⟩

/-- The station right after logic power-on: LOADING, every block at its cold-start values. -/
def State.reset : State :=
  ⟨0, .reset, .reset, .reset, .reset, .reset, .reset, .reset, .reset, .reset, 0, []⟩

end Sys2Proof.Machine
end

