-- ==== Sys2Proof/Machine/Flags.lean ====
section
/-! DEFINITION. The alert unit's latches, fault record and counts (R173, R177, R6, R13, R179), and the hold set's
reasons (R99): every mark that shows outside, set and read here. -/

namespace Sys2Proof.Machine

/-! ### Latches (R173) -/

def Latches.get (l : Latches) : Cause → Latch
  | .coil => l.coil
  | .probe => l.probe
  | .leak => l.leak
  | .noflow => l.noflow
  | .stuck => l.stuck
  | .supply => l.supply
  | .line => l.line
  | .noanswer => l.noanswer
  | .saturated => l.saturated
  | .setup => l.setup
  | .discard => l.discard
  | .stale => l.stale

def Latches.set (l : Latches) (c : Cause) (x : Latch) : Latches :=
  match c with
  | .coil => { l with coil := x }
  | .probe => { l with probe := x }
  | .leak => { l with leak := x }
  | .noflow => { l with noflow := x }
  | .stuck => { l with stuck := x }
  | .supply => { l with supply := x }
  | .line => { l with line := x }
  | .noanswer => { l with noanswer := x }
  | .saturated => { l with saturated := x }
  | .setup => { l with setup := x }
  | .discard => { l with discard := x }
  | .stale => { l with stale := x }

/-- The causes in number order (R173). -/
def Cause.all : List Cause :=
  [.coil, .probe, .leak, .noflow, .stuck, .supply, .line, .noanswer, .saturated, .setup, .discard, .stale]

def Cause.number : Cause → Nat
  | .coil => 1
  | .probe => 2
  | .leak => 3
  | .noflow => 4
  | .stuck => 5
  | .supply => 6
  | .line => 7
  | .noanswer => 8
  | .saturated => 9
  | .setup => 10
  | .discard => 11
  | .stale => 12

/-- One or more causes are pending (R178). -/
def State.anyPending (s : State) : Bool := Cause.all.any fun c => (s.au.latches.get c).pending

def State.latch (s : State) (c : Cause) : Latch := s.au.latches.get c

/-- Sixteen bits of a value that a field of an ALERT, a REPLY or the fault record carries (log 29). -/
def word16 (n : Nat) : Nat := min n 65535

/-- A cause is set pending with its bed and value, whatever its armed latch holds (R173). The first pending cause starts
the ATTN square wave with its driven half (R178). -/
def State.setPending (c : Cause) (bed value : Nat) (s : State) : State :=
  let l : Latch := ⟨true, (s.latch c).armed, bed, word16 value⟩
  if s.anyPending then { s with au.latches := s.au.latches.set c l }
  else { s with au.latches := s.au.latches.set c l, au.half := true, au.halfSince := s.now }

/-- The armed latch of a cause clears (R174). -/
def State.disarm (c : Cause) (s : State) : State :=
  { s with au.latches := s.au.latches.set c { s.latch c with armed := false } }

/-- CLEAR's first step: pending clears, armed is set (R176). -/
def State.rearm (c : Cause) (s : State) : State :=
  { s with au.latches := s.au.latches.set c { s.latch c with pending := false, armed := true } }

/-! ### Fault record and counts -/

/-- The day clock's minute as notices and the fault record carry it: FFFFh while unset (R170, R177). -/
def State.clockMinute (s : State) : Nat := if s.pw.clockSet then s.pw.minute else 65535

/-- A fault is handed over: it fills and locks the record, or sets more-faults (R177). -/
def State.takeFault (cause : Cause) (bed peer kind one two : Nat) (s : State) : State :=
  match s.au.record with
  | none => { s with au.record := some ⟨cause, bed, peer, kind, word16 one, word16 two, s.clockMinute⟩ }
  | some _ => { s with au.more := true }

/-- A cause set pending by an event that also hands over a fault of that cause. -/
def State.raise (cause : Cause) (bed value peer kind one two : Nat) (s : State) : State :=
  (s.setPending cause bed value).takeFault cause bed peer kind one two

/-- One receive error (R6), one collision (R13); both counts stay at 255. -/
def State.receiveError (s : State) : State := { s with au.rxErrors := min (s.au.rxErrors + 1) 255 }
def State.countCollision (s : State) : State := { s with au.collisions := min (s.au.collisions + 1) 255 }

/-- The last refused order kind and reason (R179). -/
def State.noteRefusal (k : OrderKind) (r : RefusalReason) (s : State) : State := { s with au.refused := some (k, r) }

/-! ### Hold reasons (R99) -/

inductive HoldReason where
  | rain | defer | freeze | pause | supply | line
deriving DecidableEq, Repr

def Holds.has (h : Holds) : HoldReason → Bool
  | .rain => h.rain
  | .defer => h.defer
  | .freeze => h.freeze
  | .pause => h.pause
  | .supply => h.supply
  | .line => h.line

def Holds.put (h : Holds) (r : HoldReason) (v : Bool) : Holds :=
  match r with
  | .rain => { h with rain := v }
  | .defer => { h with defer := v }
  | .freeze => { h with freeze := v }
  | .pause => { h with pause := v }
  | .supply => { h with supply := v }
  | .line => { h with line := v }

/-- The set holds any reason (R21). -/
def Holds.any (h : Holds) : Bool := h.rain || h.defer || h.freeze || h.pause || h.supply || h.line

/-- A reason in the set forbids new cycles for a bed of this urgency (R64, R99). -/
def Holds.forbids (h : Holds) (u : Urgency) : Bool :=
  h.rain || h.freeze || h.pause || h.supply || h.line || (h.defer && decide (u ≠ .severe))

end Sys2Proof.Machine
end

