-- ==== Sys2Proof/Machine/Ops.lean ====
section
/-! DEFINITION. The named operations the meanings are built from: time, the beds' records, the transmit queue's
admission and cancellation (R27 to R33), and the book's insertion, change and removal (R37 to R40). -/

namespace Sys2Proof.Machine

/-! ### Beds -/

def PerBed.get {α : Type} (p : PerBed α) (b : BedId) : α :=
  match b.val with
  | 0 => p.b0
  | 1 => p.b1
  | 2 => p.b2
  | 3 => p.b3
  | 4 => p.b4
  | 5 => p.b5
  | 6 => p.b6
  | _ => p.b7

def PerBed.set {α : Type} (p : PerBed α) (b : BedId) (a : α) : PerBed α :=
  match b.val with
  | 0 => { p with b0 := a }
  | 1 => { p with b1 := a }
  | 2 => { p with b2 := a }
  | 3 => { p with b3 := a }
  | 4 => { p with b4 := a }
  | 5 => { p with b5 := a }
  | 6 => { p with b6 := a }
  | _ => { p with b7 := a }

def PerBed.map {α β : Type} (f : BedId → α → β) (p : PerBed α) : PerBed β :=
  ⟨f 0 p.b0, f 1 p.b1, f 2 p.b2, f 3 p.b3, f 4 p.b4, f 5 p.b5, f 6 p.b6, f 7 p.b7⟩

/-- The beds in bed order. -/
def allBeds : List BedId := [0, 1, 2, 3, 4, 5, 6, 7]

/-- The bed a number names, if it is 0 to 7. -/
def bedOf (n : Nat) : Option BedId := if h : n < 8 then some ⟨n, h⟩ else none

def State.bed (s : State) (b : BedId) : Bed := s.bc.beds.get b
def State.setupOf (s : State) (b : BedId) : BedSetup := s.sl.setup.beds.get b
def State.valve (s : State) (b : BedId) : ValveState := s.vd.valves.get b

/-- A bed's record is changed. -/
def State.putBed (b : BedId) (x : Bed) (s : State) : State := { s with bc.beds := s.bc.beds.set b x }
def State.modBed (b : BedId) (f : Bed → Bed) (s : State) : State := s.putBed b (f (s.bed b))

/-- An action on every bed, in bed order. -/
def State.forBeds (f : BedId → State → State) (s : State) : State := allBeds.foldl (fun s b => f b s) s

/-! ### Time -/

/-- Time passes until the moment `t`, if it has not come yet (log 2). -/
def State.advanceTo (t : Nat) (s : State) : State := { s with now := max s.now t }

/-- Past LOADING: the line is listened to and the blocks run (R184). -/
def State.live (s : State) : Bool := decide (s.sl.station ≠ .loading)

/-- The run clock: whole minutes since the end of LOADING (R111), with no phase of the one-second tick (log 43). -/
def State.runClock (s : State) : Nat := (s.now - s.sl.loadingEnd) / Config.minute

/-- An offer occasion arises; it is weighed once the event has been applied (R63, log 8). -/
def State.noteOccasion (s : State) : State := { s with bc.occasion := true }

/-! ### Transmit queue -/

/-- Kind codes of section 1.2. -/
def Notice.code : Notice → Nat
  | .tally => 1
  | .claim .. => 2
  | .commit _ => 3
  | .drop _ => 4
  | .free _ => 5
  | .shed .. => 6
  | .sky _ => 7
  | .alert .. => 8
  | .stationReply _ => 10
  | .bedReply _ => 10

/-- The essential class (R28). -/
def Notice.essential : Notice → Bool
  | .claim .. | .commit _ | .drop _ | .free _ | .shed .. => true
  | .tally | .sky _ | .alert .. | .stationReply _ | .bedReply _ => false

def Notice.isTally : Notice → Bool
  | .tally => true
  | _ => false

def Notice.isClaim : Notice → Bool
  | .claim .. => true
  | _ => false

def Notice.isShed : Notice → Bool
  | .shed .. => true
  | _ => false

/-- The kinds that entry to BARRED removes from the queue (R28). -/
def Notice.isPurged : Notice → Bool
  | .sky _ | .alert .. => true
  | _ => false

/-- The kinds each station state admits (R28). -/
def StationState.admits : StationState → Notice → Bool
  | .loading, _ => false
  | .unconfigured, n => n.isTally || decide (n.code = 8) || decide (n.code = 10)
  | .barred, n => n.isTally || decide (n.code = 4) || decide (n.code = 5) || decide (n.code = 10)
  | .checking, _ | .listening, _ | .active, _ => true

/-- A notice is admitted to the queue now (R28, R29). -/
def State.admits (n : Notice) (s : State) : Bool :=
  s.sl.station.admits n && (n.essential || decide (s.tq.queue.length < Config.generalRoom))

/-- A notice is offered for admission: it joins the tail, or is discarded, and a refusal for room sets DISCARD pending
with the notice's kind code (R28, R29, R173). -/
def State.offer (n : Notice) (s : State) : State :=
  if s.admits n then { s with tq.queue := s.tq.queue ++ [⟨n, 0, false⟩] }
  else if s.sl.station.admits n then s.setPending .discard 15 n.code
  else s

/-- A TALLY falls due: offered unless one is already queued (R30). -/
def State.tallyDue (s : State) : State :=
  if s.tq.queue.any (·.notice.isTally) then s else s.offer .tally

/-- An attempt of a notice of this sort, the head, is in transmission (R3). -/
def State.sendingOf (p : Notice → Bool) (s : State) : Bool :=
  s.li.attempt.isSome && (match s.tq.queue with | h :: _ => p h.notice | [] => false)

/-- The head leaves the queue and the next notice's run of collisions starts from 0 (R14, R27). -/
def State.popHead (s : State) : State := { s with tq.queue := s.tq.queue.drop 1, tq.headRun := 0 }

/-- The head is changed in its place. -/
def State.modHead (f : Queued → Queued) (s : State) : State :=
  match s.tq.queue with
  | h :: t => { s with tq.queue := f h :: t }
  | [] => s

/-- A cancellation of the first notice of this sort: held while its attempt is in transmission, else the notice is
removed at once (R33). -/
def State.cancel (p : Notice → Bool) (s : State) : State :=
  if s.sendingOf p then s.modHead fun q => { q with cancelled := true }
  else match s.tq.queue with
    | h :: t => if p h.notice then s.popHead else { s with tq.queue := h :: t.eraseP fun q => p q.notice }
    | [] => s

/-- Entry to BARRED removes every waiting SKY and ALERT; one in transmission leaves at the end of its attempt (R28). -/
def State.purge (s : State) : State :=
  let keep := fun q : Queued => !q.notice.isPurged
  if s.sendingOf Notice.isPurged then
    { s with tq.queue := (s.tq.queue.take 1).map (fun q => { q with cancelled := true })
        ++ (s.tq.queue.drop 1).filter keep }
  else if (s.tq.queue.take 1).all keep then { s with tq.queue := s.tq.queue.filter keep }
  else { s with tq.queue := s.tq.queue.filter keep, tq.headRun := 0 }

/-! ### The book -/

/-- The entry is the one named by this station and bed (R37). -/
def Entry.named (e : Entry) (st bd : Nat) : Bool := e.station == st && e.bed == bd

def State.entry (s : State) (st bd : Nat) : Option Entry := s.sb.book.find? fun e => e.named st bd
def State.hasEntry (s : State) (st bd : Nat) : Bool := s.sb.book.any fun e => e.named st bd

/-- The book is changed, a book change of R40. -/
def State.putBook (book : List Entry) (s : State) : State := { s with sb.book := book, sb.dirty := true }

/-- The named entry is changed in its place (R37). -/
def updateEntry (st bd : Nat) (f : Entry → Entry) (book : List Entry) : List Entry :=
  book.map fun e => if e.named st bd then f e else e

/-- The named entry leaves the list (R37). -/
def removeEntry (st bd : Nat) (book : List Entry) : List Entry := book.filter fun e => !e.named st bd

/-- An insertion that finds the book full is skipped (R38). -/
def State.skipInsertion (s : State) : State :=
  { s with sb.saturated := true }.setPending .saturated 15 s.sb.book.length

/-- A new entry is appended, or skipped where the book is full; one of a station and bed already present is changed in
its place (R37, R38). -/
def State.insert (e : Entry) (s : State) : State :=
  if s.hasEntry e.station e.bed then s.putBook (updateEntry e.station e.bed (fun _ => e) s.sb.book)
  else if s.sb.book.length < Config.bookRoom then s.putBook (s.sb.book ++ [e])
  else s.skipInsertion

/-- The named entry is removed if it is present, a book change (R40). -/
def State.remove (st bd : Nat) (s : State) : State :=
  if s.hasEntry st bd then s.putBook (removeEntry st bd s.sb.book) else s

/-- Sum of the flows of the COMMITTED entries, and of every entry (R53, R64, R69). -/
def committedSum (book : List Entry) : Nat := ((book.filter (·.committed)).map (·.flow)).sum
def flowSum (book : List Entry) : Nat := (book.map (·.flow)).sum

/-- The station's own entry for a bed (R36). -/
def State.ownEntry (s : State) (bd : Nat) : Option Entry := s.entry s.sl.own bd

/-- The station holds an own COMMITTED entry, the draw entry included (R18). -/
def State.hasOwnCommitted (s : State) : Bool := s.sb.book.any fun e => e.station == s.sl.own && e.committed

/-- A row's budget counts: held, not 0, and the row not barred (R50). -/
def Row.counted (r : Row) : Option Nat :=
  match r.budget with
  | some b => if b = 0 ∨ r.barred then none else some b
  | none => none

/-- The smallest of the own budget and the counted peer budgets (R50). A setup with no budget is UNCONFIGURED's. -/
def effectiveBudget (own : Nat) (rows : List Row) : Nat :=
  (rows.filterMap Row.counted).foldl min (if own = 0 then Config.openBudget else own)

/-- The effective budget is recomputed; a new value is a budget change (R50, R40). -/
def State.recomputeBudget (s : State) : State :=
  let b := effectiveBudget s.sl.setup.budget s.sb.presence
  if b = s.sb.budget then s else { s with sb.budget := b, sb.dirty := true }

end Sys2Proof.Machine
end

