-- ==== Sys2Proof/Machine/Operands.lean ====
section
/-! DEFINITION. The operand forms: the code tables, the content and frame of every notice the station sends (R20 to R26,
R181), the setup image's fields (R183), and the conversions of counts and rates (R135, R146, R147, R161, R164). -/

namespace Sys2Proof.Machine

/-! ### Code tables (section 2.1) -/

def StationState.code : StationState → Nat
  | .loading => 0
  | .checking => 1
  | .listening => 2
  | .active => 3
  | .unconfigured => 4
  | .barred => 5

def BedState.code : BedState → Nat
  | .off => 0
  | .idle => 1
  | .waiting => 2
  | .claiming => 3
  | .opening => 4
  | .confirming => 5
  | .running => 6
  | .closing => 7
  | .soaking => 8
  | .faulted => 9

def ValveState.code : ValveState → Nat
  | .closed => 0
  | .opening => 1
  | .opened => 2
  | .closing => 3
  | .unknown => 4

def OrderKind.code : OrderKind → Nat
  | .water => 1
  | .skip => 2
  | .pause => 3
  | .resume => 4
  | .target => 5
  | .clear => 6
  | .query => 7
  | .clock => 8

def RefusalReason.code : RefusalReason → Nat
  | .stationState => 1
  | .bedRange => 2
  | .argument => 3
  | .bedOff => 4

/-- The alert cause of a bed fault (R85, R173). -/
def BedFault.cause : BedFault → Cause
  | .probe => .probe
  | .leak => .leak
  | .noflow => .noflow

/-- The hold set's bits (section 2.1). -/
def Holds.code (h : Holds) : Nat :=
  bitAt h.rain 0 + bitAt h.defer 1 + bitAt h.freeze 2 + bitAt h.pause 3 + bitAt h.supply 4 + bitAt h.line 5

/-! ### Contents taken from the state -/

/-- An own entry as a TALLY carries it: a draw entry above 60.0 L/min goes as 120 (R21). -/
def Entry.tallied (e : Entry) : TallyEntry := ⟨e.bed, min e.flow 120, e.urgency, e.committed⟩

/-- The station's own entries in book order. -/
def State.ownEntries (s : State) : List Entry := s.sb.book.filter fun e => e.station == s.sl.own

/-- The content of a TALLY now (R21). -/
def State.tally (s : State) : TallyNotice :=
  { weatherSource := s.sl.setup.weatherSource
    saturated := s.sb.saturated
    unconfigured := decide (s.sl.station = .unconfigured)
    barred := decide (s.sl.station = .barred)
    holds := s.bc.holds.any
    budget := s.sl.setup.budget
    entries := s.ownEntries.map Entry.tallied }

/-- The need as a REPLY shows it: in a run, the run's remaining need (R112). -/
def Bed.needNow (x : Bed) : Nat :=
  match x.run with
  | some r => r.need - r.delivered
  | none => x.need

/-- The probe state of a bed-form REPLY (R109, log 15). -/
def Bed.probeState (x : Bed) (m : BedMode) : Nat :=
  match m with
  | .debt => 0
  | .probe => if x.probeFailed then 3 else if x.wetness.isNone then 2 else 1

/-- The pending causes, bit n - 1 for cause n (R181). -/
def State.pendingCauses (s : State) : Nat :=
  (Cause.all.map fun c => bitAt (s.latch c).pending (c.number - 1)).sum

/-- The station form of REPLY (R26, R181). -/
def State.stationReply (s : State) : StationReply :=
  let f := s.au.record
  { station := s.sl.station.code
    holds := s.bc.holds.code
    budget := s.sb.budget
    entries := s.sb.book.length
    committed := word16 (committedSum s.sb.book)
    pending := s.pendingCauses
    faultCause := (f.map (·.cause.number)).getD 0
    faultBed := (f.map (·.bed)).getD 15
    faultPeer := (f.map (·.peer)).getD 0
    faultKind := (f.map (·.kind)).getD 0
    faultOne := (f.map (·.one)).getD 0
    faultTwo := (f.map (·.two)).getD 0
    faultMinute := (f.map (·.minute)).getD 65535
    marks := bitAt f.isSome 0 + bitAt s.au.more 1
    rxErrors := s.au.rxErrors
    collisions := s.au.collisions
    refusedKind := (s.au.refused.map (·.1.code)).getD 0
    refusedReason := (s.au.refused.map (·.2.code)).getD 0 }

/-- The bed form of REPLY (R26, R109). -/
def State.bedReply (b : BedId) (s : State) : BedReply :=
  let x := s.bed b
  let u := s.setupOf b
  { bed := b.val
    state := x.state.code
    faultCause := (x.fault.map (·.cause.number)).getD 0
    valve := (s.valve b).code
    marks := bitAt (decide (u.mode = .debt)) 0 + bitAt x.skip 1 + bitAt x.targets.isSome 2 + 8 * x.probeState u.mode
    wetness := x.wetness.getD 255
    need := x.needNow
    urgency := x.urgency.code
    delivered := x.delivered
    debt := x.debt
    start := x.start
    stop := x.stop
    floor := u.floor }

/-! ### Payloads and frames (R3, R20) -/

def StationReply.layout (r : StationReply) : List Byte :=
  [byte 0, byte r.station, byte r.holds, byte r.budget, byte r.entries] ++ bytes2 r.committed ++ bytes2 r.pending
    ++ [byte r.faultCause, byte r.faultBed, byte r.faultPeer, byte r.faultKind] ++ bytes2 r.faultOne
    ++ bytes2 r.faultTwo ++ bytes2 r.faultMinute
    ++ [byte r.marks, byte r.rxErrors, byte r.collisions, byte r.refusedKind, byte r.refusedReason]

/-- Sixteen bits carry the need; a remaining need above 65535 is held there. -/
def BedReply.layout (r : BedReply) : List Byte :=
  [byte 1, byte r.bed, byte r.state, byte r.faultCause, byte r.valve, byte r.marks, byte r.wetness]
    ++ bytes2 (word16 r.need) ++ [byte r.urgency] ++ bytes2 r.delivered ++ bytes2 r.debt
    ++ [byte r.start, byte r.stop, byte r.floor]

/-- The target of a notice of the station's own (R3, R23). -/
def Notice.target : Notice → Nat
  | .shed station _ _ => station
  | _ => 0

/-- The payload of a notice at an attempt: a TALLY's is taken now, every other as it was fixed (R21 to R26). -/
def State.payload (n : Notice) (s : State) : List Byte :=
  match n with
  | .tally => s.tally.layout
  | .claim bed flow u age => [byte bed.val, byte flow, byte u.code, byte age]
  | .commit bed => [byte bed.val]
  | .drop bed => [byte bed.val]
  | .free bed => [byte bed]
  | .shed _ victim claimant => [byte victim, byte claimant.val, byte 2]
  | .sky k => k.layout
  | .alert c bed value => [byte c.number, byte bed] ++ bytes2 value
  | .stationReply r => r.layout
  | .bedReply r => r.layout

/-- The frame of an attempt (R3). -/
def State.frame (n : Notice) (s : State) : List Byte := frameBytes s.sl.own n.target n.code (s.payload n)

/-- The answer bytes (R8). -/
def Reply.byte : Reply → Byte
  | .ack => 0x4B#8
  | .refuse => 0x2D#8

/-- The answer that a slot holds: a good byte of the right value whose start bit opens 1 to 3 bit times after the
frame's last stop bit (R9). -/
def answerOf (slot : Option SlotByte) : Option Reply :=
  match slot with
  | none => none
  | some x =>
    if x.good && inRange Config.bitTime (3 * Config.bitTime) x.opensAt then
      if x.value = Reply.ack.byte then some .ack
      else if x.value = Reply.refuse.byte then some .refuse
      else none
    else none

/-! ### The setup image (section 11.1, R183) -/

/-- A byte, a two-byte field and a run of bits of the image. -/
def imageByte (im : List Byte) (o : Nat) : Nat := (im.getD o 0).toNat
def imageWord (im : List Byte) (o : Nat) : Nat := imageByte im o + 256 * imageByte im (o + 1)
def bitsOf (n lo width : Nat) : Nat := n / 2 ^ lo % 2 ^ width

/-- The offset of the first condition that fails. -/
def firstFailing : List (Bool × Nat) → Option Nat
  | [] => none
  | (ok, o) :: rest => if ok then firstFailing rest else some o

/-- The station fields' ranges, in order of offset. -/
def stationChecks (im : List Byte) : List (Bool × Nat) :=
  [(inRange 1 15 (bitsOf (imageByte im 2) 0 4), 2),
   (inRange 8 120 (imageByte im 3), 3),
   (inRange 0 1000 (bitsOf (imageWord im 4) 0 10) && inRange 2 20 (bitsOf (imageWord im 4) 10 5), 4),
   (inRange 5 50 (imageByte im 6), 6),
   (inRange 0 1439 (imageWord im 7), 7),
   (inRange 0 1439 (imageWord im 9), 9),
   (inRange 1 50 (imageByte im 11), 11),
   (imageWord im 12 != imageWord im 14, 14)]

/-- The image's checks in R183's order; the offset of the failing field of an invalid image. -/
def imageError (im : List Byte) : Option Nat :=
  firstFailing
    ([(decide (160 ≤ im.length), 0), (imageByte im 0 == 0xD7, 0), (imageByte im 1 == 1, 1),
      (imageWord im 158 == (check (im.take 158)).toNat, 158)] ++ stationChecks im)

def confirmModeOf : Nat → ConfirmMode
  | 0 => .immediate
  | 1 => .oneSettle
  | 2 => .twoSettle
  | 3 => .settleThenFlow
  | _ => .flowOnly

/-- A bed block's checks from its offset `o`, in order of offset (log 20). -/
def bedChecks (im : List Byte) (o : Nat) : List (Bool × Nat) :=
  let start := imageByte im (o + 6)
  let stop := imageByte im (o + 7)
  let litres := imageWord im (o + 9)
  let cycle := imageWord im (o + 11)
  let threshold := imageWord im (o + 13)
  [(inRange 0 4 (bitsOf (imageByte im o) 3 3), o),
   (inRange 4 80 (imageByte im (o + 1)), o + 1),
   (decide (1 ≤ imageWord im (o + 2)), o + 2),
   (decide (1 ≤ imageWord im (o + 4)) && decide (imageWord im (o + 4) < imageWord im (o + 2)), o + 4),
   (inRange 0 99 start && inRange 1 100 stop && decide (start < stop) && decide (imageByte im (o + 8) ≤ start), o + 6),
   (inRange 1 500 (bitsOf litres 0 9) && inRange 0 120 (bitsOf litres 9 7), o + 9),
   (inRange 1 500 (bitsOf cycle 0 9) && inRange 0 100 (bitsOf cycle 9 7), o + 11),
   (inRange 1 2000 (bitsOf threshold 0 11) && inRange 0 16 (bitsOf threshold 11 5), o + 13),
   (inRange 1 2000 (bitsOf (imageWord im (o + 15)) 0 11), o + 15)]

/-- The offset of bed b's block. -/
def bedOffset (b : BedId) : Nat := 22 + 17 * b.val

/-- The image offset of the first failing field of a present bed's block; an absent bed's block is not checked (R183). -/
def bedError (im : List Byte) (b : BedId) : Option Nat :=
  if bitsOf (imageByte im (bedOffset b)) 0 1 = 1 then firstFailing (bedChecks im (bedOffset b)) else none

/-- A bed's block as it is read. -/
def readBedSetup (im : List Byte) (b : BedId) : BedSetup :=
  let o := bedOffset b
  let marks := imageByte im o
  let present := decide (bitsOf marks 0 1 = 1)
  { present := present
    valid := present && (bedError im b).isNone
    kind := if bitsOf marks 1 1 = 1 then .held else .latch
    mode := if bitsOf marks 2 1 = 1 then .debt else .probe
    confirm := confirmModeOf (bitsOf marks 3 3)
    flow := imageByte im (o + 1)
    dry := imageWord im (o + 2)
    wet := imageWord im (o + 4)
    start := imageByte im (o + 6)
    stop := imageByte im (o + 7)
    floor := imageByte im (o + 8)
    litresPerPoint := bitsOf (imageWord im (o + 9)) 0 9
    soak := bitsOf (imageWord im (o + 9)) 9 7
    cycle := bitsOf (imageWord im (o + 11)) 0 9
    area := bitsOf (imageWord im (o + 11)) 9 7
    threshold := bitsOf (imageWord im (o + 13)) 0 11
    duty := 20 + 5 * bitsOf (imageWord im (o + 13)) 11 5
    cap := bitsOf (imageWord im (o + 15)) 0 11 }

def readGroup (im : List Byte) (o : Nat) : GroupWindow := ⟨im.getD o 0, im.getD (o + 1) 0, im.getD (o + 2) 0⟩

/-- The setup of a valid image. -/
def readSetup (im : List Byte) : Setup :=
  { weatherSource := decide (bitsOf (imageByte im 2) 4 1 = 1)
    fallingEdge := decide (bitsOf (imageByte im 2) 5 1 = 1)
    budget := imageByte im 3
    pulsesPerLitre := bitsOf (imageWord im 4) 0 10
    pulseWidth := bitsOf (imageWord im 4) 10 5
    pullIn := imageByte im 6
    windowStart := imageWord im 7
    windowEnd := imageWord im 9
    rainThreshold := imageByte im 11
    c0 := imageWord im 12
    c40 := imageWord im 14
    groups := [readGroup im 16, readGroup im 19]
    beds := (PerBed.const ()).map fun b _ => readBedSetup im b }

/-- The station number of an image: bits 0 to 3 of offset 2 when 1 to 15, else 15 (R185). -/
def readStation (im : List Byte) : Nat :=
  let n := bitsOf (imageByte im 2) 0 4
  if n = 0 then 15 else n

/-! ### The period counter (R160) -/

/-- No edge follows at the counter's value v: 50 ms pass, or the counter reaches its limit first. Where both come at one
moment the model's choice is the overrange (log 56). -/
def edgesStop (v : Nat) : ProbeResult × Nat :=
  if v + Config.periodWait < Config.periodLimit then (.timeout, v + Config.periodWait) else (.overrange, Config.periodLimit)

/-- The counter runs at value v with so many periods to go, over the gaps to the next rising edges: the ending and the value
at which it stops. The sixteenth edge at the limit comes too late. -/
def runCounter : Nat → Nat → List Nat → ProbeResult × Nat
  | 0, v, _ => (.count v, v)
  | _ + 1, v, [] => edgesStop v
  | n + 1, v, g :: gaps =>
    if Config.periodWait < g then edgesStop v
    else if v + g < Config.periodLimit then runCounter n (v + g) gaps
    else (.overrange, Config.periodLimit)

/-- A measurement, by the microseconds from the settle wait's end to the first rising edge of PFRQ and from each edge to the
next, none after the last (log 56). The first edge resets the counter and starts it; it runs across sixteen periods. -/
def measurePeriods : List Nat → Measurement
  | [] => ⟨.timeout, Config.periodWait, 0⟩
  | g :: gaps =>
    if Config.periodWait < g then ⟨.timeout, Config.periodWait, 0⟩
    else let r := runCounter 16 0 gaps; ⟨r.1, g, r.2⟩

/-- The measurement's length in the model's unit. -/
def measureTime (m : Measurement) : Nat := Config.micros (m.wait + m.counter)

/-! ### Conversions -/

/-- Wetness of a count, clamped to 0 and 100 (R161). -/
def wetnessOf (dry wet c : Nat) : Nat := min 100 ((dry - c) * 100 / (dry - wet))

/-- The bound that a bad read crosses; none for a good read (R161, R163). A good read's value one is its count. -/
def boundCrossed (dry wet : Nat) : ProbeResult → Option Nat
  | .count c => if c < wet / 2 then some (wet / 2) else if 2 * dry < c then some (2 * dry) else none
  | .overrange => some 65535
  | .timeout => some 0

/-- Value one of a PROBE fault (R163). -/
def probeValue : ProbeResult → Nat
  | .count c => c
  | .overrange => 65535
  | .timeout => 0

/-- Temperature of a count in 0.5 degree steps, a half-step rounded down, limited to -64.0 and +63.5 (R164). -/
def temperatureOf (c0 c40 c : Nat) : Int :=
  let d : Int := (c40 : Int) - c0
  let n : Int := 80 * ((c : Int) - c0)
  let num := if d < 0 then -n else n
  let den := if d < 0 then -d else d
  max (-128) (min 127 ((2 * num + den - 1) / (2 * den)))

/-- Evaporation class of a temperature (R164). -/
def classOf (t : Int) : Nat := if t < 20 then 0 else if t < 40 then 1 else if t < 60 then 2 else 3

/-- Hold duty in percent at a coil voltage in 0.1 V, rounded up and limited to 20 and 100 (R135, log 24). -/
def dutyAt (duty volts : Nat) : Nat :=
  if volts = 0 then 100 else max 20 (min 100 ((duty * 240 + volts - 1) / volts))

/-- Window rate of p pulses in 0.5 L/min steps, rounded down and rounded up (R147, R153, R155). -/
def rateDown (p k : Nat) : Nat := 24 * p / k
def rateUp (p k : Nat) : Nat := (24 * p + k - 1) / k

/-- Instantaneous rate in 0.5 L/min steps, rounded down; 0 with no last interval (R146, R155). -/
def instantRate (interval : Option Nat) (k : Nat) : Nat :=
  match interval with
  | none => 0
  | some i => 120000 / (i * k)

/-- Two window counts show a stable flow (R150). -/
def stableFlow (p q k : Nat) : Bool := decide (10 * (max p q - min p q) ≤ min p q) && decide (k ≤ 24 * q)

/-- Circular distance of two minutes of the day (R170). -/
def minuteDistance (a b : Nat) : Nat := let d := max a b - min a b; min d (1440 - d)

end Sys2Proof.Machine
end

