-- ==== Sys2Proof/Machine/Beds.lean ====
section
/-! DEFINITION. Bed records: the weather that needs read (R99, R169), needs and urgencies (R89 to R94), a bed's changes
of state with their entry effects (R87, R88), pending targets (R107), WATER (R105) and the wait queue (R96). -/

namespace Sys2Proof.Machine

/-! ### The weather record's age (R168, R169) -/

/-- The record's contents while it is fresh: set, and its age not above 30 min (log 23). -/
def State.freshSky (s : State) : Option Sky :=
  match s.pw.weather with
  | some r => if s.now - r.receipt ≤ Config.recordStale then some r.content else none
  | none => none

/-- The evaporation class the rules take: 1 while the record is stale (R169). -/
def State.evapClass (s : State) : Nat := (s.freshSky.map (·.evapClass)).getD 1

/-- The STALE condition: the age above 30 min, or never set and 30 min since the end of LOADING (R169). -/
def State.staleCondition (s : State) : Bool :=
  match s.pw.weather with
  | some r => decide (Config.recordStale < s.now - r.receipt)
  | none => decide (s.sl.loadingEnd + Config.recordStale ≤ s.now) && s.live

/-! ### Bed states -/

/-- A cycle is under way that a cut can end: OPENING, CONFIRMING or RUNNING (R120). -/
def BedState.cycling : BedState → Bool
  | .opening | .confirming | .running => true
  | _ => false

/-- A state whose entry and leaving is a transient (R152). -/
def BedState.transient : BedState → Bool
  | .opening | .confirming | .closing => true
  | _ => false

/-- A state that takes credits (R118). -/
def BedState.credited : BedState → Bool
  | .confirming | .running => true
  | _ => false

/-- A bed changes state. The last transient moves (R152), a confirm timer stops as CONFIRMING is left (R149), the
unmetered carry goes back to 0 outside CONFIRMING and RUNNING (R148), the backoff goes to 0 (R98), the soak timer stops. -/
def State.moveBed (b : BedId) (st : BedState) (s : State) : State :=
  let old := (s.bed b).state
  let s := s.modBed b fun x => { x with state := st, backoffEnd := none, soakSince := none }
  { s with
    fm.lastTransient := if old.transient || st.transient then s.now else s.fm.lastTransient
    fm.confirms := if st = .confirming then s.fm.confirms else s.fm.confirms.set b none
    fm.bedCarry := if st.credited then s.fm.bedCarry else s.fm.bedCarry.set b 0 }

/-- Probe mode, area 0 and the probe-failed mark set: nothing is left to give the bed its need (R95). -/
def State.brokenProbe (b : BedId) (s : State) : Bool :=
  decide ((s.setupOf b).mode = .probe) && decide ((s.setupOf b).area = 0) && (s.bed b).probeFailed

/-- FAULTED with its cause: no need, no ordered mark, no run record (R88). -/
def State.setFaulted (b : BedId) (f : BedFault) (s : State) : State :=
  (s.moveBed b .faulted).modBed b fun x =>
    { x with fault := some f, need := 0, urgency := .normal, ordered := false, run := none }

/-- IDLE with its entry effects (R87): a run that ends with a broken probe ends in FAULTED(PROBE) instead (R95). -/
def State.setIdle (b : BedId) (s : State) : State :=
  if (s.bed b).run.isSome && s.brokenProbe b then s.setFaulted b .probe
  else (s.moveBed b .idle).modBed b fun x =>
    { x with fault := none, need := 0, urgency := .normal, ordered := false, waitAge := 0, ageSince := none, run := none }

/-- WAITING with a backoff (R98); an entry from IDLE starts the wait age (R97). It is an offer occasion (R63). -/
def State.setWaiting (b : BedId) (backoff : Nat) (s : State) : State :=
  let fresh := decide ((s.bed b).state = .idle)
  ((s.moveBed b .waiting).modBed b fun x =>
    { x with
      backoffEnd := if backoff = 0 then none else some (s.now + backoff)
      waitAge := if fresh then 0 else x.waitAge
      ageSince := if fresh then some s.now else x.ageSince }).noteOccasion

/-- OFF: the need is cleared (R88). -/
def State.setOff (b : BedId) (s : State) : State :=
  (s.moveBed b .off).modBed b fun x =>
    { x with fault := none, need := 0, urgency := .normal, ordered := false, waitAge := 0, ageSince := none, run := none }

/-! ### Needs -/

/-- Probe rules apply (section 5.3). -/
def State.probeRules (b : BedId) (s : State) : Bool :=
  decide ((s.setupOf b).mode = .probe) && !(s.bed b).probeFailed

/-- Daily cap less delivered today, in 0.1 L (R90). -/
def State.room (b : BedId) (s : State) : Nat := 10 * (s.setupOf b).cap - (s.bed b).delivered

/-- The effective start (R90). -/
def effectiveStart (start stop cls : Nat) : Nat := min (start + 2 * cls) (stop - 1)

/-- Urgency of a need found at wetness w (R91). -/
def probeUrgency (floor start w : Nat) : Urgency :=
  if w ≤ floor then .severe else if w + 10 ≤ start then .dry else .normal

/-- Need and urgency by probe rules (R90, R91). -/
def probeNeed (u : BedSetup) (x : Bed) (cls room w : Nat) : Option (Nat × Urgency) :=
  if effectiveStart x.start x.stop cls < w then none
  else
    let need := min ((x.stop - w) * u.litresPerPoint) room
    if need = 0 then none else some (need, probeUrgency u.floor x.start w)

/-- Need and urgency by debt rules (R94). -/
def debtNeed (threshold debt room : Nat) : Option (Nat × Urgency) :=
  if debt < 10 * threshold then none
  else
    let need := min debt room
    if need = 0 then none else some (need, if 20 * threshold ≤ debt then .dry else .normal)

/-- The result of a need evaluation under the bed's rules (section 5.3). -/
def State.needResult (b : BedId) (s : State) : Option (Nat × Urgency) :=
  let u := s.setupOf b
  let x := s.bed b
  if s.probeRules b then
    match x.wetness with
    | some w => probeNeed u x s.evapClass (s.room b) w
    | none => none
  else debtNeed u.threshold x.debt (s.room b)

/-- A bed's urgency is set. A WAITING bed changes place, an offer occasion (R63); a CLAIMING bed's new urgency reaches
the claim record and the own PENDING entry, a book change (R66). -/
def State.setUrgency (b : BedId) (u : Urgency) (s : State) : State :=
  let x := s.bed b
  if x.urgency = u then s
  else
    let s := s.modBed b fun x => { x with urgency := u }
    match x.state with
    | .waiting => s.noteOccasion
    | .claiming =>
      let s := { s with sb.claim.urgency := u }
      if s.hasEntry s.sl.own b.val then
        s.putBook (updateEntry s.sl.own b.val (fun e => { e with urgency := u }) s.sb.book)
      else s
    | _ => s

/-- Urgency that an evaluation leaves under the ordered mark (R89). -/
def orderedUrgency (result : Option (Nat × Urgency)) : Urgency :=
  if result.map (·.2) = some .severe then .severe else .dry

/-- The result's urgency is taken; the ordered mark allows SEVERE and DRY alone (R89). -/
def State.takeUrgency (b : BedId) (result : Option (Nat × Urgency)) (s : State) : State :=
  if (s.bed b).ordered then s.setUrgency b (orderedUrgency result)
  else match result with
    | some (_, u) => s.setUrgency b u
    | none => s

/-- The result's need is taken, unless the ordered mark keeps the bed's own (R89). -/
def State.takeNeed (b : BedId) (result : Option (Nat × Urgency)) (s : State) : State :=
  match result with
  | some (n, _) => if (s.bed b).ordered then s else s.modBed b fun x => { x with need := n }
  | none => s

/-- A need evaluation of a WAITING bed without a run record finds none (R89). -/
def State.losesNeed (b : BedId) (result : Option (Nat × Urgency)) (s : State) : Bool :=
  result.isNone && !(s.bed b).ordered && (s.bed b).run.isNone

/-- A wetness at or above the active stop, under probe rules (R89, R117, R126). -/
def State.wetEnough (b : BedId) (s : State) : Bool :=
  s.probeRules b && (match (s.bed b).wetness with | some w => decide ((s.bed b).stop ≤ w) | none => false)

/-- A need evaluation of a bed (R89); `fresh` says that it runs on a new wetness value, which alone can end a waiting
run (log 16). BARRED and the skip mark pass evaluations over (R89, R106, log 28). A bed in IDLE whose probe is broken goes
to FAULTED(PROBE); no PROBE fault and no pending PROBE come of it here, where no CLEAR brings it about (R88, log 32). -/
def State.evaluate (b : BedId) (fresh : Bool) (s : State) : State :=
  let x := s.bed b
  if s.sl.station = .barred || x.skip then s
  else
    let result := s.needResult b
    match x.state with
    | .idle =>
      if s.brokenProbe b then s.setFaulted b .probe
      else match result with
        | some (n, u) => (s.setWaiting b 0).modBed b fun x => { x with need := n, urgency := u }
        | none => s
    | .waiting =>
      if fresh && x.run.isSome && s.wetEnough b then s.setIdle b
      else if s.losesNeed b result then s.setIdle b
      else if x.run.isSome then s.takeUrgency b result
      else (s.takeNeed b result).takeUrgency b result
    | .claiming =>
      if x.run.isSome then s.takeUrgency b result
      else (s.takeNeed b result).takeUrgency b result
    | _ => s

/-- Pending targets are brought into force (R107). -/
def State.bringTargets (b : BedId) (s : State) : State :=
  match (s.bed b).targets with
  | none => s
  | some (start, stop) =>
    let s := s.modBed b fun x => { x with start := start, stop := stop, targets := none }
    let x := s.bed b
    if (x.state = .idle || x.state = .waiting) && x.run.isNone then s.evaluate b false else s

/-! ### Entries to the resting states: the entry brings pending targets into force (R87, R107) -/

def State.toIdle (b : BedId) (s : State) : State := (s.setIdle b).bringTargets b
def State.toWaiting (b : BedId) (backoff : Nat) (s : State) : State := (s.setWaiting b backoff).bringTargets b
def State.toFaulted (b : BedId) (f : BedFault) (s : State) : State := (s.setFaulted b f).bringTargets b

/-! ### WATER (R105) -/

/-- Urgency that a WATER order leaves. -/
def wateredUrgency (u : Urgency) : Urgency := if u = .severe then .severe else .dry

/-- A WATER order of so many litres is applied to a bed in any state it can be applied in (R105). -/
def State.applyWater (b : BedId) (litres : Nat) (s : State) : State :=
  let s := s.modBed b fun x => { x with ordered := true, skip := false }
  let x := s.bed b
  let u := wateredUrgency x.urgency
  match x.run with
  | some r => (s.modBed b fun x => { x with run := some { r with need := r.delivered + 10 * litres } }).setUrgency b u
  | none =>
    match x.state with
    | .idle => (s.setWaiting b 0).modBed b fun x => { x with need := 10 * litres, urgency := .dry }
    | _ => (s.modBed b fun x => { x with need := 10 * litres }).setUrgency b u

/-! ### The wait queue (R96) -/

def Urgency.rank : Urgency → Nat
  | .normal => 0
  | .dry => 1
  | .severe => 2

/-- Bed `a` stands ahead of bed `b`: urgency, then wait age, then bed number. -/
def State.ahead (s : State) (a b : BedId) : Bool :=
  let ra := Urgency.rank (s.bed a).urgency
  let rb := Urgency.rank (s.bed b).urgency
  let ga := (s.bed a).waitAge
  let gb := (s.bed b).waitAge
  decide (rb < ra) || (ra == rb && (decide (gb < ga) || (ga == gb && decide (a < b))))

/-- A bed takes its place in the queue. -/
def State.place (s : State) (b : BedId) : List BedId → List BedId
  | [] => [b]
  | a :: rest => if s.ahead b a then b :: a :: rest else a :: s.place b rest

/-- The beds in WAITING, head first. -/
def State.waitQueue (s : State) : List BedId :=
  (allBeds.filter fun b => decide ((s.bed b).state = .waiting)).foldl (fun q b => s.place b q) []

end Sys2Proof.Machine
end

