-- ==== Sys2Proof/Machine/Runs.lean ====
section
/-! DEFINITION. Runs (chapter 6): the start of a cycle, the reports OPEN, confirmed and CLOSED, the limits of a run, and
the credit with its end tests. Nothing here speaks to the valve drive. -/

namespace Sys2Proof.Machine

/-! ### A cycle's start (R111) -/

/-- The run record as a commit leaves it: created, or carried into its next cycle. -/
def nextCycle (old : Option Run) (need clock : Nat) : Run :=
  match old with
  | none => ⟨need, 0, 1, 0, clock, none, none⟩
  | some r => { r with cycle := r.cycle + 1, cycleDelivered := 0, endCause := none }

/-- CLAIMING to OPENING at a commit; the open request follows (R114). -/
def State.startCycle (b : BedId) (s : State) : State :=
  (s.moveBed b .opening).modBed b fun x => { x with run := some (nextCycle x.run x.need s.runClock) }

/-! ### Reports -/

/-- A bed in CONFIRMING is confirmed; the report is disregarded in any other state (R115). -/
def State.bedConfirmed (b : BedId) (s : State) : State :=
  if (s.bed b).state = .confirming then s.moveBed b .running else s

/-- OPEN is reported: a bed in OPENING goes to CONFIRMING and its confirm timer starts; IMMEDIATE confirms at once
(R114, R115, R149). -/
def State.bedOpened (b : BedId) (s : State) : State :=
  if (s.bed b).state = .opening then
    let s := s.moveBed b .confirming
    let s := { s with fm.confirms := s.fm.confirms.set b (some s.now) }
    if (s.setupOf b).confirm = .immediate then s.bedConfirmed b else s
  else s

/-- Where a close leads before the limits are applied. -/
inductive After where
  | soak
  | wait (backoff : Nat)
  | idle
  | fault (f : BedFault)
deriving DecidableEq, Repr

/-- The next state that an end cause chooses (R124); a closing bed always has one. -/
def afterCause (cause : Option EndCause) (soak : Nat) : After :=
  match cause with
  | some .cycleDone => if soak = 0 then .wait 0 else .soak
  | some .hold | some .line | some .overdraw | some .shed | some .supply => .wait (30 * Config.second)
  | some .leak => .fault .leak
  | some .noflow => .fault .noflow
  | some .needMet | some .wet | some .cap | some .skip | some .barred | none => .idle

/-- Twelve cycles (R125). -/
def cycleLimit : Nat := 12

/-- The run's age has reached one day (R125). -/
def State.dayOld (r : Run) (s : State) : Bool := decide (1440 ≤ s.runClock - r.startMinute)

/-- The limits turn SOAKING and WAITING into IDLE (R125), as BARRED does (R187). -/
def State.limited (r : Run) (a : After) (s : State) : After :=
  match a with
  | .soak | .wait _ =>
    if decide (cycleLimit ≤ r.cycle) || s.dayOld r || decide (s.sl.station = .barred) then .idle else a
  | .idle | .fault _ => a

/-- The bed enters the state a close leads to. -/
def State.enterAfter (b : BedId) (a : After) (s : State) : State :=
  match a with
  | .soak => (s.moveBed b .soaking).modBed b fun x => { x with soakSince := some s.now }
  | .wait d => s.toWaiting b d
  | .idle => s.toIdle b
  | .fault f => s.toFaulted b f

/-- A WATER kept in CLOSING is applied to the state reached; FAULTED refuses it, BARRED discards it (R105, R187). -/
def State.applyKept (b : BedId) (kept : Option Nat) (s : State) : State :=
  match kept with
  | none => s
  | some litres =>
    if (s.bed b).state = .faulted then s.noteRefusal .water .bedOff
    else if s.sl.station = .barred then s
    else (s.modBed b fun x => { x with run := x.run.map fun r => { r with keptOrder := none } }).applyWater b litres

/-- The close reaches the supply book: a FREE is queued and the own entry leaves (R56). -/
def State.freeBed (b : BedId) (s : State) : State := (s.offer (.free b.val)).remove s.sl.own b.val

/-- CLOSED is reported for a bed in CLOSING (R124); disregarded in any other state. -/
def State.bedClosed (b : BedId) (s : State) : State :=
  if (s.bed b).state = .closing then
    let s := (s.freeBed b).bringTargets b
    match (s.bed b).run with
    | some r => (s.enterAfter b (s.limited r (afterCause r.endCause (s.setupOf b).soak))).applyKept b r.keptOrder
    | none => s.toIdle b
  else s

/-! ### Credits (R116, R118) -/

/-- Delivered today is held at 2000.0 L (R118). -/
def dayLimit : Nat := 20000

/-- A credit is added to the bed's volumes. -/
def State.addCredit (b : BedId) (v : Nat) (s : State) : State :=
  s.modBed b fun x =>
    { x with
      delivered := min (x.delivered + v) dayLimit
      debt := x.debt - v
      run := x.run.map fun r => { r with delivered := r.delivered + v, cycleDelivered := r.cycleDelivered + v } }

/-- The first end test that holds (R116). -/
def endTest (u : BedSetup) (x : Bed) (r : Run) : Option EndCause :=
  if r.need ≤ r.delivered then some .needMet
  else if !x.ordered && decide (10 * u.cap ≤ x.delivered) then some .cap
  else if 10 * u.cycle ≤ r.cycleDelivered then some .cycleDone
  else none

end Sys2Proof.Machine
end

