-- ==== Sys2Proof/Machine/Valves.lean ====
section
/-! DEFINITION. The valve drive's operations (chapter 7): valve states, the pulse queue and generator, the hold channels,
and the open and close requests with the reports they bring at once. -/

namespace Sys2Proof.Machine

/-! ### Valve states -/

/-- A valve changes state; leaving UNKNOWN is a transient unless its bed is OFF (R152). -/
def State.setValve (b : BedId) (v : ValveState) (s : State) : State :=
  let left := decide (s.valve b = .unknown) && decide (v ≠ .unknown) && decide ((s.bed b).state ≠ .off)
  { s with
    vd.valves := s.vd.valves.set b v
    fm.lastTransient := if left then s.now else s.fm.lastTransient }

/-- CLOSED is reached and reported (R129). -/
def State.valveClosed (b : BedId) (s : State) : State := (s.setValve b .closed).bedClosed b

/-- OPENING, OPEN or CLOSING (R64, R130). -/
def ValveState.active : ValveState → Bool
  | .opening | .opened | .closing => true
  | .closed | .unknown => false

/-! ### The pulse generator (R131, R132) -/

/-- The generator, when IDLE, takes the next valve of the reserve closure, or the queue's head while the supply is GOOD. -/
def State.kick (s : State) : State :=
  match s.vd.generator with
  | .idle =>
    match s.vd.closures with
    | b :: rest => { s with vd.closures := rest, vd.generator := .pulse ⟨b, .closes⟩ true s.now }
    | [] =>
      if s.vd.supply = .good then
        match s.vd.queue with
        | r :: rest => { s with vd.queue := rest, vd.generator := .pulse r false s.now }
        | [] => s
      else s
  | .pulse .. | .recovery _ => s

/-- The bed has a request in the queue (R132). -/
def State.queued (b : BedId) (s : State) : Bool := s.vd.queue.any fun r => decide (r.bed = b)

/-- The generator holds a request of the bed (R132). -/
def State.pulsing (b : BedId) (s : State) : Bool :=
  match s.vd.generator with
  | .pulse r _ _ => decide (r.bed = b)
  | .idle | .recovery _ => false

/-- A request joins the tail, at most one for each bed (R132); the pulse begins at once where the generator is free. -/
def State.queueRequest (b : BedId) (d : Direction) (s : State) : State :=
  if s.queued b then s else State.kick { s with vd.queue := s.vd.queue ++ [Request.mk b d] }

/-! ### The hold channels (R134) -/

def State.channelOf (b : BedId) (s : State) : Option Channel :=
  match s.vd.channelA, s.vd.channelB with
  | some c, some d => if c.bed = b then some c else if d.bed = b then some d else none
  | some c, none => if c.bed = b then some c else none
  | none, some d => if d.bed = b then some d else none
  | none, none => none

/-- Every taken channel is changed. -/
def State.mapChannels (f : Channel → Channel) (s : State) : State :=
  { s with vd.channelA := s.vd.channelA.map f, vd.channelB := s.vd.channelB.map f }

/-- The bed's channel is changed. -/
def State.modChannel (b : BedId) (f : Channel → Channel) (s : State) : State :=
  s.mapChannels fun c => if c.bed = b then f c else c

/-- The bed's channel is freed. -/
def State.freeChannel (b : BedId) (s : State) : State :=
  let keep := fun c : Channel => decide (c.bed ≠ b)
  { s with vd.channelA := s.vd.channelA.filter keep, vd.channelB := s.vd.channelB.filter keep }

/-- A channel's phase as it is taken: pull-in at once, or a wait until the supply is GOOD. -/
def State.takenPhase (s : State) : ChannelPhase := if s.vd.supply = .good then .pullIn s.now false else .waiting

/-- The lowest-numbered free channel is taken and the valve goes to OPENING. -/
def State.takeChannel (b : BedId) (s : State) : State :=
  let c : Channel := ⟨b, s.takenPhase, none, none⟩
  match s.vd.channelA, s.vd.channelB with
  | none, _ => State.setValve b .opening { s with vd.channelA := some c }
  | some _, none => State.setValve b .opening { s with vd.channelB := some c }
  | some _, some _ => s

/-! ### Requests (R130, R133, R134) -/

/-- An open request: admitted for a CLOSED valve alone, and not while a close of the bed waits (R133) or its pulse runs
(log 46). -/
def State.openRequest (b : BedId) (s : State) : State :=
  if s.valve b = .closed ∧ s.queued b = false ∧ s.pulsing b = false then
    match (s.setupOf b).kind with
    | .latch => (s.setValve b .opening).queueRequest b .opens
    | .held => s.takeChannel b
  else s

/-- A close request for a latching valve in OPENING: its waiting open request is removed, or the close waits for the end
of the pulse under way (R133). -/
def State.closeOpening (b : BedId) (s : State) : State :=
  if s.queued b && !s.pulsing b then
    State.valveClosed b { s with vd.queue := s.vd.queue.filter fun r => decide (r.bed ≠ b) }
  else s.queueRequest b .closes

/-- A close request for a held valve in OPENING (R134). -/
def State.closeHeldOpening (b : BedId) (s : State) : State :=
  match (s.channelOf b).map Channel.phase with
  | some (.pullIn since _) => s.modChannel b fun c => { c with phase := .pullIn since true }
  | some .waiting | some .hold | none => (s.freeChannel b).valveClosed b

/-- A close request. -/
def State.closeRequest (b : BedId) (s : State) : State :=
  match (s.setupOf b).kind, s.valve b with
  | _, .closed => s.bedClosed b
  | .latch, .opening => s.closeOpening b
  | .latch, .opened => (s.setValve b .closing).queueRequest b .closes
  | .latch, .closing => s
  | .latch, .unknown => s.queueRequest b .closes
  | .held, .opening => s.closeHeldOpening b
  | .held, .opened => (s.freeChannel b).valveClosed b
  | .held, .closing => s
  | .held, .unknown => s

end Sys2Proof.Machine
end

