-- ==== Sys2Proof/Machine/Cycles.lean ====
section
/-! DEFINITION. The end of a cycle (R113, R116, R117, R120, R122) and what withdraws a claim: withdrawal by phase (R81),
the hold set's joins and leaves (R99, R100), line-loss closure (R18), and the wetness values handed over (R89, R117). -/

namespace Sys2Proof.Machine

/-! ### Cycle ends -/

/-- OPENING, CONFIRMING or RUNNING to CLOSING with an end cause; the close request goes out in the same event, except
for SUPPLY, whose closing the valve drive does itself (R113, R120, R121). SKIP and BARRED clear the need (log 35). -/
def State.endCycle (b : BedId) (cause : EndCause) (s : State) : State :=
  let s := (s.moveBed b .closing).modBed b fun x =>
    { x with run := x.run.map fun r => { r with
        endCause := some cause
        need := if cause = .skip ∨ cause = .barred then r.delivered else r.need } }
  if cause = .supply then s else s.closeRequest b

/-- A cut: it finds a cycle in OPENING, CONFIRMING or RUNNING, or is disregarded (R120). -/
def State.cut (b : BedId) (cause : EndCause) (s : State) : State :=
  if (s.bed b).state.cycling then s.endCycle b cause else s

/-- A fault report: it finds the bed in CONFIRMING or RUNNING, or is disregarded (R122). -/
def State.faultBed (b : BedId) (cause : EndCause) (s : State) : State :=
  if (s.bed b).state.credited then s.endCycle b cause else s

/-- A window's credit of a bed, with its end tests; a credit of 0 runs none (R116, R118). -/
def State.credit (b : BedId) (v : Nat) (s : State) : State :=
  if v = 0 || !(s.bed b).state.credited then s
  else
    let s := s.addCredit b v
    match (s.bed b).run with
    | none => s
    | some r =>
      match endTest (s.setupOf b) (s.bed b) r with
      | some c => s.endCycle b c
      | none => s

/-! ### Wetness (R89, R117, R126) -/

/-- The stop test, or the evaluation, that a wetness value just taken leads to. -/
def State.weighWetness (b : BedId) (s : State) : State :=
  match (s.bed b).state with
  | .confirming | .running => if s.wetEnough b then s.endCycle b .wet else s
  | .soaking => if s.wetEnough b then s.toIdle b else s
  | .idle | .waiting | .claiming => s.evaluate b true
  | .off | .opening | .closing | .faulted => s

/-- A new smoothed wetness is handed over: it becomes the last wetness of a bed that is not OFF, and is weighed. -/
def State.handWetness (b : BedId) (w : Nat) (s : State) : State :=
  if (s.bed b).state = .off then s
  else (s.modBed b fun x => { x with wetness := some w }).weighWetness b

/-! ### The claim's end (R71, R72, R76, R81) -/

/-- The claim's DROP is queued and its own entry leaves: it stands in ENDING, with nothing running (R71, R81). -/
def State.endClaim (s : State) : State :=
  let c := s.sb.claim
  let s := (s.offer (.drop c.bed)).remove s.sl.own c.bed.val
  { s with sb.claim := { c with
      phase := .ending, resolveSince := none, victimSince := none, outcome := none, withdrawn := false, seniors := [] } }

/-- The backoff after a drop (R71). -/
def dropBackoff : Urgency → Nat
  | .normal => 30 * Config.second
  | .dry => 20 * Config.second
  | .severe => 10 * Config.second

/-- A drop: the bed goes back to WAITING with its backoff (R71). -/
def State.dropClaim (s : State) : State :=
  let c := s.sb.claim
  let s := s.endClaim
  if (s.bed c.bed).state = .claiming then s.toWaiting c.bed (dropBackoff c.urgency) else s

/-- The queue holds a notice of this sort. -/
def State.holdsNotice (p : Notice → Bool) (s : State) : Bool := s.tq.queue.any fun q => p q.notice

/-- A claim withdrawn before its CLAIM reached the line ends at once, an offer occasion (R81). -/
def State.clearClaim (s : State) : State := { s with sb.claim := .none }.noteOccasion

/-- A withdrawal acts on the claim record by its phase; the bed is moved by its caller (R81). -/
def State.withdraw (s : State) : State :=
  match s.sb.claim.phase with
  | .none | .ending => s
  | .sending =>
    let s := s.cancel Notice.isClaim
    if s.holdsNotice Notice.isClaim then { s with sb.claim.withdrawn := true } else s.clearClaim
  | .resolving | .awaiting => s.endClaim
  | .asking =>
    let s := State.cancel Notice.isShed { s with sb.claim.outcome := some .drop }
    if s.holdsNotice Notice.isShed then s else s.endClaim

/-- A CLAIMING bed's claim is withdrawn and the bed goes back to WAITING without backoff (R80). -/
def State.withdrawToWaiting (b : BedId) (s : State) : State := s.withdraw.toWaiting b 0

/-! ### The hold set (R99, R100) -/

/-- The cut that a joining reason makes. -/
def HoldReason.cut : HoldReason → Option EndCause
  | .rain | .freeze | .pause => some .hold
  | .supply => some .supply
  | .line => some .line
  | .defer => none

/-- A joining reason acts on one bed. -/
def State.holdBed (r : HoldReason) (b : BedId) (s : State) : State :=
  match (s.bed b).state with
  | .opening | .confirming | .running =>
    match r.cut with
    | some c => s.endCycle b c
    | none => s
  | .claiming => if r = .defer ∧ s.sb.claim.urgency = .severe then s else s.withdrawToWaiting b
  | .off | .idle | .waiting | .closing | .soaking | .faulted => s

/-- A reason joins; one already present changes nothing. The join is an offer occasion (R63). -/
def State.joinHold (r : HoldReason) (s : State) : State :=
  if s.bc.holds.has r then s
  else (State.forBeds (State.holdBed r) { s with bc.holds := s.bc.holds.put r true }).noteOccasion

/-- A reason leaves; no bed changes state, and it is an offer occasion (R63). -/
def State.leaveHold (r : HoldReason) (s : State) : State :=
  if s.bc.holds.has r then { s with bc.holds := s.bc.holds.put r false }.noteOccasion else s

def State.setHold (r : HoldReason) (v : Bool) (s : State) : State := if v then s.joinHold r else s.leaveHold r

/-- RAIN, DEFER and FREEZE are recomputed from the weather record; a stale one gives none of them (R99, log 17). -/
def State.weighWeather (s : State) : State :=
  match s.freshSky with
  | some k =>
    ((s.setHold .rain (decide (0 < s.sl.setup.rainThreshold) && decide (10 * s.sl.setup.rainThreshold ≤ k.dayRain))).setHold
      .defer (decide (4 ≤ k.recentRain))).setHold .freeze (decide (k.temperature ≤ 4))
  | none => ((s.setHold .rain false).setHold .defer false).setHold .freeze false

/-! ### Line-loss closure (R18) -/

/-- The line-loss timer in whole seconds, and the head notice's kind code (R14, R177). -/
def State.lossSeconds (s : State) : Nat := (s.now - s.li.lossSince) / Config.second
def State.headKind (s : State) : Nat := ((s.tq.queue.head?).map (·.notice.code)).getD 0

/-- Runs are cut, the LINE hold joins, LINE is pending with a LINE fault (R18, R173, R177). The fault's collision run is
the head's as it stood before the join, which can withdraw a CLAIM at the head (log 22). R18 names the cuts before the join,
R100 has the join act on the beds in bed order: the model cuts and withdraws in one pass, in bed order, so a CLAIMING bed's DROP
goes before the FREE of a held bed of a higher number (log 57). -/
def State.closeLine (s : State) : State :=
  (s.joinHold .line).raise .line 15 0 0 0 s.tq.headRun s.lossSeconds

/-- The line-loss timer is at or past 25 s and no LINE hold stands (R18). -/
def State.lineLost (s : State) : Bool :=
  decide (s.li.lossSince + Config.lineLossTime ≤ s.now) && !s.bc.holds.line

/-- An own entry has become COMMITTED: closure begins where the timer is past 25 s (R18). -/
def State.ownCommitted (s : State) : State := if s.lineLost then s.closeLine else s

end Sys2Proof.Machine
end

