-- ==== Sys2Proof/Machine/Exchange.lean ====
section
/-! DEFINITION. The claim exchange (chapter 4) and what closes an event: the fits test, commit, shed and re-resolution
(R69 to R77), the offer (R63 to R66), the book's steps and reports (R40, R53, R58), and the ALERTs (R174). -/

namespace Sys2Proof.Machine

/-! ### Resolution (R69, R70) -/

/-- The entry is a member still in the claim's senior set: named in it and PENDING (R58, R68). -/
def Claim.counts (c : Claim) (e : Entry) : Bool := !e.committed && c.seniors.any fun p => e.named p.1 p.2

/-- Sum of the flows of the members still in the senior set. -/
def seniorSum (c : Claim) (book : List Entry) : Nat := ((book.filter c.counts).map (·.flow)).sum

/-- The total of the fits test (R69). -/
def State.fitsTotal (s : State) : Nat :=
  committedSum s.sb.book + seniorSum s.sb.claim s.sb.book + s.sb.claim.flow

def State.fits (s : State) : Bool := decide (s.fitsTotal ≤ s.sb.budget)

/-- A commit: the own entry becomes COMMITTED, heard now, a COMMIT is queued, the bed opens (R36, R70). -/
def State.commitClaim (s : State) : State :=
  let c := s.sb.claim
  let s := s.putBook (updateEntry s.sl.own c.bed.val (fun e => { e with committed := true, heard := s.now }) s.sb.book)
  let s := { s with sb.claim := { c with
      phase := .ending, resolveSince := none, victimSince := none, outcome := none, seniors := [] } }
  (((s.offer (.commit c.bed)).startCycle c.bed).openRequest c.bed).ownCommitted

/-! ### The shed (R73 to R75) -/

/-- An entry that can be the victim of a shed (R73). -/
def Entry.sheddable (e : Entry) (shortfall age : Nat) : Bool :=
  e.committed && decide (e.urgency = .normal) && decide (e.bed < 8) && decide (shortfall ≤ e.flow) && decide (e.age ≤ age)

/-- The victim: the latest such entry in book order (R73). -/
def victimOf (shortfall age : Nat) (book : List Entry) : Option Entry :=
  book.reverse.find? fun e => e.sheddable shortfall age

/-- A shed of one of the station's own entries (R74). -/
def State.shedOwn (e : Entry) (s : State) : State :=
  let s := { s with
    sb.claim.phase := .awaiting, sb.claim.shedMade := true, sb.claim.victim := some (e.station, e.bed),
    sb.claim.resolveSince := none, sb.claim.victimSince := some s.now }
  match bedOf e.bed with
  | some b => s.cut b .shed
  | none => s

/-- A shed of a peer's entry (R75). -/
def State.shedPeer (e : Entry) (s : State) : State :=
  State.offer (.shed e.station e.bed s.sb.claim.bed) { s with
    sb.claim.phase := .asking, sb.claim.shedMade := true, sb.claim.victim := some (e.station, e.bed),
    sb.claim.resolveSince := none }

/-- A SEVERE claim that does not fit and has made no shed chooses a victim, or drops (R73). -/
def State.shedClaim (s : State) : State :=
  match victimOf (s.fitsTotal - s.sb.budget) s.sb.claim.age s.sb.book with
  | none => s.dropClaim
  | some e => if e.station = s.sl.own then s.shedOwn e else s.shedPeer e

/-- The claim is resolved by the fits test (R69). -/
def State.resolve (s : State) : State :=
  if s.fits then s.commitClaim
  else if s.sb.claim.urgency = .severe ∧ s.sb.claim.shedMade = false then s.shedClaim
  else s.dropClaim

/-- The SHED has left the queue: the held outcome is applied (R76). -/
def State.applyHeld (s : State) : State :=
  match s.sb.claim.outcome with
  | some .reResolve => State.resolve { s with sb.claim.outcome := none }
  | some .drop => s.endClaim
  | none => s

/-- The victim's entry has left the book (R76, R77). -/
def State.victimLeaves (s : State) : State :=
  match s.sb.claim.phase, s.sb.claim.outcome with
  | .awaiting, _ => s.resolve
  | .asking, none =>
    let s := State.cancel Notice.isShed { s with sb.claim.outcome := some .reResolve }
    if s.holdsNotice Notice.isShed then s else s.applyHeld
  | .asking, some _ => s
  | .none, _ | .sending, _ | .resolving, _ | .ending, _ => s

/-! ### Offers (R63 to R66, R101) -/

/-- The watering window is open at a minute (R101). -/
def windowOpen (start stop m : Nat) : Bool :=
  if start = stop then true
  else if start < stop then decide (start ≤ m) && decide (m < stop)
  else decide (start ≤ m) || decide (m < stop)

/-- The window is open now; an unset clock opens it (R101). -/
def State.windowNow (s : State) : Bool :=
  !s.pw.clockSet || windowOpen s.sl.setup.windowStart s.sl.setup.windowEnd s.pw.minute

/-- Courtesy delay by urgency (R65). -/
def courtesyDelay : Urgency → Nat
  | .normal => 2 * Config.second
  | .dry => Config.second
  | .severe => 0

/-- The courtesy delay for an urgency has run out (R65). -/
def State.courtesyOver (u : Urgency) (s : State) : Bool :=
  match s.sb.lastFree with
  | none => true
  | some t => decide (t + courtesyDelay u ≤ s.now)

/-- Beds whose valve is OPENING, OPEN or CLOSING, and those of held kind among them (R64). -/
def State.activeValves (s : State) : List BedId := allBeds.filter fun b => (s.valve b).active
def State.activeHeld (s : State) : List BedId := s.activeValves.filter fun b => decide ((s.setupOf b).kind = .held)

/-- Eligibility tests 7 to 10, of the bed's valve (R64). -/
def State.valveReady (b : BedId) (s : State) : Bool :=
  decide (s.activeValves.length < 4)
    && (match (s.setupOf b).kind with
        | .held => decide (s.activeHeld.length < 2)
        | .latch => s.vd.ready)
    && !s.vd.marks.get b

/-- Eligibility tests 11 and 12, of the book (R64). -/
def State.bookReady (b : BedId) (s : State) : Bool :=
  decide (s.sb.book.length < Config.bookRoom)
    && (decide ((s.setupOf b).flow + flowSum s.sb.book ≤ s.sb.budget) || decide ((s.bed b).urgency = .severe))

/-- The bed's backoff has run out (R64, R98). -/
def State.backoffOver (b : BedId) (s : State) : Bool :=
  match (s.bed b).backoffEnd with
  | none => true
  | some t => decide (t ≤ s.now)

/-- The bed may be offered (R64). -/
def State.eligible (b : BedId) (s : State) : Bool :=
  let u := (s.bed b).urgency
  decide (s.sl.station = .active) && !s.sb.saturated && s.backoffOver b && s.courtesyOver u && !s.bc.holds.forbids u
    && (s.windowNow || (s.bed b).ordered || decide (u = .severe)) && s.valveReady b && s.bookReady b

/-- The bed is offered: the claim record is filled, a CLAIM is queued, the bed goes to CLAIMING (R66). -/
def State.offerBed (b : BedId) (s : State) : State :=
  let x := s.bed b
  let flow := (s.setupOf b).flow
  (State.offer (.claim b flow x.urgency x.waitAge) { s with sb.claim := { Claim.none with
      phase := .sending, bed := b, flow := flow, urgency := x.urgency, age := x.waitAge } }).moveBed b .claiming

/-- An offer occasion is weighed: with no claim in flight in ACTIVE, the first eligible bed is offered (R63). -/
def State.weighOccasion (s : State) : State :=
  if s.sl.station = .active ∧ s.sb.claim.phase = .none then
    match s.waitQueue.find? fun b => s.eligible b with
    | some b => s.offerBed b
    | none => s
  else s

/-! ### The overdraw check (R53 to R55) -/

/-- The over entries, in book order: from the first whose running sum exceeds the budget, every COMMITTED one (R53). -/
def overEntries (budget : Nat) : Nat → List Entry → List Entry
  | _, [] => []
  | sum, e :: rest =>
    if e.committed then
      if budget < sum + e.flow then (e :: rest).filter (·.committed) else overEntries budget (sum + e.flow) rest
    else overEntries budget sum rest

/-- An over entry that is an own valve bed's is cut (R54). -/
def State.cutOver (e : Entry) (s : State) : State :=
  if e.station = s.sl.own then
    match bedOf e.bed with
    | some b => s.cut b .overdraw
    | none => s
  else s

/-- The check, on the book and budget as they stand when it begins (R53, R55). -/
def State.overdraw (s : State) : State :=
  (overEntries s.sb.budget 0 s.sb.book).foldl (fun s e => s.cutOver e) s

/-! ### What closes an event (R40, R58, R174, log 8) -/

/-- The saturated flag's clearing test (R39). -/
def State.clearSaturated (s : State) : State :=
  if s.sb.book.length ≤ Config.saturatedClear then { s with sb.saturated := false } else s

/-- The senior set with the members it still holds, by the book as the whole event has left it: a member that a TALLY lists
COMMITTED and then PENDING stays (R47, R58, R68, log 39). -/
def State.liveSeniors (s : State) : List (Nat × Nat) :=
  s.sb.claim.seniors.filter fun p => s.sb.book.any fun e => e.named p.1 p.2 && !e.committed

/-- The victim's entry is no longer in the book (R58). -/
def State.victimGone (s : State) : Bool :=
  match s.sb.claim.victim with
  | some (st, bd) => !s.hasEntry st bd
  | none => false

/-- The reports to the claim exchange: seniors that left, then the victim (R58). -/
def State.report (s : State) : State :=
  let s := { s with sb.claim.seniors := s.liveSeniors }
  match s.sb.claim.phase with
  | .resolving => if s.sb.claim.seniors.isEmpty then s.resolve else s
  | .asking | .awaiting => if s.victimGone then s.victimLeaves else s
  | .none | .sending | .ending => s

/-- The steps of one book or budget change (R40). -/
def State.bookSteps (s : State) : State :=
  (State.overdraw { s with sb.dirty := false }).clearSaturated.report.noteOccasion

/-- Book changes are taken until none is left; each lap answers the changes of the lap before. -/
def State.settleBook : Nat → State → State
  | 0, s => s
  | n + 1, s => if s.sb.dirty then settleBook n s.bookSteps else s

/-- More laps than the station's own entries and its one claim can bring about. -/
def settleLaps : Nat := 16

/-- The book is settled, and then the event's offer occasion is weighed; both marks end with the event. -/
def State.settle (s : State) : State :=
  let s := s.settleBook settleLaps
  let t := { s with sb.dirty := false, bc.occasion := false }
  if s.bc.occasion then t.weighOccasion else t

/-- The station states in which ALERTs are offered (R174). -/
def StationState.alerts : StationState → Bool
  | .loading | .barred => false
  | .checking | .listening | .active | .unconfigured => true

/-- A cause that is pending and armed offers its ALERT, and its armed latch clears (R174). -/
def State.offerAlert (c : Cause) (s : State) : State :=
  let l := s.latch c
  if l.pending && l.armed && s.sl.station.alerts then (s.disarm c).offer (.alert c l.bed l.value) else s

/-- ALERTs in cause-number order; DISCARD comes once more, for an ALERT of STALE that is refused for room (R29). -/
def State.offerAlerts (s : State) : State := (Cause.all ++ [Cause.discard]).foldl (fun s c => s.offerAlert c) s

/-- The end of an event. -/
def State.finish (s : State) : State := s.settle.offerAlerts

/-- An event is taken in every station state after LOADING (R184). -/
def State.take (f : State → State) (s : State) : State := if s.live then (f s).finish else s

end Sys2Proof.Machine
end

