-- ==== Sys2Proof/Machine/Station.lean ====
section
/-! DEFINITION. What several families share: the own draw entry (R57), entry to BARRED and the duplicate-number event
(R186, R187), the start-up closure (R142, R184), and the condition causes (R175). -/

namespace Sys2Proof.Machine

/-! ### Changing an entry in place (R37, R40) -/

/-- Flow, urgency and state agree: what a book change is judged by (R40). -/
def Entry.sameClaim (e f : Entry) : Bool :=
  e.flow == f.flow && decide (e.urgency = f.urgency) && e.committed == f.committed

/-- The named entry is changed; where flow, urgency and state stay, it is confirmed only, no book change (R40). -/
def State.changeEntry (st bd : Nat) (f : Entry → Entry) (s : State) : State :=
  let book := updateEntry st bd f s.sb.book
  if s.sb.book.all fun e => !e.named st bd || e.sameClaim (f e) then { s with sb.book := book } else s.putBook book

/-! ### The draw entry (R57) -/

/-- Bed number of unattributed draw (00_scope.md, Numbering). -/
def drawBed : Nat := 8

/-- Place or refresh, with a flow. The model's choice: a refresh leaves the entry's heard time
(log 38). -/
def State.placeDraw (flow : Nat) (s : State) : State :=
  if s.hasEntry s.sl.own drawBed then s.changeEntry s.sl.own drawBed fun e => { e with flow := flow }
  else
    let t := s.insert ⟨s.sl.own, drawBed, flow, .normal, true, 0, s.now⟩
    if t.hasEntry t.sl.own drawBed then t.ownCommitted else t

/-- Remove: a FREE for bed 8 is queued unless one waits, and the entry leaves. -/
def State.removeDraw (s : State) : State :=
  if s.hasEntry s.sl.own drawBed then
    let waiting := s.holdsNotice fun n => decide (n = .free drawBed)
    (if waiting then s else s.offer (.free drawBed)).remove s.sl.own drawBed
  else s

/-! ### BARRED (R186, R187) -/

/-- One bed at the entry to BARRED. -/
def State.barBed (b : BedId) (s : State) : State :=
  match (s.bed b).state with
  | .opening | .confirming | .running => s.endCycle b .barred
  | .soaking | .waiting => s.toIdle b
  | .claiming => s.withdraw.toIdle b
  | .off | .idle | .closing | .faulted => s

/-- Entry to BARRED: beds, transmit queue, draw entry (R187). The model's choices: the beds are taken in bed order (log 55), and
the quiet count is 0 from here on (R156; log 58). -/
def State.enterBarred (s : State) : State :=
  let s := State.forBeds State.barBed { s with sl.station := .barred }
  let s := s.purge.removeDraw
  { s with fm.drawing := false, fm.quiet := 0 }

/-- SETUP with the fault of a duplicate number (R186). -/
def State.raiseClash (kind : Nat) (s : State) : State := s.raise .setup 15 kind 0 kind s.sl.own 0

/-- A duplicate-number event, by station state (R186). -/
def State.duplicate (kind : Nat) (s : State) : State :=
  match s.sl.station with
  | .loading => s
  | .checking => { s.raiseClash kind with sl.clashNoted := true }
  | .listening | .active => (s.raiseClash kind).enterBarred
  | .unconfigured => s.raiseClash kind
  | .barred => s.setPending .setup 15 kind

/-! ### The start-up closure (R142, R184) -/

/-- Entry to LISTENING: a TALLY falls due and the tally timer starts; BARRED at once where a clash was noted. -/
def State.startUpDone (s : State) : State :=
  let s := State.tallyDue { s with
    vd.check := .done, sl.station := .listening, sl.listenSince := s.now, tq.tallySince := some s.now }
  if s.sl.clashNoted then s.enterBarred else s

/-- Present latching beds whose coil passed (R142). -/
def State.latching (b : BedId) (s : State) : Bool :=
  (s.setupOf b).present && decide ((s.setupOf b).kind = .latch) && decide ((s.bed b).state ≠ .off)

/-- The last close pulse of the start-up closure has ended: no valve is left to close, no close to run (R142, log 18). -/
def State.startUpShut (s : State) : Bool :=
  allBeds.all fun b => !s.latching b || (decide (s.valve b ≠ .unknown) && !s.queued b && !s.pulsing b)

/-- The start-up closure under way is done where its last close pulse has ended. -/
def State.checkStartUp (s : State) : State :=
  if s.sl.station = .checking ∧ s.vd.check = .closure ∧ s.startUpShut = true then s.startUpDone else s

/-- The closes of the start-up closure are queued, each valve staying UNKNOWN; it is done at once without a GOOD supply
(R142). -/
def State.startUpClosure (s : State) : State :=
  let s := State.forBeds (fun b s => if s.latching b then s.queueRequest b .closes else s) { s with vd.check := .closure }
  if s.vd.supply = .good then s.checkStartUp else s.startUpDone

/-- The coil check begins with the marked beds in bed order; without any, the closure follows at once (R141). -/
def State.startCoils (s : State) : State :=
  match allBeds.filter fun b => s.vd.marks.get b with
  | [] => s.startUpClosure
  | bs => { s with vd.check := .coils bs s.now }

/-! ### Condition causes (R175) -/

/-- Age of the weather record in whole minutes, 65535 when it has never been set (R173). -/
def State.recordMinutes (s : State) : Nat :=
  match s.pw.weather with
  | some r => (s.now - r.receipt) / Config.minute
  | none => 65535

/-- The condition of a condition cause; an event cause has none (R175). -/
def State.condition (c : Cause) (s : State) : Bool :=
  match c with
  | .stuck => s.fm.drawing
  | .supply => decide (s.vd.supply = .lost)
  | .line => decide (8 ≤ s.tq.headRun) || s.bc.holds.line
  | .saturated => s.sb.saturated
  | .stale => s.staleCondition
  | .coil | .probe | .leak | .noflow | .noanswer | .setup | .discard => false

/-- Bed and value of a condition cause at an evaluation (R173, R175). -/
def State.conditionBed : Cause → Nat
  | .stuck => 8
  | _ => 15

def State.conditionValue (c : Cause) (s : State) : Nat :=
  match c with
  | .stuck => instantRate s.fm.lastInterval s.sl.setup.pulsesPerLitre
  | .supply => s.vd.coilVolts
  | .line => s.tq.headRun
  | .saturated => s.sb.book.length
  | .stale => s.recordMinutes
  | .coil | .probe | .leak | .noflow | .noanswer | .setup | .discard => 0

/-- A condition cause is evaluated: set pending where its condition holds, no fault (R175). -/
def State.evaluateCause (c : Cause) (s : State) : State :=
  if s.condition c then s.setPending c (State.conditionBed c) (s.conditionValue c) else s

end Sys2Proof.Machine
end

