-- ==== Sys2Proof/Machine/Drive.lean ====
section
/-! DEFINITION. The valve drive's events (chapter 7): pulses, recovery, pull-in and hold duty, the coil supply and its
reserve, the reserve wait and the coil check. -/

namespace Sys2Proof.Machine

/-! ### Pulses (R131, R133) -/

/-- Setup times in 10 ms. -/
def tenMs (n : Nat) : Nat := n * (10 * Config.millisecond)

/-- The end of an open pulse: OPEN, and on to CLOSING where a close waits (R131, R133). -/
def State.endOpenPulse (b : BedId) (s : State) : State :=
  let s := (s.setValve b .opened).bedOpened b
  if s.queued b then s.setValve b .closing else s

/-- A pulse reaches its width: its valve arrives, the generator rests (R131). -/
def State.endPulse (r : Request) (s : State) : State :=
  let s := { s with vd.generator := .recovery s.now }
  match r.dir with
  | .opens => s.endOpenPulse r.bed
  | .closes => s.valveClosed r.bed

/-- PULSE_END (R131), with the end of the start-up closure where it is the last of its pulses (R142). -/
def execPulseEnd (s : State) : Host.Outcome State Fault Refusal :=
  .next (s.take fun s =>
    match s.vd.generator with
    | .pulse r _ since => ((s.advanceTo (since + tenMs s.sl.setup.pulseWidth)).endPulse r).checkStartUp
    | .idle | .recovery _ => s)

/-- RECOVERY_END (R131, R139). -/
def execRecoveryEnd (s : State) : Host.Outcome State Fault Refusal :=
  .next (s.take fun s =>
    match s.vd.generator with
    | .recovery since =>
      let s := s.advanceTo (since + Config.recoveryTime)
      State.kick { s with vd.generator := .idle }
    | .idle | .pulse .. => s)

/-! ### Held valves (R134, R135) -/

/-- The end of a pull-in: OPEN, then PWM hold with the duty of the latest measurement; or, where a close was marked, the
channel's release and CLOSED (R134, R135). -/
def State.endPullIn (b : BedId) (release : Bool) (s : State) : State :=
  let s := (s.setValve b .opened).bedOpened b
  if release then (s.freeChannel b).valveClosed b
  else s.modChannel b fun c =>
    { c with phase := .hold, active := none, pending := some (dutyAt (s.setupOf b).duty s.vd.coilVolts) }

/-- PULL_IN_END (R134). -/
def execPullInEnd (b : BedId) (s : State) : Host.Outcome State Fault Refusal :=
  .next (s.take fun s =>
    match (s.channelOf b).map Channel.phase with
    | some (.pullIn since release) => (s.advanceTo (since + tenMs s.sl.setup.pullIn)).endPullIn b release
    | some .waiting | some .hold | none => s)

/-- COIL_SUPPLY_MEASUREMENT (R135): once a second, counted from the end of LOADING (log 43); every taken channel takes a
pending duty. -/
def execCoilSupplyMeasurement (volts : Nat) (s : State) : Host.Outcome State Fault Refusal :=
  .next (s.take fun s =>
    let s := s.advanceTo (s.vd.measureSince + Config.second)
    State.mapChannels (fun c => { c with pending := some (dutyAt (s.setupOf c.bed).duty volts) })
      { s with vd.coilVolts := volts, vd.measureSince := s.now })

/-- A channel in PWM hold at a period boundary (R135). -/
def Channel.boundary (c : Channel) : Channel :=
  match c.phase with
  | .hold => { c with active := (match c.pending with | some d => some d | none => c.active), pending := none }
  | .waiting | .pullIn .. => c

/-- PWM_PERIOD_BOUNDARY (R135): of both channels, whenever the command comes (log 41). -/
def execPwmPeriodBoundary (s : State) : Host.Outcome State Fault Refusal :=
  .next (s.take fun s => s.mapChannels Channel.boundary)

/-! ### The coil supply (R136 to R140) -/

/-- Channels that waited for the supply begin their pull-in (R134). -/
def State.startPullIns (s : State) : State :=
  s.mapChannels fun c => if c.phase = .waiting then { c with phase := .pullIn s.now false } else c

/-- The supply is GOOD: the charge count starts, what waited begins (R131, R134, R137). -/
def State.supplyComes (s : State) : State :=
  State.kick (State.startPullIns { s with vd.supply := .good, vd.chargeSince := some s.now })

/-- SUPPLY_GOOD (R136): ABSENT to GOOD. -/
def execSupplyGood (s : State) : Host.Outcome State Fault Refusal :=
  .next (s.take fun s => if s.vd.supply = .absent then s.supplyComes else s)

/-- Entry to LOST: ready and the charge count clear, the SUPPLY hold joins, SUPPLY is pending (R136 to R138, R142). -/
def State.supplyGoes (s : State) : State :=
  State.setPending .supply 15 s.vd.coilVolts
    (State.joinHold .supply { s with vd.supply := .lost, vd.ready := false, vd.chargeSince := none })

/-- A pulse under way is cut short (R138, step 3). -/
def State.cutPulse (s : State) : State :=
  match s.vd.generator with
  | .pulse r _ _ => State.setValve r.bed .unknown { s with vd.generator := .recovery s.now }
  | .idle | .recovery _ => s

/-- The pulse queue is emptied; a valve whose open request is removed is CLOSED (R138, step 4). -/
def State.flushQueue (s : State) : State :=
  let q := s.vd.queue
  State.forBeds (fun b s => if q.any (fun r => decide (r = ⟨b, .opens⟩)) then s.valveClosed b else s)
    { s with vd.queue := [] }

/-- Both channels are released; their valves are CLOSED (R138, step 5). -/
def State.releaseChannels (s : State) : State :=
  let taken := fun b => (s.channelOf b).isSome
  State.forBeds (fun b s => if taken b then s.valveClosed b else s) { s with vd.channelA := none, vd.channelB := none }

/-- A valve that a closure or a return must still close (R139, R140). -/
def State.leftOpen (b : BedId) (s : State) : Bool :=
  s.latching b
    && (decide (s.valve b = .opened) || decide (s.valve b = .closing) || decide (s.valve b = .unknown))

/-- OPEN goes to CLOSING; CLOSING and UNKNOWN stay (R139, R140). -/
def State.markClosing (b : BedId) (s : State) : State := if s.valve b = .opened then s.setValve b .closing else s

/-- The reserve closure: up to four valves, pulsed only where the reserve was ready (R139). -/
def State.reserveClosure (wasReady : Bool) (s : State) : State :=
  let list := (allBeds.filter fun b => s.leftOpen b).take 4
  let s := list.foldl (fun s b => s.markClosing b) s
  if wasReady then State.kick { s with vd.closures := list } else { s with vd.closures := [] }

/-- SUPPLY_LOSS (R138): GOOD to LOST. A start-up closure that the flush leaves without a pulse is done (R142, log 18). -/
def execSupplyLoss (s : State) : Host.Outcome State Fault Refusal :=
  .next (s.take fun s =>
    if s.vd.supply = .good then
      (s.supplyGoes.cutPulse.flushQueue.releaseChannels.reserveClosure s.vd.ready).checkStartUp
    else s)

/-- A valve left behind is queued for closing from the coil supply (R140). -/
def State.recloseBed (b : BedId) (s : State) : State :=
  if s.leftOpen b && !s.queued b && !s.pulsing b then (s.markClosing b).queueRequest b .closes else s

/-- SUPPLY_RETURN (R140): LOST to GOOD. -/
def execSupplyReturn (s : State) : Host.Outcome State Fault Refusal :=
  .next (s.take fun s =>
    if s.vd.supply = .lost then State.forBeds State.recloseBed (State.leaveHold .supply s).supplyComes else s)

/-! ### The reserve and CHECKING (R137, R141, R142) -/

/-- The reserve wait is under way since this moment. -/
def State.reserveWait (s : State) : Option Nat :=
  match s.vd.check with
  | .reserveWait t => some t
  | .coils .. | .closure | .done => none

/-- RESERVE_READY (R137): an offer occasion; in the reserve wait the coil check follows. The model's choice: the charge count
ends as it sets the flag (log 54). -/
def execReserveReady (s : State) : Host.Outcome State Fault Refusal :=
  .next (s.take fun s =>
    match s.vd.supply, s.vd.chargeSince with
    | .good, some t =>
      let s := s.advanceTo (t + Config.chargeTime)
      let s := State.noteOccasion { s with vd.ready := true, vd.chargeSince := none }
      if s.sl.station = .checking ∧ s.reserveWait.isSome = true then s.startCoils else s
    | _, _ => s)

/-- RESERVE_WAIT_TIMEOUT (R142): 20 s in CHECKING with the flag clear. -/
def execReserveWaitTimeout (s : State) : Host.Outcome State Fault Refusal :=
  .next (s.take fun s =>
    match s.reserveWait with
    | some t =>
      if s.sl.station = .checking ∧ s.vd.ready = false then
        (s.advanceTo (t + Config.reserveWaitTime)).supplyGoes.startCoils
      else s
    | none => s)

/-- The limit that a measured resistance crosses (R141). -/
def coilLimit (ohms : Nat) : Option Nat := if 200 < ohms then some 200 else if ohms < 4 then some 4 else none

/-- A valve is driven no more: its request and its place in the closure list go, a pulse under way is cut short (R141,
log 46). -/
def State.stopDriving (b : BedId) (s : State) : State :=
  let s := { s with
    vd.queue := s.vd.queue.filter fun r => decide (r.bed ≠ b), vd.closures := s.vd.closures.filter fun d => decide (d ≠ b) }
  if s.pulsing b then s.cutPulse else s

/-- The result of one bed's coil test (R88, R141). -/
def State.coilResult (b : BedId) (ohms : Nat) (s : State) : State :=
  match coilLimit ohms with
  | none => { s with vd.marks := s.vd.marks.set b false }
  | some limit => ((s.stopDriving b).setOff b).raise .coil b.val ohms 0 0 ohms limit

/-- The coil test of the bed under test, in CHECKING: the first still to test; after the last the closure follows (R142). -/
def State.testCoil (ohms : Nat) (s : State) : State :=
  match s.vd.check with
  | .coils (b :: rest) since =>
    let s := (s.advanceTo (since + Config.coilTestTime)).coilResult b ohms
    if rest.isEmpty then s.startUpClosure else { s with vd.check := .coils rest s.now }
  | .coils [] _ | .reserveWait _ | .closure | .done => s

/-- COIL_CHECK (R141). -/
def execCoilCheck (ohms : Nat) (s : State) : Host.Outcome State Fault Refusal :=
  .next (s.take fun s => if s.sl.station = .checking then s.testCoil ohms else s)

end Sys2Proof.Machine
end

