-- ==== Sys2Proof/Machine/Flow.lean ====
section
/-! DEFINITION. The flow monitor (chapter 8): edges and the interval counter, rate windows with their credits,
confirmations, branch checks and the draw entry. -/

namespace Sys2Proof.Machine

/-- The station is metered (R145). -/
def State.metered (s : State) : Bool := decide (0 < s.sl.setup.pulsesPerLitre)

/-! ### The meter input (R145, R146) -/

/-- An edge captures the interval of a running counter and starts it again (R146): the whole milliseconds since the edge
before (log 42). -/
def State.captureEdge (s : State) : State :=
  let interval := match s.fm.edge with
    | .running since =>
      let i := (s.now - since) / Config.millisecond
      if i < Config.edgeLimit then some i else none
    | .stopped _ => s.fm.lastInterval
  { s with fm.edge := .running s.now, fm.lastInterval := interval }

/-- The filtered level changes, after the new level's 2 ms (R145). -/
def State.changeLevel (s : State) : State :=
  let s := s.advanceTo (s.fm.levelSince + Config.flowFilter)
  { s with fm.level := !s.fm.level, fm.levelSince := s.now }

/-- FLOW_EDGE (R145): a change in the setup's direction. -/
def execFlowEdge (s : State) : Host.Outcome State Fault Refusal :=
  .next (s.take fun s =>
    if s.metered && s.fm.level == s.sl.setup.fallingEdge then
      let s := s.changeLevel.captureEdge
      { s with fm.pulses := s.fm.pulses + 1 }
    else s)

/-- FLOW_FILTERED_LEVEL_CHANGE (R145): a change in the other direction, which is no edge. -/
def execFlowFilteredLevelChange (s : State) : Host.Outcome State Fault Refusal :=
  .next (s.take fun s => if s.metered && s.fm.level != s.sl.setup.fallingEdge then s.changeLevel else s)

/-- EDGE_COUNTER_OVERFLOW (R146). -/
def execEdgeCounterOverflow (s : State) : Host.Outcome State Fault Refusal :=
  .next (s.take fun s =>
    match s.fm.edge with
    | .running since =>
      let s := s.advanceTo (since + Config.edgeLimit * Config.millisecond)
      { s with fm.edge := .stopped Config.edgeLimit, fm.lastInterval := none }
    | .stopped _ => s)

/-! ### What a window is judged by (R147, R152) -/

/-- Beds in RUNNING, and beds that take credits, in bed order. -/
def State.runningBeds (s : State) : List BedId := allBeds.filter fun b => decide ((s.bed b).state = .running)
def State.creditedBeds (s : State) : List BedId := allBeds.filter fun b => (s.bed b).state.credited

/-- Sum of nominal flows. -/
def State.nominal (bs : List BedId) (s : State) : Nat := (bs.map fun b => (s.setupOf b).flow).sum

/-- The window that ends now is steady (R152). -/
def State.steady (s : State) : Bool :=
  s.metered
    && allBeds.all (fun b => !(s.bed b).state.transient
        && (decide ((s.bed b).state = .off) || decide (s.valve b ≠ .unknown)))
    && decide (s.fm.lastTransient + Config.restTime ≤ s.now)

/-- A window as it stands at its end, before any credit of its own is handed over (R147). Rates and flows are in
0.5 L/min steps; `p` is the pulse count, `k` the pulses per litre, `before` the window before it, `ended` its end. -/
structure Window where
  p : Nat
  k : Nat
  before : Option (Nat × Nat)
  ended : Nat
  steady : Bool
  running : List BedId
  expected : Nat
  active : Bool
deriving DecidableEq, Repr

/-- The window that ends now. -/
def State.window (s : State) : Window :=
  { p := s.fm.pulses
    k := s.sl.setup.pulsesPerLitre
    before := s.fm.lastWindow
    ended := s.now
    steady := s.steady
    running := s.runningBeds
    expected := s.nominal s.runningBeds
    active := !s.activeValves.isEmpty }

/-! ### Credits (R147, R148) -/

/-- Metered shares of a volume: each bed's whole part, the rest to the first. -/
def shares (v total : Nat) (flows : List Nat) : List Nat :=
  let parts := flows.map fun f => v * f / total
  match parts with
  | [] => []
  | a :: rest => (a + (v - parts.sum)) :: rest

/-- The window volume of a metered station is shared among its credited beds; without any the carry clears. -/
def State.creditMetered (w : Window) (s : State) : State :=
  let bs := s.creditedBeds
  let total := 10 * w.p + s.fm.carry
  if bs.isEmpty then { s with fm.carry := 0 }
  else
    let vs := shares (total / w.k) (s.nominal bs) (bs.map fun b => (s.setupOf b).flow)
    (bs.zip vs).foldl (fun s x => s.credit x.1 x.2) { s with fm.carry := total % w.k }

/-- An unmetered bed's credit: nominal flow for 5 s, with a carry of twelfths of a step. -/
def State.creditNominal (b : BedId) (s : State) : State :=
  let n := 5 * (s.setupOf b).flow + s.fm.bedCarry.get b
  State.credit b (n / 12) { s with fm.bedCarry := s.fm.bedCarry.set b (n % 12) }

def State.creditWindow (w : Window) (s : State) : State :=
  if s.metered then s.creditMetered w else s.creditedBeds.foldl (fun s b => s.creditNominal b) s

/-! ### Confirmation by flow (R149, R150) -/

/-- A window that ended at a moment qualifies under a flow-based mode, for a bed reported OPEN at a moment (R150). The model's
choice: one that ends at the very moment of OPEN does not qualify under FLOW_ONLY, in whichever order they come (log 49). -/
def qualifies (m : ConfirmMode) (opened ended : Nat) : Bool :=
  match m with
  | .flowOnly => decide (opened < ended)
  | .settleThenFlow => decide (opened + Config.windowTime ≤ ended)
  | .immediate | .oneSettle | .twoSettle => false

/-- The bed is confirmed by the flow at this window's end. -/
def State.confirmedByFlow (w : Window) (b : BedId) (s : State) : Bool :=
  match s.fm.confirms.get b, w.before with
  | some opened, some (p, ended) =>
    decide ((s.bed b).state = .confirming) && qualifies (s.setupOf b).confirm opened ended
      && qualifies (s.setupOf b).confirm opened w.ended && stableFlow p w.p w.k
  | _, _ => false

def State.confirmFlows (w : Window) (s : State) : State :=
  if s.metered then State.forBeds (fun b s => if s.confirmedByFlow w b then s.bedConfirmed b else s) s else s

/-! ### Branch checks (R153 to R155) -/

/-- More than 1.25 times the expected flow and 1.0 L/min, with a bed RUNNING. -/
def Window.leaks (w : Window) : Bool :=
  w.steady && !w.running.isEmpty && decide ((5 * w.expected + 8) * w.k < 96 * w.p)

/-- Less than half the expected flow, with a bed RUNNING. -/
def Window.starves (w : Window) : Bool :=
  w.steady && !w.running.isEmpty && decide (48 * w.p < w.expected * w.k)

/-- At least 1.0 L/min while no valve is active. -/
def Window.runsOn (w : Window) : Bool := w.steady && !w.active && decide (w.k ≤ 12 * w.p)

/-- A check's count after a window; the third in a row fires. -/
def countCheck (met : Bool) (n : Nat) : Nat := if met then n + 1 else 0
def checkLimit : Nat := 3

/-- LEAK or NOFLOW fires: the beds that were RUNNING are reported, one alert and one fault follow (R153, R154), with the
window rate rounded down, for NOFLOW too (log 44). -/
def State.fireBranch (w : Window) (f : BedFault) (cause : EndCause) (s : State) : State :=
  let first := (w.running.head?.map Fin.val).getD 15
  let rate := rateDown w.p w.k
  (w.running.foldl (fun s b => s.faultBed b cause) s).raise f.cause first rate 0 0 rate w.expected

def State.leakCheck (w : Window) (s : State) : State :=
  let n := countCheck w.leaks s.fm.leakRun
  if checkLimit ≤ n then State.fireBranch w .leak .leak { s with fm.leakRun := 0 } else { s with fm.leakRun := n }

def State.noflowCheck (w : Window) (s : State) : State :=
  let n := countCheck w.starves s.fm.noflowRun
  if checkLimit ≤ n then State.fireBranch w .noflow .noflow { s with fm.noflowRun := 0 }
  else { s with fm.noflowRun := n }

/-- STUCK (R155): it counts no window in DRAWING, nor in BARRED (R156). -/
def State.stuckCheck (w : Window) (s : State) : State :=
  let met := w.runsOn && !s.fm.drawing && decide (s.sl.station ≠ .barred)
  let n := countCheck met s.fm.stuckRun
  if checkLimit ≤ n then
    let s := s.setPending .stuck 8 (instantRate s.fm.lastInterval w.k)
    State.placeDraw (rateUp w.p w.k) { s with fm.stuckRun := 0, fm.drawing := true, fm.quiet := 0 }
  else { s with fm.stuckRun := n }

/-! ### The draw entry (R156) -/

/-- The draw table at a window's end in DRAWING. -/
def State.drawStep (w : Window) (s : State) : State :=
  if w.active then s
  else if w.k ≤ 24 * w.p then State.placeDraw (rateUp w.p w.k) { s with fm.quiet := 0 }
  else if 3 ≤ s.fm.quiet + 1 then State.removeDraw { s with fm.drawing := false, fm.quiet := 0 }
  else { s with fm.quiet := s.fm.quiet + 1 }

/-- The branch checks and the draw entry of a metered station; the draw table serves windows that began in DRAWING
(log 21). -/
def State.checkBranch (w : Window) (s : State) : State :=
  if s.metered then
    let drawing := s.fm.drawing
    let s := ((s.leakCheck w).noflowCheck w).stuckCheck w
    if drawing then s.drawStep w else s
  else s

/-- The work of a window's end, in R147's order. -/
def State.endWindow (s : State) : State :=
  let w := s.window
  let s := { s with fm.lastWindow := some (w.p, s.now), fm.pulses := 0, fm.windowSince := s.now }
  ((s.creditWindow w).confirmFlows w).checkBranch w

/-- RATE_WINDOW_END (R147): 5 s after the window's beginning, the first window's at the end of LOADING (log 43). -/
def execRateWindowEnd (s : State) : Host.Outcome State Fault Refusal :=
  .next (s.take fun s => (s.advanceTo (s.fm.windowSince + Config.windowTime)).endWindow)

/-! ### Confirm timers (R149, R151) -/

/-- The time after which a bed is confirmed by its timer alone; an unmetered station takes the flow-based modes as
TWO_SETTLE (R149). -/
def settleConfirm (m : ConfirmMode) (metered : Bool) : Option Nat :=
  match m with
  | .immediate => none
  | .oneSettle => some (5 * Config.second)
  | .twoSettle => some (10 * Config.second)
  | .settleThenFlow | .flowOnly => if metered then none else some (10 * Config.second)

/-- CONFIRM_TIMER_EXPIRY (R149). -/
def execConfirmTimerExpiry (b : BedId) (s : State) : Host.Outcome State Fault Refusal :=
  .next (s.take fun s =>
    match s.fm.confirms.get b, settleConfirm (s.setupOf b).confirm s.metered with
    | some t, some d => (s.advanceTo (t + d)).bedConfirmed b
    | _, _ => s)

/-- The bed confirms by flow, under the 60 s limit (R149). -/
def State.flowMode (b : BedId) (s : State) : Bool :=
  s.metered && (decide ((s.setupOf b).confirm = .settleThenFlow) || decide ((s.setupOf b).confirm = .flowOnly))

/-- Window rate of the last window ended, in 0.5 L/min steps, rounded down (R151). -/
def State.lastRate (s : State) : Nat :=
  match s.fm.lastWindow with
  | some (p, _) => rateDown p s.sl.setup.pulsesPerLitre
  | none => 0

/-- A confirm-limit NOFLOW (R151). -/
def State.giveUpConfirm (b : BedId) (s : State) : State :=
  let rate := s.lastRate
  (s.faultBed b .noflow).raise .noflow b.val rate 0 0 rate (s.setupOf b).flow

/-- CONFIRM_LIMIT (R151). -/
def execConfirmLimit (b : BedId) (s : State) : Host.Outcome State Fault Refusal :=
  .next (s.take fun s =>
    match s.fm.confirms.get b with
    | some t =>
      if s.flowMode b && decide ((s.bed b).state = .confirming) then
        (s.advanceTo (t + Config.confirmLimit)).giveUpConfirm b
      else s
    | none => s)

end Sys2Proof.Machine
end

