-- ==== Sys2Proof/Machine/Weather.lean ====
section
/-! DEFINITION. Probes and weather (chapter 9): the day clock, the weather record and SKY, the rain buckets, the probe
scanner and its readings; with them the hour and day boundaries (R92, R93, R102) that the clock makes. -/

namespace Sys2Proof.Machine

/-! ### The day clock (R170) -/

/-- The clock is set to a minute; a setting that lands inside the watering window is an offer occasion (R101). -/
def State.setClock (m : Nat) (s : State) : State :=
  let s := { s with pw.minute := m, pw.clockSet := true, pw.secondSince := s.now }
  if s.windowNow then s.noteOccasion else s

/-- The clock follows an adopted SKY's minute (R170). -/
def State.followMinute (m : Nat) (s : State) : State :=
  if m ≤ 1439 ∧ (s.pw.clockSet = false ∨ 1 < minuteDistance m s.pw.minute) then s.setClock m else s

/-! ### The weather record and SKY (R24, R167, R168) -/

/-- A record change: holds, clock, stale state (R168). -/
def State.adopt (k : Sky) (source : Nat) (s : State) : State :=
  let s := State.weighWeather { s with pw.weather := some ⟨k, source, s.now⟩ }
  { s.followMinute k.minute with pw.staleNoted := false }

/-- A received SKY from station src is adopted (R168). -/
def State.adopts (src : Nat) (s : State) : Bool :=
  match s.pw.weather with
  | none => true
  | some r => decide (src ≤ r.source) || decide (Config.recordTakeover < s.now - r.receipt)

/-- A 16-bit rain sum. -/
def rainSum (l : List Nat) : Nat := min l.sum 65535

/-- The content of a SKY that falls due now, at a known temperature (R24, R166). -/
def State.skyNow (t : Int) (s : State) : Sky :=
  let hour := s.pw.complete.headD 0
  { temperature := t
    recentRain := rainSum [s.pw.current, hour]
    dayRain := rainSum (s.pw.current :: s.pw.complete)
    hourRain := hour
    hourIndex := s.pw.lastHourIndex
    evapClass := classOf t
    minute := s.clockMinute }

/-- A SKY falls due: offered, and adopted whether it is admitted or not; none while the temperature is unknown (R167). -/
def State.skyDue (s : State) : State :=
  match s.pw.temperature with
  | none => s
  | some t =>
    let k := s.skyNow t
    let admitted := s.admits (.sky k)
    let s := s.offer (.sky k)
    let s := if admitted then { s with pw.lastSky := some s.now } else s
    s.adopt k s.sl.own

/-- No SKY has been admitted in the 60 s before now (R167). -/
def State.skyGapOver (s : State) : Bool :=
  match s.pw.lastSky with
  | none => true
  | some t => decide (t + Config.skyGap ≤ s.now)

/-! ### Hour and day boundaries (R92, R93, R102, R166) -/

/-- The debt after an hour: evaporation, rain, cap (R93). -/
def debtAfter (area cls rain debt : Nat) : Nat := min (debt + area * cls - rain * area) 40000

/-- The rain an hour boundary takes: the record's last complete hour, once for each index (R93). -/
def State.hourRain (s : State) : Option Sky :=
  match s.freshSky with
  | some k => if s.bc.rainApplied = some k.hourIndex then none else some k
  | none => none

/-- The debts of the present beds that are not OFF (R93). -/
def State.updateDebts (s : State) : State :=
  let cls := s.evapClass
  let rain := (s.hourRain.map (·.hourRain)).getD 0
  let applied := match s.hourRain with | some k => some k.hourIndex | none => s.bc.rainApplied
  let s := State.forBeds (fun b s =>
    if (s.setupOf b).present && decide ((s.bed b).state ≠ .off) then
      s.modBed b fun x => { x with debt := debtAfter (s.setupOf b).area cls rain x.debt }
    else s) s
  { s with bc.rainApplied := applied }

/-- The buckets rotate: the current one becomes the last complete hour, with its index (R166). At a station that is no
weather source they stand still (log 45). -/
def State.rotateBuckets (index : Nat) (s : State) : State :=
  if s.sl.setup.weatherSource then
    { s with pw.complete := (s.pw.current :: s.pw.complete).take 23, pw.current := 0, pw.lastHourIndex := index }
  else s

/-- An hour boundary: debts, the evaluations of the beds under debt rules, the buckets. -/
def State.applyHour (index : Nat) (s : State) : State :=
  (State.forBeds (fun b s => if s.probeRules b then s else s.evaluate b false) s.updateDebts).rotateBuckets index

/-- The day rollover of every present bed, then the evaluations of those in IDLE or WAITING (R102). -/
def State.applyDay (s : State) : State :=
  let s := State.forBeds (fun b s =>
    if (s.setupOf b).present then s.modBed b fun x => { x with delivered := 0, skip := false } else s) s
  State.forBeds (fun b s =>
    if (s.bed b).state = .idle ∨ (s.bed b).state = .waiting then s.evaluate b false else s) s

/-- Hour index of the hour just ended, by the clock's new minute (R166). -/
def hourIndexAt (m : Nat) : Nat := (m / 60 + 23) % 24

/-- A boundary is taken. -/
def State.applyBoundary (d : Boundary) (s : State) : State :=
  match d with
  | .day => s.applyDay
  | .hour m => s.applyHour (hourIndexAt m)

/-- The boundaries whose ticks fell are taken one after another (R92, R166). -/
def State.takeDue (s : State) : State :=
  s.bc.due.foldl (fun s d => s.applyBoundary d) { s with bc.due := [] }

/-- The boundaries that a tick to minute m makes, the day's first (R92). -/
def boundariesAt (m : Nat) : List Boundary :=
  if m = 0 then [.day, .hour 0] else if m % 60 = 0 then [.hour m] else []

/-- A day boundary: the next due one while ticks make them, or by the minute count while the clock is unset (R92). -/
def State.dayBoundary (s : State) : State :=
  match s.bc.due with
  | .day :: rest => State.applyDay { s with bc.due := rest }
  | .hour _ :: _ => s
  | [] =>
    if s.pw.clockSet then s
    else
      let s := s.advanceTo (s.sl.loadingEnd + (s.bc.days + 1) * (1440 * Config.minute))
      State.applyDay { s with bc.days := s.bc.days + 1 }

/-- An hour boundary by the minute count: a day boundary of the same minute comes first (R92). -/
def State.countedHour (s : State) : State :=
  let n := s.bc.hours + 1
  let s := s.advanceTo (s.sl.loadingEnd + n * (60 * Config.minute))
  let s := { s with bc.hours := n }
  let s := if n % 24 = 0 ∧ s.bc.days < n / 24 then State.applyDay { s with bc.days := s.bc.days + 1 } else s
  s.applyHour ((n - 1) % 24)

/-- An hour boundary: the next due one, with a day boundary that stands before it, or by the minute count (log 11). -/
def State.hourBoundary (s : State) : State :=
  match s.bc.due with
  | .day :: .hour m :: rest => State.applyHour (hourIndexAt m) (State.applyDay { s with bc.due := rest })
  | .hour m :: rest => State.applyHour (hourIndexAt m) { s with bc.due := rest }
  | .day :: _ => s
  | [] => if s.pw.clockSet then s else s.countedHour

/-- The day clock's tick (R170, R92, R101). The clock runs in LOADING too; what it makes due there is taken later.
The model's choice: a tick comes exactly 60 s after the setting or the tick before (log 43). -/
def State.tickClock (s : State) : State :=
  let s := s.advanceTo (s.pw.secondSince + Config.minute)
  let m := (s.pw.minute + 1) % 1440
  let s := { s with pw.minute := m, pw.secondSince := s.now, bc.due := s.bc.due ++ boundariesAt m }
  if s.live && m == s.sl.setup.windowStart && s.sl.setup.windowStart != s.sl.setup.windowEnd then s.noteOccasion else s

/-! ### The probe scanner (R159) -/

/-- The channel is visited: a valid probe-mode bed that is not OFF, or a weather source's temperature channel 8. -/
def State.visits (s : State) (ch : Nat) : Bool :=
  match bedOf ch with
  | some b => (s.setupOf b).valid && decide ((s.setupOf b).mode = .probe) && decide ((s.bed b).state ≠ .off)
  | none => ch == 8 && s.sl.setup.weatherSource

/-- The next channel is selected and powered, the period counter holding nothing of the visit before (R160), or the scan is
over. -/
def State.visitFrom (ch : Nat) (s : State) : State :=
  match [0, 1, 2, 3, 4, 5, 6, 7, 8].find? fun c => decide (ch ≤ c) && s.visits c with
  | some c => { s with pw.scan := .settle c s.now, pw.psel := c, pw.counter := 0 }
  | none => { s with pw.scan := .idle }

/-! ### Readings (R161 to R164) -/

/-- A probe's ring takes a reading, the oldest of four dropped (R162). -/
def ringAdd (ring : List Nat) (w : Nat) : List Nat := (ring ++ [w]).drop (ring.length + 1 - 4)

/-- The smoothed wetness: the mean of the ring, rounded down (R162). -/
def smoothed (ring : List Nat) : Nat := ring.sum / ring.length

def State.putProbe (b : BedId) (p : Probe) (s : State) : State := { s with pw.probes := s.pw.probes.set b p }

/-- The BC is told of a failure: FAULTED(PROBE) at area 0 without a run, a need evaluation else (R89, R95). The
model's choices: a FAULTED or OFF bed loses its last wetness too (log 48), and a bed at rest of area 0 goes to FAULTED in
BARRED as in any other station state (log 53). -/
def State.probeLost (b : BedId) (s : State) : State :=
  let s := s.modBed b fun x => { x with probeFailed := true, wetness := none }
  if s.brokenProbe b && (s.bed b).run.isNone then
    match (s.bed b).state with
    | .idle | .waiting => s.toFaulted b .probe
    | .claiming => s.withdraw.toFaulted b .probe
    | .off | .opening | .confirming | .running | .closing | .soaking | .faulted => s
  else s.evaluate b false

/-- The BC is told of a recovery, with the smoothed wetness (R163, log 16). -/
def State.probeBack (b : BedId) (w : Nat) (s : State) : State :=
  (s.modBed b fun x => { x with probeFailed := false }).handWetness b w

/-- A good read of a bed's probe (R162, R163). -/
def State.goodRead (b : BedId) (w : Nat) (s : State) : State :=
  let p := s.pw.probes.get b
  let q : Probe := { p with ring := ringAdd p.ring w, bad := 0, good := p.good + 1 }
  if p.failed then
    if 3 ≤ q.good then (s.putProbe b { q with failed := false }).probeBack b (smoothed q.ring) else s.putProbe b q
  else (s.putProbe b q).handWetness b (smoothed q.ring)

/-- A bad read of a bed's probe, with values one and two of the fault it can bring (R163). -/
def State.badRead (b : BedId) (one two : Nat) (s : State) : State :=
  let p := s.pw.probes.get b
  let q : Probe := { p with bad := p.bad + 1, good := 0 }
  if !p.failed && decide (3 ≤ q.bad) then
    ((s.putProbe b { q with failed := true, ring := [] }).raise .probe b.val one 0 0 one two).probeLost b
  else s.putProbe b q

/-- A measurement of a bed's probe (R161). -/
def State.readProbe (b : BedId) (r : ProbeResult) (s : State) : State :=
  let u := s.setupOf b
  match boundCrossed u.dry u.wet r, r with
  | none, .count c => s.goodRead b (wetnessOf u.dry u.wet c)
  | none, .overrange | none, .timeout => s
  | some two, _ => s.badRead b (probeValue r) two

/-- A temperature is taken; the first after a start or a failure makes a SKY fall due and starts the SKY timer (R167). -/
def State.takeTemperature (t : Int) (s : State) : State :=
  let first := s.pw.temperature.isNone
  let s := { s with pw.temperature := some t }
  if first then State.skyDue { s with pw.skySince := some s.now } else s

/-- A good read of the temperature channel (R164). -/
def State.goodTemperature (t : Int) (s : State) : State :=
  let s := { s with pw.tempBad := 0, pw.tempGood := s.pw.tempGood + 1 }
  if s.pw.tempFailed then
    if 3 ≤ s.pw.tempGood then State.takeTemperature t { s with pw.tempFailed := false } else s
  else s.takeTemperature t

/-- A bad read of the temperature channel: at the third it fails, and the temperature is unknown (R164, R167). -/
def State.badTemperature (value : Nat) (s : State) : State :=
  let s := { s with pw.tempGood := 0, pw.tempBad := s.pw.tempBad + 1 }
  if !s.pw.tempFailed && decide (3 ≤ s.pw.tempBad) then
    State.raise .probe 15 value 0 0 value value
      { s with pw.tempFailed := true, pw.temperature := none, pw.skySince := none }
  else s

/-- A measurement of the temperature channel (R164). -/
def State.readTemperature (r : ProbeResult) (s : State) : State :=
  match r with
  | .count c => s.goodTemperature (temperatureOf s.sl.setup.c0 s.sl.setup.c40 c)
  | .overrange | .timeout => s.badTemperature (probeValue r)

/-! ### Meanings -/

/-- DAY_CLOCK_TICK (R170): while the clock is set, in every station state. -/
def execDayClockTick (s : State) : Host.Outcome State Fault Refusal :=
  .next (if s.pw.clockSet then (if s.live then s.tickClock.finish else s.tickClock) else s)

/-- HOUR_BOUNDARY (R92, R93, R166). -/
def execHourBoundary (s : State) : Host.Outcome State Fault Refusal := .next (s.take State.hourBoundary)

/-- DAY_ROLLOVER (R92, R102). -/
def execDayRollover (s : State) : Host.Outcome State Fault Refusal := .next (s.take State.dayBoundary)

/-- SCAN_START (R159): the scan period has passed and no scan is under way. -/
def execScanStart (s : State) : Host.Outcome State Fault Refusal :=
  .next (s.take fun s =>
    if s.pw.scan = .idle then
      let s := s.advanceTo s.pw.scanDue
      State.visitFrom 0 { s with pw.scanDue := s.now + Config.scanTime }
    else s)

/-- PROBE_SETTLE_END (R159, R160). -/
def execProbeSettleEnd (s : State) : Host.Outcome State Fault Refusal :=
  .next (s.take fun s =>
    match s.pw.scan with
    | .settle ch since =>
      let s := s.advanceTo (since + Config.settleTime)
      { s with pw.scan := .measure ch s.now }
    | .idle | .measure .. => s)

/-- PROBE_MEASUREMENT_END (R160 to R164), with the gaps between the rising edges of PFRQ since the settle wait's end: the
counter runs over them to the measurement's ending, at its moment; the read is taken and the scanner moves on. -/
def execProbeMeasurementEnd (gaps : List Nat) (s : State) : Host.Outcome State Fault Refusal :=
  .next (s.take fun s =>
    match s.pw.scan with
    | .measure ch since =>
      let m := measurePeriods gaps
      let s := s.advanceTo (since + measureTime m)
      let s := { s with pw.counter := m.counter }
      let s := match bedOf ch with
        | some b => s.readProbe b m.ending
        | none => s.readTemperature m.ending
      s.visitFrom (ch + 1)
    | .idle | .settle .. => s)

/-- RAIN_TIP (R165 to R167): a weather source's filtered RAIN level goes from high to low. -/
def execRainTip (s : State) : Host.Outcome State Fault Refusal :=
  .next (s.take fun s =>
    if s.sl.setup.weatherSource && s.pw.rainLevel then
      let s := s.advanceTo (s.pw.rainSince + Config.rainFilter)
      let s := { s with pw.rainLevel := false, pw.rainSince := s.now, pw.current := min (s.pw.current + 2) 65535 }
      if s.skyGapOver then s.skyDue else s
    else s)

/-- RAIN_FILTERED_LEVEL_CHANGE (R165): from low to high, which is no tip. -/
def execRainFilteredLevelChange (s : State) : Host.Outcome State Fault Refusal :=
  .next (s.take fun s =>
    if s.sl.setup.weatherSource && !s.pw.rainLevel then
      let s := s.advanceTo (s.pw.rainSince + Config.rainFilter)
      { s with pw.rainLevel := true, pw.rainSince := s.now }
    else s)

/-- SKY_TIMER_EXPIRY (R167). -/
def execSkyTimerExpiry (s : State) : Host.Outcome State Fault Refusal :=
  .next (s.take fun s =>
    match s.pw.skySince with
    | some t =>
      let s := s.advanceTo (t + Config.skyTime)
      State.skyDue { s with pw.skySince := some s.now }
    | none => s)

/-- The moment at which the STALE condition comes to hold (R169, log 23). -/
def State.staleMoment (s : State) : Nat :=
  match s.pw.weather with
  | some r => r.receipt + Config.recordStale + 1
  | none => s.sl.loadingEnd + Config.recordStale

/-- The STALE condition has come to hold: the weather holds leave, STALE is pending (R169, R175). -/
def State.goStale (s : State) : State :=
  (State.weighWeather { s with pw.staleNoted := true }).evaluateCause .stale

/-- WEATHER_RECORD_STALE (R169). -/
def execWeatherRecordStale (s : State) : Host.Outcome State Fault Refusal :=
  .next (s.take fun s => if s.pw.staleNoted then s else (s.advanceTo s.staleMoment).goStale)

end Sys2Proof.Machine
end

