-- ==== Sys2Proof/Machine/Notices.lean ====
section
/-! DEFINITION. Frames received (R5 to R8, R16, R20) and the notices of peers applied to the book, the presence table,
the claim exchange and the weather record (R41 to R48, R78, R168). -/

namespace Sys2Proof.Machine

/-! ### The end of a frame -/

/-- Ten bit times a byte, seven bytes and the payload (section 1.2). -/
def frameTime (len : Nat) : Nat := 10 * Config.bitTime * (7 + len)

/-- A frame of another sender can end now: the station is past LOADING, sends nothing itself, and its receiver stands in
FRAME, or in HUNT where the frame's opening was not reported (log 5). -/
def State.receiving (s : State) : Bool :=
  s.live && s.li.attempt.isNone && (decide (s.li.rx = .frame) || decide (s.li.rx = .hunt))

/-- The last stop bit of a frame with so many payload bytes: the slot begins (R5, R7). -/
def State.frameOver (len : Nat) (s : State) : State :=
  let since := if s.li.rx = .hunt then s.now else s.li.frameSince
  let s := s.advanceTo (since + frameTime len)
  { s with li.rx := .slot, li.slotSince := s.now, li.answer := .none }

/-- The presence row of a peer is refreshed or created (R41). -/
def State.refresh (src : Nat) (s : State) : State :=
  if s.sb.presence.any fun r => r.station == src then
    { s with sb.presence := s.sb.presence.map fun r => if r.station == src then { r with heard := s.now } else r }
  else { s with sb.presence := s.sb.presence ++ [⟨src, s.now, none, false, none⟩] }

/-- The presence row of a station, if it has one. -/
def State.row (src : Nat) (s : State) : Option Row := s.sb.presence.find? fun r => r.station == src

/-- A presence row is changed. -/
def State.modRow (src : Nat) (f : Row → Row) (s : State) : State :=
  { s with sb.presence := s.sb.presence.map fun r => if r.station == src then f r else r }

/-- A valid frame of another sender has ended: yielding clears, a peer's row is refreshed, the rest follows (R12, R16). -/
def State.heard (src : Nat) (f : State → State) (s : State) : State :=
  let s := { s with li.yielding := false }
  f (if inRange 1 15 src then s.refresh src else s)

/-- A valid frame ends: by its own number it is a duplicate-number event (R16). -/
def State.receive (src kind len : Nat) (f : State → State) (s : State) : State :=
  if s.receiving then
    let s := s.frameOver len
    (if src = s.sl.own then s.duplicate kind else s.heard src f).finish
  else s

/-- The frame is addressed to this station (R16). -/
def State.addressed (tgt : Nat) (s : State) : Bool := tgt == 0 || tgt == s.sl.own

/-- A notice of kind `kind` that fits its layout is handed on; one whose fields do not fit is malformed (R16, R20). -/
def State.hand (src tgt kind len : Nat) (fits : Bool) (f : State → State) (s : State) : State :=
  s.receive src kind len fun s =>
    if s.addressed tgt && (inRange 1 15 src || (src == 0 && kind == 9)) then
      if fits then f s else s.receiveError
    else s

/-- The owner's answer waits for its moment in the slot, for a notice addressed by number (R8). -/
def State.answer (tgt : Nat) (r : Reply) (s : State) : State :=
  if tgt = s.sl.own then { s with li.answer := .waiting r } else s

/-! ### CLAIM, COMMIT, DROP, FREE (R44 to R46) -/

/-- CLAIM from a peer (R44). -/
def State.takeClaim (src bed flow : Nat) (u : Urgency) (age : Nat) (s : State) : State :=
  let s := s.modRow src fun r => { r with lastClaim := some ⟨bed, flow, u, age⟩ }
  if s.hasEntry src bed then
    s.changeEntry src bed fun e => { e with flow := flow, urgency := u, committed := false, age := age, heard := s.now }
  else s.insert ⟨src, bed, flow, u, false, age, s.now⟩

/-- The last claim of a peer, when it is for this bed (R45, R47). -/
def State.lastClaimFor (src bed : Nat) (s : State) : Option LastClaim :=
  ((s.row src).bind Row.lastClaim).filter fun c => c.bed == bed

/-- COMMIT from a peer (R45). -/
def State.takeCommit (src bed : Nat) (s : State) : State :=
  if s.hasEntry src bed then s.changeEntry src bed fun e => { e with committed := true, heard := s.now }
  else match s.lastClaimFor src bed with
    | some c => s.insert ⟨src, bed, c.flow, c.urgency, true, c.age, s.now⟩
    | none => s.insert ⟨src, bed, 1, .normal, true, 0, s.now⟩

/-- FREE from a peer: the entry leaves and the courtesy delay starts (R46, R65). -/
def State.takeFree (src bed : Nat) (s : State) : State :=
  let s := s.remove src bed
  { s with sb.lastFree := some s.now }

/-! ### TALLY (R47, R48) -/

/-- The heard budget differs from the own: SETUP, with a fault where the disagreement starts or changes (R48). -/
def State.mismatch (src heard : Nat) (before : Option Nat) (s : State) : State :=
  let own := s.sl.setup.budget
  let s := s.setPending .setup 15 heard
  if before = none ∨ before = some own ∨ before ≠ some heard then s.takeFault .setup 15 src 1 heard own else s

/-- A TALLY's budget and barred mark (R48). -/
def State.takeBudget (src : Nat) (t : TallyNotice) (s : State) : State :=
  let before := (s.row src).bind Row.budget
  let s := s.modRow src fun r => { r with budget := some t.budget, barred := t.barred }
  let s := s.recomputeBudget
  if s.sl.setup.budget ≠ 0 ∧ t.budget ≠ 0 ∧ t.barred = false ∧ t.budget ≠ s.sl.setup.budget then
    s.mismatch src t.budget before
  else s

/-- The peer's entries that the list does not name leave (R47, step 1). -/
def State.dropUnlisted (src : Nat) (l : List TallyEntry) (s : State) : State :=
  let book := s.sb.book.filter fun e => e.station != src || l.any fun t => t.bed == e.bed
  if book.length = s.sb.book.length then s else s.putBook book

/-- One listing changes its entry, or appends it (R47, steps 2 and 3). -/
def State.takeListing (src : Nat) (t : TallyEntry) (s : State) : State :=
  if s.hasEntry src t.bed then
    s.changeEntry src t.bed fun e =>
      { e with flow := t.flow, urgency := t.urgency, committed := t.committed, heard := s.now }
  else
    s.insert ⟨src, t.bed, t.flow, t.urgency, t.committed, ((s.lastClaimFor src t.bed).map (·.age)).getD 0, s.now⟩

/-- TALLY from a peer: budget first, then the entries, one event (R47, R48). -/
def State.takeTally (src : Nat) (t : TallyNotice) (s : State) : State :=
  t.entries.foldl (fun s e => s.takeListing src e) ((s.takeBudget src t).dropUnlisted src t.entries)

/-! ### SHED (R78) -/

/-- The own COMMITTED entry of NORMAL urgency whose bed a SEVERE claimant may have, and that bed (R78). -/
def State.shedTarget (victim : Nat) (u : Urgency) (s : State) : Option BedId :=
  match s.ownEntry victim, bedOf victim with
  | some e, some b =>
    if u = .severe ∧ e.committed = true ∧ e.urgency = .normal
        ∧ ((s.bed b).state.cycling = true ∨ (s.bed b).state = .closing) then some b else none
  | _, _ => none

/-- A SHED from a peer is answered and, where it may be, the bed is cut; a bed in CLOSING is not cut again (R78). -/
def State.takeShed (tgt victim : Nat) (u : Urgency) (s : State) : State :=
  match s.shedTarget victim u with
  | some b => (s.answer tgt .ack).cut b .shed
  | none => s.answer tgt .refuse

/-! ### Meanings -/

/-- INVALID_FRAME (R6): one receive error; the slot follows all the same. -/
def execInvalidFrame (bytes : List Byte) (s : State) : Host.Outcome State Fault Refusal :=
  .next (if s.receiving then ((s.frameOver (bytes.length - 7)).receiveError).finish else s)

/-- MALFORMED_NOTICE (R16, R20). -/
def execMalformedNotice (src tgt kind : Nat) (payload : List Byte) (s : State) : Host.Outcome State Fault Refusal :=
  .next (s.hand src tgt kind payload.length false id)

/-- DUPLICATE_NUMBER_EVENT (R16, R186). -/
def execDuplicateNumberEvent (kind len : Nat) (s : State) : Host.Outcome State Fault Refusal :=
  .next (s.receive s.sl.own kind len id)

/-- UNHANDED_FRAME_RECEIVED (R16): presence alone, and none from a panel or above 15. -/
def execUnhandedFrameReceived (src _tgt kind len : Nat) (s : State) : Host.Outcome State Fault Refusal :=
  .next (s.receive src kind len id)

/-- TALLY_RECEIVED (R47, R48). -/
def execTallyReceived (src tgt : Nat) (t : TallyNotice) (s : State) : Host.Outcome State Fault Refusal :=
  .next (s.hand src tgt 1 (3 + 3 * t.entries.length) t.fits (State.takeTally src t))

/-- CLAIM_RECEIVED (R44). -/
def execClaimReceived (src tgt bed flow : Nat) (u : Urgency) (age : Nat) (s : State) :
    Host.Outcome State Fault Refusal :=
  .next (s.hand src tgt 2 4 (claimFits bed flow age) (State.takeClaim src bed flow u age))

/-- COMMIT_RECEIVED (R45). -/
def execCommitReceived (src tgt bed : Nat) (s : State) : Host.Outcome State Fault Refusal :=
  .next (s.hand src tgt 3 1 (inRange 0 8 bed) (State.takeCommit src bed))

/-- DROP_RECEIVED (R46). -/
def execDropReceived (src tgt bed : Nat) (s : State) : Host.Outcome State Fault Refusal :=
  .next (s.hand src tgt 4 1 (inRange 0 7 bed) (State.remove src bed))

/-- FREE_RECEIVED (R46). -/
def execFreeReceived (src tgt bed : Nat) (s : State) : Host.Outcome State Fault Refusal :=
  .next (s.hand src tgt 5 1 (inRange 0 8 bed) (State.takeFree src bed))

/-- SHED_RECEIVED (R78, R79). -/
def execShedReceived (src tgt victim claimant : Nat) (u : Urgency) (s : State) : Host.Outcome State Fault Refusal :=
  .next (s.hand src tgt 6 3 (shedFits victim claimant) (State.takeShed tgt victim u))

/-- SKY_RECEIVED (R168). -/
def execSkyReceived (src tgt : Nat) (k : Sky) (s : State) : Host.Outcome State Fault Refusal :=
  .next (s.hand src tgt 7 11 k.fits fun s => if s.adopts src then s.adopt k src else s)

end Sys2Proof.Machine
end

