-- ==== Sys2Proof/Machine/Line.lean ====
section
/-! DEFINITION. The garden line as the station drives it (R5, R7 to R15, R18, R30 to R33): its attempts, collisions and
completions, the answer byte, the receiver's own events and the timers of the line. -/

namespace Sys2Proof.Machine

/-! ### Attempts (R3, R11) -/

/-- The moment at which the access gap has run out (R10). -/
def State.gapEnd (s : State) : Nat := s.li.idleSince + Config.accessGap s.sl.own

/-- An attempt can begin once the gap has run out (R11). -/
def State.mayBegin (s : State) : Bool :=
  s.live && decide (s.li.rx = .hunt) && s.li.attempt.isNone && !s.li.yielding && !s.tq.queue.isEmpty

/-- The attempt of the head notice begins: the frame is built now, and the receiver takes its bytes (R3, R5). -/
def State.beginAttempt (s : State) : State :=
  match s.tq.queue with
  | [] => s
  | h :: _ =>
    { s with li.attempt := some ⟨s.now, s.frame h.notice⟩, li.rx := .frame, li.frameSince := s.now, li.answer := .none }

/-- ATTEMPT_BEGIN (R11). -/
def execAttemptBegin (s : State) : Host.Outcome State Fault Refusal :=
  .next (if s.mayBegin then (s.advanceTo s.gapEnd).beginAttempt else s)

/-! ### A notice that leaves cancelled (R28, R33, R76, R81) -/

/-- A cancelled head has left the queue unsent, or with an answer that is disregarded: the claim exchange takes it. -/
def State.leftCancelled (n : Notice) (s : State) : State :=
  if n.isClaim then s.clearClaim else if n.isShed then s.applyHeld else s

/-- The end of a collided attempt for a head whose cancellation was held (R33). -/
def State.dropCancelled (s : State) : State :=
  match s.tq.queue with
  | h :: _ => if h.cancelled then s.popHead.leftCancelled h.notice else s
  | [] => s

/-! ### Collisions (R13, R14) -/

/-- The head notice's run rises; at 8 LINE is pending, with its fault (R14, R177). -/
def State.raiseRun (s : State) : State :=
  let s := { s with tq.headRun := s.tq.headRun + 1 }
  if s.tq.headRun = 8 then s.raise .line 15 s.tq.headRun 0 s.headKind s.tq.headRun s.lossSeconds else s

/-- An attempt collides: the line is released, the receiver stays in FRAME (R13). -/
def State.collide (s : State) : State :=
  State.dropCancelled (State.raiseRun (State.countCollision
    { s with li.attempt := none, li.idleSince := s.now }))

/-- The end of an attempt's frame (R3). -/
def attemptEnd (a : Attempt) : Nat := a.start + 10 * Config.bitTime * a.bytes.length

/-- The moment at which the slot of an own SHED begins: the end of its frame (R7). -/
def State.ownSlot (s : State) : Option Nat :=
  match s.li.attempt, s.tq.queue with
  | some a, h :: _ => if h.notice.isShed then some (attemptEnd a) else none
  | _, _ => none

/-- The receiver stands in the slot of the own SHED: byte 7 + L has been read back (R5, R7, log 6). -/
def State.inOwnSlot (s : State) : Bool :=
  match s.ownSlot with
  | some e => decide (s.li.rx = .frame) && decide (e ≤ s.now)
  | none => false

/-- The receiver's state at the present moment (R5): `li.rx`, but for the slot of the own SHED (log 6). -/
def State.receiver (s : State) : RxState := if s.inOwnSlot then .slot else s.li.rx

/-- The own SHED's frame ends and its slot begins (R5, R7). -/
def State.enterOwnSlot (s : State) : State :=
  match s.ownSlot with
  | some e => if s.li.rx = .frame then { s.advanceTo e with li.rx := .slot, li.slotSince := e } else s
  | none => s

/-- COLLISION (R13): no bit is left to compare once the slot of the own SHED has begun. -/
def execCollision (s : State) : Host.Outcome State Fault Refusal :=
  .next (if s.live && s.li.attempt.isSome && decide (s.receiver = .frame) then s.collide.finish else s)

/-! ### Completions (R15, R30 to R32, R67, R72) -/

/-- The senior set: every PENDING entry of another station, as the own CLAIM completes (R67). -/
def State.seniorSet (s : State) : List (Nat × Nat) :=
  (s.sb.book.filter fun e => e.station != s.sl.own && !e.committed).map fun e => (e.station, e.bed)

/-- The own CLAIM has completed (R67); a withdrawn claim's entry is placed and leaves again as its DROP is queued, and a
placement that the full book skips leads to the DROP at once (R81). -/
def State.claimOnLine (s : State) : State :=
  let c := s.sb.claim
  let placed := s.insert ⟨s.sl.own, c.bed.val, c.flow, c.urgency, false, c.age, s.now⟩
  if c.withdrawn then placed.endClaim
  else if !placed.hasEntry placed.sl.own c.bed.val then placed.dropClaim
  else { placed with
    sb.claim.phase := .resolving, sb.claim.seniors := s.seniorSet, sb.claim.resolveSince := some s.now }

/-- A COMMIT or DROP has completed: the claim in flight ends (R72). -/
def State.claimOver (s : State) : State := if s.sb.claim.phase = .ending then s.clearClaim else s

/-- The producer learns that its notice is on the line (R15, R30). -/
def State.onLine (n : Notice) (s : State) : State :=
  match n with
  | .claim .. => s.claimOnLine
  | .commit _ | .drop _ => s.claimOver
  | .tally | .free _ | .shed .. | .sky _ | .alert .. | .stationReply _ | .bedReply _ => s

/-- The SHED has ended with an answer (R31, R75). -/
def State.shedAnswered (r : Reply) (s : State) : State :=
  if s.sb.claim.outcome.isSome then s.applyHeld
  else match r with
    | .ack => { s with sb.claim.phase := .awaiting, sb.claim.victimSince := some s.now }
    | .refuse => s.dropClaim

/-- The SHED has ended without an answer, after four attempts (R32). -/
def State.shedGivenUp (station victim : Nat) (claimant : BedId) (s : State) : State :=
  let s := s.raise .noanswer victim station station 6 4 claimant.val
  if s.sb.claim.outcome.isSome then s.applyHeld else s.dropClaim

/-- The attempts a SHED has (R32). -/
def shedAttempts : Nat := 4

/-- A completed attempt of a SHED (R31 to R33). -/
def State.shedOnLine (h : Queued) (station victim : Nat) (claimant : BedId) (slot : Option SlotByte) (s : State) : State :=
  match answerOf slot with
  | some r => s.popHead.shedAnswered r
  | none =>
    if shedAttempts ≤ h.unanswered + 1 then s.popHead.shedGivenUp station victim claimant
    else if h.cancelled then s.popHead.applyHeld
    else s.modHead fun q => { q with unanswered := q.unanswered + 1 }

/-- What every completion does to the line: yielding, the collision run, the line-loss timer, the LINE hold (R15, log 7). -/
def State.completed (s : State) : State :=
  State.leaveHold .line { s with li.attempt := none, li.yielding := true, tq.headRun := 0, li.lossSince := s.now }

/-- An own transmission completes: at its last stop bit, or a SHED at the end of its slot (R15, log 6). -/
def State.complete (a : Attempt) (slot : Option SlotByte) (s : State) : State :=
  match s.tq.queue with
  | [] => s
  | h :: _ =>
    match h.notice with
    | .shed station victim claimant =>
      let s := s.enterOwnSlot.advanceTo (attemptEnd a + Config.slotTime)
      s.completed.shedOnLine h station victim claimant slot
    | n =>
      let s := s.advanceTo (attemptEnd a)
      (State.completed { s with li.rx := .slot, li.slotSince := s.now }).popHead.onLine n

/-- TRANSMISSION_COMPLETES (R15). -/
def execTransmissionCompletes (slot : Option SlotByte) (s : State) : Host.Outcome State Fault Refusal :=
  .next (match s.li.attempt with
    | some a => if s.live then (s.complete a slot).finish else s
    | none => s)

/-! ### The receiver (R5, R7, R10, R12) -/

/-- FRAME_BEGINS (R5): in HUNT a byte of another sender begins. -/
def execFrameBegins (s : State) : Host.Outcome State Fault Refusal :=
  .next (if s.live && decide (s.li.rx = .hunt) && s.li.attempt.isNone then
    { s with li.rx := .frame, li.frameSince := s.now } else s)

/-- FRAME_ABANDONED (R5): whichever reason, DISCARD and one receive error; in HUNT too where the frame's opening was not
reported (log 5). DISCARD's count of recessive bit times starts at the entry, for a recessive gap too (log 37). -/
def execFrameAbandoned (_why : AbandonReason) (s : State) : Host.Outcome State Fault Refusal :=
  .next (if s.receiving then
    State.receiveError { s with li.rx := .discard, li.idleSince := s.now } else s)

/-- DISCARD_QUIET_END (R5). -/
def execDiscardQuietEnd (s : State) : Host.Outcome State Fault Refusal :=
  .next (if s.live && decide (s.li.rx = .discard) then
    let s := s.advanceTo (s.li.idleSince + Config.slotTime)
    { s with li.rx := .hunt } else s)

/-- DOMINANT_LEVEL (R5, R10): the idle count, which is DISCARD's count too, starts again. The model's choice: the command
stands for the end of the dominant level, and the line is recessive from there on (log 51). -/
def execDominantLevel (s : State) : Host.Outcome State Fault Refusal :=
  .next (if s.live && (decide (s.li.rx = .discard) || decide (s.li.rx = .hunt)) then { s with li.idleSince := s.now } else s)

/-- The slot's end: the line is idle from here (R7, R10). -/
def State.endSlot (s : State) : State :=
  let s := s.advanceTo (s.li.slotSince + Config.slotTime)
  { s with li.rx := .hunt, li.idleSince := s.now, li.answer := .none }

/-- SLOT_END (R7, R10): of a frame received, or of the own frame; the slot of an own SHED ends before or after the
completion that the same moment brings (log 6). -/
def execSlotEnd (s : State) : Host.Outcome State Fault Refusal :=
  .next (if s.live && decide (s.enterOwnSlot.li.rx = .slot) then s.enterOwnSlot.endSlot else s)

/-- YIELDING_CLEAR (R12). -/
def execYieldingClear (s : State) : Host.Outcome State Fault Refusal :=
  .next (if s.live && s.li.yielding && (decide (s.li.rx = .discard) || decide (s.li.rx = .hunt)) then
    let s := s.advanceTo (s.li.idleSince + Config.yieldTime)
    { s with li.yielding := false } else s)

/-! ### The answer byte (R8) -/

/-- ANSWER_BYTE_START: 2 bit times into the slot. -/
def execAnswerByteStart (s : State) : Host.Outcome State Fault Refusal :=
  .next (match s.li.answer with
    | .waiting r =>
      if s.live && decide (s.li.rx = .slot) then
        let s := s.advanceTo (s.li.slotSince + Config.answerTime)
        { s with li.answer := .sending r } else s
    | .none | .sending _ => s)

/-- ANSWER_COLLISION: the line is released and one collision is reported. -/
def execAnswerCollision (s : State) : Host.Outcome State Fault Refusal :=
  .next (match s.li.answer with
    | .sending _ => if s.live then State.countCollision { s with li.answer := .none } else s
    | .none | .waiting _ => s)

/-! ### Timers of the line (R18, R30) -/

/-- LINE_LOSS_CLOSURE (R18): with an own COMMITTED entry and no LINE hold. -/
def execLineLossClosure (s : State) : Host.Outcome State Fault Refusal :=
  .next (s.take fun s =>
    if !s.bc.holds.line && s.hasOwnCommitted then (s.advanceTo (s.li.lossSince + Config.lineLossTime)).closeLine else s)

/-- TALLY_FALLS_DUE (R30). -/
def execTallyFallsDue (s : State) : Host.Outcome State Fault Refusal :=
  .next (s.take fun s =>
    match s.tq.tallySince with
    | some t =>
      let s := s.advanceTo (t + Config.tallyTime)
      State.tallyDue { s with tq.tallySince := some s.now }
    | none => s)

end Sys2Proof.Machine
end

