-- ==== Sys2Proof/Machine/Orders.lean ====
section
/-! DEFINITION. Orders: the order gate (R179), group addressing (R180), and what each accepted order carries out
(R103 to R108, R170, R176, R181). -/

namespace Sys2Proof.Machine

/-! ### The gate (R179, R180) -/

/-- The station-state check. -/
def StationState.passes : StationState → OrderKind → Bool
  | .unconfigured, k => decide (k = .query) || decide (k = .clear) || decide (k = .clock)
  | .barred, k => decide (k = .query)
  | .loading, _ => false
  | .checking, _ | .listening, _ | .active, _ => true

/-- A group window matches a code. -/
def GroupWindow.matches (w : GroupWindow) (code : Nat) : Bool := (byte code &&& w.mask) == (w.base &&& w.mask)

/-- The beds of a group order; none where no window matches. -/
def State.groupBeds (code : Nat) (s : State) : Option (List BedId) :=
  match s.sl.setup.groups.filter fun w => w.matches code with
  | [] => none
  | ws => some (allBeds.filter fun b => ws.any fun w => w.beds.getLsbD b.val)

/-- The bed check: the selector names a present bed. -/
def State.presentBed (sel : Nat) (s : State) : Option BedId :=
  match bedOf sel with
  | some b => if (s.setupOf b).present then some b else none
  | none => none

/-- A refused order: its kind and reason are recorded, REFUSE is answered to one addressed by number. -/
def State.refuse (tgt : Nat) (k : OrderKind) (r : RefusalReason) (s : State) : State :=
  (s.noteRefusal k r).answer tgt .refuse

/-- A group order reaches one bed of its set, which takes or refuses it on its own. -/
def State.groupBed (k : OrderKind) (takes : BedId → State → Bool) (act : BedId → State → State) (b : BedId) (s : State) :
    State :=
  if !(s.setupOf b).present then s.noteRefusal k .bedRange
  else if !takes b s then s.noteRefusal k .bedOff
  else act b s

/-- The checks of a group order that come as a whole, then what it carries out over its beds (R180). The
model's choice: a refusal by those checks is recorded for an empty bed set too (log 50). -/
def State.groupOrder (sel : Nat) (k : OrderKind) (args : Bool) (act : List BedId → State → State) (s : State) : State :=
  match s.groupBeds sel with
  | none => s
  | some beds =>
    if !s.sl.station.passes k then s.noteRefusal k .stationState
    else if !args then s.noteRefusal k .argument
    else act beds s

/-- An order that acts on beds (R179, R180). -/
def State.bedOrder (tgt sel : Nat) (k : OrderKind) (args : Bool) (takes : BedId → State → Bool)
    (act : BedId → State → State) (s : State) : State :=
  if tgt = 0 then
    s.groupOrder sel k args fun beds s => beds.foldl (fun s b => s.groupBed k takes act b) s
  else if !s.sl.station.passes k then s.refuse tgt k .stationState
  else match s.presentBed sel with
    | none => s.refuse tgt k .bedRange
    | some b =>
      if !args then s.refuse tgt k .argument
      else if !takes b s then s.refuse tgt k .bedOff
      else (act b s).answer tgt .ack

/-- An order that acts on the station (R179, R180). -/
def State.stationOrder (tgt sel : Nat) (k : OrderKind) (args : Bool) (act : State → State) (s : State) : State :=
  if tgt = 0 then s.groupOrder sel k args fun _ s => act s
  else if !s.sl.station.passes k then s.refuse tgt k .stationState
  else if !args then s.refuse tgt k .argument
  else (act s).answer tgt .ack

/-! ### Bed orders (R103 to R107) -/

/-- The BC takes a WATER, unless the bed is OFF or FAULTED (R103). -/
def State.takesWater (b : BedId) (s : State) : Bool :=
  decide ((s.bed b).state ≠ .off) && decide ((s.bed b).state ≠ .faulted)

/-- WATER by the bed's state: kept in CLOSING, applied in every other (R105, R123). The model's choice: a skip mark set in
CLOSING clears when the kept order is applied, not when it is kept (log 52). -/
def State.waterBed (litres : Nat) (b : BedId) (s : State) : State :=
  if (s.bed b).state = .closing then
    s.modBed b fun x => { x with run := x.run.map fun r => { r with keptOrder := some litres } }
  else s.applyWater b litres

/-- The BC takes a SKIP, unless the bed is OFF (R103). -/
def State.takesSkip (b : BedId) (s : State) : Bool := decide ((s.bed b).state ≠ .off)

/-- The end cause of a closing bed after a SKIP (R123). -/
def skippedCause : Option EndCause → Option EndCause
  | some .leak => some .leak
  | some .noflow => some .noflow
  | _ => some .skip

/-- SKIP by the bed's state (R106, R123). -/
def State.skipBed (b : BedId) (s : State) : State :=
  let s := s.modBed b fun x => { x with skip := true }
  match (s.bed b).state with
  | .off | .faulted => s
  | .idle => s.modBed b fun x => { x with need := 0, ordered := false }
  | .waiting | .soaking => s.toIdle b
  | .claiming => s.withdraw.toIdle b
  | .opening | .confirming | .running => (s.modBed b fun x => { x with ordered := false }).endCycle b .skip
  | .closing =>
    s.modBed b fun x => { x with
      ordered := false
      run := x.run.map fun r =>
        { r with need := r.delivered, keptOrder := none, endCause := skippedCause r.endCause } }

/-- TARGET: pending, and in force at once for a bed in IDLE, WAITING, OFF or FAULTED (R107). -/
def State.targetBed (start stop : Nat) (b : BedId) (s : State) : State :=
  let s := s.modBed b fun x => { x with targets := some (start, stop) }
  match (s.bed b).state with
  | .idle | .waiting | .off | .faulted => s.bringTargets b
  | .claiming | .opening | .confirming | .running | .closing | .soaking => s

/-- TARGET's arguments (R179). -/
def targetArgs (start stop : Nat) : Bool := decide (start ≤ 100) && decide (stop ≤ 100) && decide (start < stop)

/-! ### CLEAR (R176) -/

/-- A new PROBE fault of a bed whose values the manual does not state: free values (log 12). -/
def State.raiseFree (b : BedId) (s : State) : State :=
  let one := (Config.freeWord s.free).toNat
  let two := (Config.freeWord (s.free + 1)).toNat
  State.raise .probe b.val one 0 0 one two { s with free := s.free + 2 }

/-- A FAULTED bed returns to IDLE and is evaluated at once; one whose probe is still broken faults anew (R88, R176). -/
def State.returnBed (b : BedId) (s : State) : State :=
  let s := (s.toIdle b).evaluate b false
  if (s.bed b).state = .faulted then s.raiseFree b else s

/-- The FAULTED beds of a cause return, in bed order (R176). -/
def State.returnBeds (c : Cause) (s : State) : State :=
  State.forBeds (fun b s =>
    if (s.bed b).state = .faulted ∧ (s.bed b).fault.map BedFault.cause = some c then s.returnBed b else s) s

/-- A CLEAR of one cause (R176). -/
def State.clearCause (c : Cause) (s : State) : State := ((s.rearm c).returnBeds c).evaluateCause c

/-- The fault record is emptied and unlocked (R177). -/
def State.emptyRecord (s : State) : State := { s with au.record := none, au.more := false }

/-- CLEAR ALL: every cause in number order, the beds of each cause in bed order, and the fault record (R176, log 13). -/
def State.clearAll (s : State) : State := (Cause.all.foldl (fun s c => s.clearCause c) s).emptyRecord

/-- The cause of a number. -/
def causeOf (n : Nat) : Option Cause := Cause.all.find? fun c => c.number == n

/-- CLEAR by its argument; 0 is ALL. -/
def State.clearOrder (n : Nat) (s : State) : State :=
  match causeOf n with
  | some c => s.clearCause c
  | none => s.clearAll

/-! ### Meanings -/

/-- Payload lengths of the orders (section 2.1), and an ORDER's hand-over: any argument is the gate's to check (R20). -/
def State.order (src tgt len : Nat) (f : State → State) (s : State) : State := s.hand src tgt 9 len true f

/-- WATER (R105). -/
def execWater (src tgt sel litres : Nat) (s : State) : Host.Outcome State Fault Refusal :=
  .next (s.order src tgt 4 (State.bedOrder tgt sel .water (inRange 1 2000 litres) State.takesWater (State.waterBed litres)))

/-- SKIP (R106). -/
def execSkip (src tgt sel : Nat) (s : State) : Host.Outcome State Fault Refusal :=
  .next (s.order src tgt 2 (State.bedOrder tgt sel .skip true State.takesSkip State.skipBed))

/-- PAUSE (R108). -/
def execPause (src tgt sel : Nat) (s : State) : Host.Outcome State Fault Refusal :=
  .next (s.order src tgt 2 (State.stationOrder tgt sel .pause true (State.joinHold .pause)))

/-- RESUME (R108). -/
def execResume (src tgt sel : Nat) (s : State) : Host.Outcome State Fault Refusal :=
  .next (s.order src tgt 2 (State.stationOrder tgt sel .resume true (State.leaveHold .pause)))

/-- TARGET (R107). -/
def execTarget (src tgt sel start stop : Nat) (s : State) : Host.Outcome State Fault Refusal :=
  .next (s.order src tgt 4
    (State.bedOrder tgt sel .target (targetArgs start stop) (fun _ _ => true) (State.targetBed start stop)))

/-- CLEAR (R176). -/
def execClear (src tgt sel cause : Nat) (s : State) : Host.Outcome State Fault Refusal :=
  .next (s.order src tgt 3 (State.stationOrder tgt sel .clear (decide (cause ≤ 12)) (State.clearOrder cause)))

/-- QUERY (R181): form 1 is the bed form, form 0 the station form, any other is out of range. -/
def execQuery (src tgt sel form : Nat) (s : State) : Host.Outcome State Fault Refusal :=
  .next (s.order src tgt 3 (
    if form = 1 then
      State.bedOrder tgt sel .query true (fun _ _ => true) fun b s => s.offer (.bedReply (s.bedReply b))
    else State.stationOrder tgt sel .query (form == 0) fun s => s.offer (.stationReply s.stationReply)))

/-- CLOCK (R170). -/
def execClock (src tgt sel minute : Nat) (s : State) : Host.Outcome State Fault Refusal :=
  .next (s.order src tgt 4 (State.stationOrder tgt sel .clock (decide (minute ≤ 1439)) (State.setClock minute)))

end Sys2Proof.Machine
end

