-- ==== Sys2Proof/Machine/Start.lean ====
section
/-! DEFINITION. Starts and the setup image (chapter 11, with every block's start values), the LISTENING timer, and the
ATTN square wave (R178). -/

namespace Sys2Proof.Machine

/-! ### Cold and warm start (R188) -/

/-- Every block at its cold-start values; time, the free values used and the waiting commands go on, and RSTN stays as it
is driven: held low, it holds these values on (R188). -/
def State.coldStart (s : State) : State :=
  { State.reset with
    now := s.now, free := s.free, pending := s.pending, sl := { SetupLoader.reset with rstnLow := s.sl.rstnLow } }

/-- What a warm start keeps of a bed (R110). -/
def Bed.kept (x : Bed) : Bed := { Bed.fresh with skip := x.skip, debt := x.debt, delivered := x.delivered }

/-- Every block at its start values but for what a warm start keeps; RSTN is low (R110, R172, R182, R188). The rain buckets
are kept whatever the next image makes of the station (log 45). -/
def State.warmStart (s : State) : State :=
  { State.reset with
    now := s.now
    free := s.free
    pending := s.pending
    sl := { SetupLoader.reset with rstnLow := true }
    bc := { BedController.reset with
      beds := s.bc.beds.map fun _ x => x.kept
      rainApplied := s.bc.rainApplied
      due := s.bc.due }
    pw := { ProbesWeather.reset with
      current := s.pw.current
      complete := s.pw.complete
      lastHourIndex := s.pw.lastHourIndex
      weather := s.pw.weather
      minute := s.pw.minute
      clockSet := s.pw.clockSet
      secondSince := s.pw.secondSince }
    au := { AlertUnit.reset with latches := s.au.latches, record := s.au.record, more := s.au.more } }

/-- COLD_START (R188). -/
def execColdStart (s : State) : Host.Outcome State Fault Refusal := .next s.coldStart

/-- WARM_START (R188). -/
def execWarmStart (s : State) : Host.Outcome State Fault Refusal := .next s.warmStart

/-- RSTN_RETURNS_HIGH (R178, R188): ATTN starts from its driven half. -/
def execRstnReturnsHigh (s : State) : Host.Outcome State Fault Refusal :=
  .next (if s.sl.rstnLow then
    { s with sl.rstnLow := false, au.half := s.anyPending, au.halfSince := s.now } else s)

/-! ### The setup image (R183 to R185) -/

/-- What every block takes up at the end of LOADING, whatever the image (R19, R143, R158, R159, R165). -/
def State.endLoading (flowHigh rainHigh : Bool) (s : State) : State :=
  { s with
    sl.loadingEnd := s.now
    li.rx := .discard
    li.idleSince := s.now
    li.lossSince := s.now
    vd.measureSince := s.now
    fm.level := flowHigh
    fm.levelSince := s.now
    fm.windowSince := s.now
    fm.lastTransient := s.now
    pw.rainLevel := rainHigh
    pw.rainSince := s.now
    pw.scanDue := s.now }

/-- A bed's first state: OFF, or IDLE with its thresholds from setup; what a warm start kept stays (R88, R110). -/
def Bed.first (u : BedSetup) (x : Bed) : Bed :=
  { x.kept with state := if u.valid then .idle else .off, start := u.start, stop := u.stop }

/-- A valve's first state (R129, R143). -/
def firstValve (u : BedSetup) : ValveState :=
  match u.kind with
  | .held => if u.valid then .closed else .unknown
  | .latch => .unknown

/-- SETUP faults of the invalid bed blocks, in bed order (R183). -/
def State.bedFaults (image : List Byte) (s : State) : State :=
  State.forBeds (fun b s =>
    match bedError image b with
    | some o => s.raise .setup b.val 0 0 0 o 0
    | none => s) s

/-- Each block takes its part of a valid image; CHECKING begins with the reserve wait (R183, R184, R141, R142). -/
def State.takeSetup (image : List Byte) (s : State) : State :=
  let u := readSetup image
  { s.bedFaults image with
    sl.station := .checking
    sl.setup := u
    sl.own := readStation image
    sb.budget := effectiveBudget u.budget s.sb.presence
    bc.beds := s.bc.beds.map fun b x => x.first (u.beds.get b)
    vd.valves := u.beds.map fun _ v => firstValve v
    vd.marks := u.beds.map fun _ v => v.valid
    vd.check := .reserveWait s.now }

/-- An invalid image: SETUP with the failing offset, and UNCONFIGURED, where no start-up closure is made (R183, R185). -/
def State.takeNoSetup (image : List Byte) (offset : Nat) (s : State) : State :=
  { s.raise .setup 15 0 0 0 offset 0 with
    sl.station := .unconfigured
    sl.setup := .blank
    sl.own := readStation image
    sb.budget := effectiveBudget 0 s.sb.presence
    bc.beds := s.bc.beds.map fun _ x => x.first .absent
    vd.check := .done }

/-- A TALLY falls due at the entry to UNCONFIGURED, and the tally timer starts (R30). -/
def State.firstTally (s : State) : State :=
  if s.sl.station = .unconfigured then State.tallyDue { s with tq.tallySince := some s.now } else s

/-- What the kept clock and record bring at the end of LOADING: boundaries whose ticks fell, the weather holds, the STALE
condition (R92, R99, R166, R169, log 23). -/
def State.takeKept (s : State) : State :=
  let s := s.takeDue.weighWeather
  if s.staleCondition then s.goStale else s

/-- The end of LOADING. -/
def State.loadImage (image : List Byte) (flowHigh rainHigh : Bool) (s : State) : State :=
  let s := s.endLoading flowHigh rainHigh
  let s := match imageError image with
    | none => s.takeSetup image
    | some o => s.takeNoSetup image o
  s.takeKept.firstTally

/-- SETUP_IMAGE_READ (R183, R184): LOADING with RSTN high. -/
def execSetupImageRead (image : List Byte) (flowHigh rainHigh : Bool) (s : State) : Host.Outcome State Fault Refusal :=
  .next (if s.live || s.sl.rstnLow then s else (s.loadImage image flowHigh rainHigh).finish)

/-- LISTENING_TIMER_EXPIRY (R184): ACTIVE, an offer occasion. -/
def execListeningTimerExpiry (s : State) : Host.Outcome State Fault Refusal :=
  .next (s.take fun s =>
    if s.sl.station = .listening then
      let s := s.advanceTo (s.sl.listenSince + Config.listeningTime)
      State.noteOccasion { s with sl.station := .active }
    else s)

/-! ### ATTN (R178) -/

/-- ATTN_TOGGLE: while a cause is pending and RSTN is high. -/
def execAttnToggle (s : State) : Host.Outcome State Fault Refusal :=
  .next (if s.anyPending && !s.sl.rstnLow then
    let s := s.advanceTo (s.au.halfSince + Config.attnHalf)
    { s with au.half := !s.au.half, au.halfSince := s.now } else s)

end Sys2Proof.Machine
end

