-- ==== Sys2Proof/Machine/Timers.lean ====
section
/-! DEFINITION. The timers of the book, of the claim exchange and of the beds (R42, R52, R65, R68, R77, R97, R98, R125,
R126). -/

namespace Sys2Proof.Machine

/-! ### The book (R42, R52) -/

/-- A peer's row and all its entries leave; the effective budget is recomputed, one event (R42). -/
def State.expire (station : Nat) (s : State) : State :=
  let book := s.sb.book.filter fun e => e.station != station
  let s := { s with sb.presence := s.sb.presence.filter fun r => r.station != station }
  (if book.length = s.sb.book.length then s else s.putBook book).recomputeBudget

/-- PEER_EXPIRY (R42). -/
def execPeerExpiry (station : Nat) (s : State) : Host.Outcome State Fault Refusal :=
  .next (s.take fun s =>
    match s.sb.presence.find? fun r => r.station == station with
    | some r => if station = s.sl.own then s else (s.advanceTo (r.heard + Config.peerTime)).expire station
    | none => s)

/-- PENDING_LAPSE (R52): a peer's PENDING entry. -/
def execPendingLapse (station bed : Nat) (s : State) : Host.Outcome State Fault Refusal :=
  .next (s.take fun s =>
    match s.entry station bed with
    | some e =>
      if station = s.sl.own ∨ e.committed = true then s
      else (s.advanceTo (e.heard + Config.lapseTime)).remove station bed
    | none => s)

/-! ### The claim exchange (R65, R68, R77) -/

/-- RESOLUTION_TIMER_EXPIRY (R68). -/
def execResolutionTimerExpiry (s : State) : Host.Outcome State Fault Refusal :=
  .next (s.take fun s =>
    match s.sb.claim.phase, s.sb.claim.resolveSince with
    | .resolving, some t =>
      let s := s.advanceTo (t + Config.resolutionTime)
      State.resolve { s with sb.claim.resolveSince := none }
    | _, _ => s)

/-- VICTIM_TIMER_EXPIRY (R77). -/
def execVictimTimerExpiry (s : State) : Host.Outcome State Fault Refusal :=
  .next (s.take fun s =>
    match s.sb.claim.phase, s.sb.claim.victimSince with
    | .awaiting, some t => (s.advanceTo (t + Config.victimTime)).dropClaim
    | _, _ => s)

/-- COURTESY_DELAY_END (R65): of NORMAL or DRY beds; a SEVERE bed has no delay. -/
def execCourtesyDelayEnd (u : Urgency) (s : State) : Host.Outcome State Fault Refusal :=
  .next (s.take fun s =>
    match s.sb.lastFree with
    | some t => if u = .severe then s else (s.advanceTo (t + courtesyDelay u)).noteOccasion
    | none => s)

/-! ### Beds (R97, R98, R125, R126) -/

/-- BACKOFF_END (R98). -/
def execBackoffEnd (b : BedId) (s : State) : Host.Outcome State Fault Refusal :=
  .next (s.take fun s =>
    match (s.bed b).state, (s.bed b).backoffEnd with
    | .waiting, some t =>
      ((s.advanceTo t).modBed b fun x => { x with backoffEnd := none }).noteOccasion
    | _, _ => s)

/-- WAIT_AGE_TICK (R97): saturated at 255. -/
def execWaitAgeTick (b : BedId) (s : State) : Host.Outcome State Fault Refusal :=
  .next (s.take fun s =>
    match (s.bed b).ageSince with
    | some t =>
      let s := s.advanceTo (t + Config.minute)
      s.modBed b fun x => { x with waitAge := min (x.waitAge + 1) 255, ageSince := some s.now }
    | none => s)

/-- RUN_DAY_LIMIT (R125): a WAITING bed with a run record. A bed that is CLAIMING at that minute keeps its run; back in
WAITING, a late RUN_DAY_LIMIT or its next close ends it (log 40). -/
def execRunDayLimit (b : BedId) (s : State) : Host.Outcome State Fault Refusal :=
  .next (s.take fun s =>
    match (s.bed b).state, (s.bed b).run with
    | .waiting, some r =>
      (s.advanceTo (s.sl.loadingEnd + (r.startMinute + 1440) * Config.minute)).toIdle b
    | _, _ => s)

/-- A soak ends: WAITING without backoff, or IDLE at the one-day limit (R125, R126). -/
def State.endSoak (b : BedId) (s : State) : State :=
  match (s.bed b).run with
  | some r => if s.dayOld r then s.toIdle b else s.toWaiting b 0
  | none => s.toWaiting b 0

/-- SOAK_END (R126): whole minutes from the soak's beginning (log 43). -/
def execSoakEnd (b : BedId) (s : State) : Host.Outcome State Fault Refusal :=
  .next (s.take fun s =>
    match (s.bed b).state, (s.bed b).soakSince with
    | .soaking, some t => (s.advanceTo (t + (s.setupOf b).soak * Config.minute)).endSoak b
    | _, _ => s)

end Sys2Proof.Machine
end

