-- ==== Sys2Proof/Machine/Dispatch.lean ====
section
/-! DEFINITION. One arm per command, each one direct call of its meaning. -/

namespace Sys2Proof.Machine

def exec (i : Instr) (s : State) : Host.Outcome State Fault Refusal :=
  match i with
  | .coldStart => Sys2Proof.Machine.execColdStart s
  | .warmStart => Sys2Proof.Machine.execWarmStart s
  | .rstnReturnsHigh => Sys2Proof.Machine.execRstnReturnsHigh s
  | .setupImageRead image flowHigh rainHigh => Sys2Proof.Machine.execSetupImageRead image flowHigh rainHigh s
  | .reserveWaitTimeout => Sys2Proof.Machine.execReserveWaitTimeout s
  | .coilCheck ohms => Sys2Proof.Machine.execCoilCheck ohms s
  | .listeningTimerExpiry => Sys2Proof.Machine.execListeningTimerExpiry s
  | .frameAbandoned why => Sys2Proof.Machine.execFrameAbandoned why s
  | .discardQuietEnd => Sys2Proof.Machine.execDiscardQuietEnd s
  | .slotEnd => Sys2Proof.Machine.execSlotEnd s
  | .invalidFrame bytes => Sys2Proof.Machine.execInvalidFrame bytes s
  | .malformedNotice src tgt kind payload => Sys2Proof.Machine.execMalformedNotice src tgt kind payload s
  | .duplicateNumberEvent kind len => Sys2Proof.Machine.execDuplicateNumberEvent kind len s
  | .unhandedFrameReceived src tgt kind len => Sys2Proof.Machine.execUnhandedFrameReceived src tgt kind len s
  | .tallyReceived src tgt tally => Sys2Proof.Machine.execTallyReceived src tgt tally s
  | .claimReceived src tgt bed flow urgency age => Sys2Proof.Machine.execClaimReceived src tgt bed flow urgency age s
  | .commitReceived src tgt bed => Sys2Proof.Machine.execCommitReceived src tgt bed s
  | .dropReceived src tgt bed => Sys2Proof.Machine.execDropReceived src tgt bed s
  | .freeReceived src tgt bed => Sys2Proof.Machine.execFreeReceived src tgt bed s
  | .shedReceived src tgt victim claimant urgency => Sys2Proof.Machine.execShedReceived src tgt victim claimant urgency s
  | .skyReceived src tgt sky => Sys2Proof.Machine.execSkyReceived src tgt sky s
  | .water src tgt sel litres => Sys2Proof.Machine.execWater src tgt sel litres s
  | .skip src tgt sel => Sys2Proof.Machine.execSkip src tgt sel s
  | .pause src tgt sel => Sys2Proof.Machine.execPause src tgt sel s
  | .resume src tgt sel => Sys2Proof.Machine.execResume src tgt sel s
  | .target src tgt sel start stop => Sys2Proof.Machine.execTarget src tgt sel start stop s
  | .clear src tgt sel cause => Sys2Proof.Machine.execClear src tgt sel cause s
  | .query src tgt sel form => Sys2Proof.Machine.execQuery src tgt sel form s
  | .clock src tgt sel minute => Sys2Proof.Machine.execClock src tgt sel minute s
  | .answerByteStart => Sys2Proof.Machine.execAnswerByteStart s
  | .answerCollision => Sys2Proof.Machine.execAnswerCollision s
  | .attemptBegin => Sys2Proof.Machine.execAttemptBegin s
  | .yieldingClear => Sys2Proof.Machine.execYieldingClear s
  | .collision => Sys2Proof.Machine.execCollision s
  | .transmissionCompletes slot => Sys2Proof.Machine.execTransmissionCompletes slot s
  | .lineLossClosure => Sys2Proof.Machine.execLineLossClosure s
  | .tallyFallsDue => Sys2Proof.Machine.execTallyFallsDue s
  | .peerExpiry station => Sys2Proof.Machine.execPeerExpiry station s
  | .pendingLapse station bed => Sys2Proof.Machine.execPendingLapse station bed s
  | .resolutionTimerExpiry => Sys2Proof.Machine.execResolutionTimerExpiry s
  | .victimTimerExpiry => Sys2Proof.Machine.execVictimTimerExpiry s
  | .courtesyDelayEnd urgency => Sys2Proof.Machine.execCourtesyDelayEnd urgency s
  | .backoffEnd bed => Sys2Proof.Machine.execBackoffEnd bed s
  | .waitAgeTick bed => Sys2Proof.Machine.execWaitAgeTick bed s
  | .dayClockTick => Sys2Proof.Machine.execDayClockTick s
  | .hourBoundary => Sys2Proof.Machine.execHourBoundary s
  | .dayRollover => Sys2Proof.Machine.execDayRollover s
  | .runDayLimit bed => Sys2Proof.Machine.execRunDayLimit bed s
  | .soakEnd bed => Sys2Proof.Machine.execSoakEnd bed s
  | .pulseEnd => Sys2Proof.Machine.execPulseEnd s
  | .recoveryEnd => Sys2Proof.Machine.execRecoveryEnd s
  | .pullInEnd bed => Sys2Proof.Machine.execPullInEnd bed s
  | .coilSupplyMeasurement volts => Sys2Proof.Machine.execCoilSupplyMeasurement volts s
  | .supplyGood => Sys2Proof.Machine.execSupplyGood s
  | .supplyLoss => Sys2Proof.Machine.execSupplyLoss s
  | .supplyReturn => Sys2Proof.Machine.execSupplyReturn s
  | .reserveReady => Sys2Proof.Machine.execReserveReady s
  | .flowEdge => Sys2Proof.Machine.execFlowEdge s
  | .edgeCounterOverflow => Sys2Proof.Machine.execEdgeCounterOverflow s
  | .rateWindowEnd => Sys2Proof.Machine.execRateWindowEnd s
  | .confirmTimerExpiry bed => Sys2Proof.Machine.execConfirmTimerExpiry bed s
  | .confirmLimit bed => Sys2Proof.Machine.execConfirmLimit bed s
  | .scanStart => Sys2Proof.Machine.execScanStart s
  | .probeSettleEnd => Sys2Proof.Machine.execProbeSettleEnd s
  | .probeMeasurementEnd gaps => Sys2Proof.Machine.execProbeMeasurementEnd gaps s
  | .rainTip => Sys2Proof.Machine.execRainTip s
  | .skyTimerExpiry => Sys2Proof.Machine.execSkyTimerExpiry s
  | .weatherRecordStale => Sys2Proof.Machine.execWeatherRecordStale s
  | .attnToggle => Sys2Proof.Machine.execAttnToggle s
  | .frameBegins => Sys2Proof.Machine.execFrameBegins s
  | .dominantLevel => Sys2Proof.Machine.execDominantLevel s
  | .flowFilteredLevelChange => Sys2Proof.Machine.execFlowFilteredLevelChange s
  | .rainFilteredLevelChange => Sys2Proof.Machine.execRainFilteredLevelChange s
  | .pwmPeriodBoundary => Sys2Proof.Machine.execPwmPeriodBoundary s

end Sys2Proof.Machine
end

