-- ==== Sys2Proof/Machine/Step.lean ====
section
/-! DEFINITION. One step: the command at the front of the queue, or a millisecond of quiet (log 1). -/

namespace Sys2Proof.Machine

/-- With no command waiting, one millisecond passes (log 1). -/
def State.idle (s : State) : State := { s with now := s.now + Config.millisecond }

/-- The front command is taken with the queue's rest; an empty queue lets time pass. -/
def step (s : State) : Host.Outcome State Fault Refusal :=
  match s.pending with
  | [] => .next s.idle
  | c :: rest => exec c { s with pending := rest }

/-- The command that a table word spells stands at the front of the queue; no word spells one. -/
def State.withFetchWord (s : State) (nbits w : Nat) : State :=
  match decodeTableWord nbits w with
  | some c => { s with pending := c :: s.pending }
  | none => s

end Sys2Proof.Machine
end

