-- ==== Sys2Proof/Machine/Views.lean ====
section
/-! DEFINITION. The pins and the line as State gives them (00_scope.md, Pins and signals): derived, none of it held. -/

namespace Sys2Proof.Machine

/-- ATTN is driven (R178). -/
def State.attn (s : State) : Bool :=
  if s.sl.rstnLow then false else if s.anyPending then s.au.half else s.au.record.isSome

/-- PPWR is on while a channel settles or is measured (R159). -/
def State.ppwr (s : State) : Bool := decide (s.pw.scan ≠ .idle)

/-- PSEL0 to PSEL3. -/
def State.pselPins (s : State) : Nat := s.pw.psel

/-- What drives a bed's VLV output. -/
inductive ValveOutput where
  | undriven | forward | reversed | full
  | pwm (duty : Nat)
deriving DecidableEq, Repr

/-- A channel's output: full current in pull-in, its active duty in hold (R134, R135). -/
def Channel.output (c : Channel) : ValveOutput :=
  match c.phase with
  | .waiting => .undriven
  | .pullIn .. => .full
  | .hold => match c.active with
    | some d => .pwm d
    | none => .full

/-- A bed's VLV output (R131, R134, R135). -/
def State.valveOutput (b : BedId) (s : State) : ValveOutput :=
  match s.vd.generator with
  | .pulse r _ _ =>
    if r.bed = b then (match r.dir with | .opens => .forward | .closes => .reversed)
    else ((s.channelOf b).map Channel.output).getD .undriven
  | .idle | .recovery _ => ((s.channelOf b).map Channel.output).getD .undriven

/-- The bits of a byte on the line, start bit first: true is recessive (R2). -/
def byteBits (b : Byte) : List Bool := false :: ([0, 1, 2, 3, 4, 5, 6, 7].map fun i => b.getLsbD i) ++ [true]

/-- The bits the station sends now, from the first start bit on: its attempt, or its answer byte (R1, R2, R8). -/
def State.sentBits (s : State) : List Bool :=
  match s.li.attempt, s.li.answer with
  | some a, _ => a.bytes.flatMap byteBits
  | none, .sending r => byteBits r.byte
  | none, .none | none, .waiting _ => []

/-- The idle count in whole bit times: 0 in FRAME, in SLOT and in an attempt (R10). -/
def State.idleCount (s : State) : Nat :=
  match s.li.rx, s.li.attempt with
  | .hunt, none | .discard, none => (s.now - s.li.idleSince) / Config.bitTime
  | .frame, _ | .slot, _ | .hunt, some _ | .discard, some _ => 0

end Sys2Proof.Machine
end

