-- ==== Sys2Proof/Safety.lean ====
section
/-! DEFINITION. The words the statements are made of: what every step keeps, the manual's bounds as predicates of a state
(R6, R27 to R30, R37, R38, R50, R85, R93, R97, R102, R132, R139, R152, R160, R162, R166, R170; of the valves R56, R114, R130 with
what carries them), its permitted changes of the station state (R184), what an event leaves alone once its own effect is
made, what a cut, a resolution of the claim and a need evaluation leave (R54, R69 to R75, R89, R100, R111, R117, R120, R126),
and what a received frame finds. -/

namespace Sys2Proof.Machine

/-- No two entries of one station and bed, and at most 32 (R37, R38). -/
def BookSound (s : State) : Prop :=
  (s.sb.book.map fun e => (e.station, e.bed)).Nodup ∧ s.sb.book.length ≤ Config.bookRoom

/-- At most one TALLY (R30), at most six general notices (R34). -/
def QueueSound (s : State) : Prop :=
  s.tq.queue.countP (fun q => q.notice.isTally) ≤ 1
    ∧ s.tq.queue.countP (fun q => !q.notice.essential) ≤ Config.generalRoom

/-- Delivered today, debt and wait age in their ranges (R85). -/
def BedsSound (s : State) : Prop :=
  ∀ b, (s.bed b).delivered ≤ dayLimit ∧ (s.bed b).debt ≤ 40000 ∧ (s.bed b).waitAge ≤ 255

/-- At most one waiting pulse request for each bed (R132), at most four valves still to close from the reserve (R139). -/
def DriveSound (s : State) : Prop :=
  (s.vd.queue.map fun r => r.bed).Nodup ∧ s.vd.closures.length ≤ 4

/-- The receive-error and collision counts are 0 to 255 (R6, R13). -/
def CountsSound (s : State) : Prop := s.au.rxErrors ≤ 255 ∧ s.au.collisions ≤ 255

/-- The effective budget is the smallest of the own budget and the budgets that count (R50). -/
def BudgetSound (s : State) : Prop := s.sb.budget = effectiveBudget s.sl.setup.budget s.sb.presence

/-- No station has two presence rows (R41). -/
def PresenceSound (s : State) : Prop := (s.sb.presence.map fun r => r.station).Nodup

/-- The period counter, the clock's minute, the 24 hourly buckets and the probe rings in their ranges (R160, R162, R166,
R170). -/
def WeatherSound (s : State) : Prop :=
  s.pw.counter ≤ 65535 ∧ s.pw.minute < 1440 ∧ s.pw.complete.length = 23 ∧ s.pw.current ≤ 65535 ∧ (∀ n ∈ s.pw.complete, n ≤ 65535)
    ∧ ∀ b, (s.pw.probes.get b).ring.length ≤ 4

/-- The branch checks' counts, the quiet count and the unmetered carries in their ranges (R148, R152, R156). -/
def FlowSound (s : State) : Prop :=
  s.fm.leakRun < checkLimit ∧ s.fm.noflowRun < checkLimit ∧ s.fm.stuckRun < checkLimit ∧ s.fm.quiet < 3
    ∧ ∀ b, s.fm.bedCarry.get b < 12

/-- Between events no book change and no offer occasion is still to be weighed (log 8). -/
def Settled (s : State) : Prop := s.sb.dirty = false ∧ s.bc.occasion = false

/-- All of the bounds. -/
structure Sound (s : State) : Prop where
  book : BookSound s
  queue : QueueSound s
  beds : BedsSound s
  drive : DriveSound s
  counts : CountsSound s
  budget : BudgetSound s
  presence : PresenceSound s
  weather : WeatherSound s
  flow : FlowSound s

/-- The changes of station state that R184 allows without a start, a state kept among them. -/
def StationState.mayBecome : StationState → StationState → Bool
  | .loading, .loading | .loading, .checking | .loading, .unconfigured => true
  | .checking, .checking | .checking, .listening | .checking, .barred => true
  | .listening, .listening | .listening, .active | .listening, .barred => true
  | .active, .active | .active, .barred => true
  | .unconfigured, .unconfigured => true
  | .barred, .barred => true
  | _, _ => false

/-- The starts, which alone take up another setup (R84, R188). -/
def Instr.isStart : Instr → Bool
  | .coldStart | .warmStart | .setupImageRead .. => true
  | _ => false

/-! ### The valves' bounds, and what carries them from step to step -/

/-- The claim in flight may still commit: its bed waits for it (R61, R70, R81). -/
def Claim.live (c : Claim) : Bool :=
  match c.phase with
  | .sending => !c.withdrawn
  | .asking => decide (c.outcome ≠ some .drop)
  | .resolving | .awaiting => true
  | .none | .ending => false

/-- A claim in flight before its last notice (R61). -/
def Claim.underWay (c : Claim) : Bool := decide (c.phase ≠ .none) && decide (c.phase ≠ .ending)

/-- A bed whose valve may be OPENING, OPEN or CLOSING (R114). -/
def BedState.busy (b : BedState) : Bool := b.cycling || decide (b = .closing)

/-- The claim exchange and its notices: a claim that may commit holds its bed in CLAIMING; the bed of a claim before its
last notice is in no cycle; from RESOLVING on its own entry is in the book; at most one CLAIM and one SHED wait, of the
claim in their phase; an outcome is held in ASKING alone; a claim is first offered in ACTIVE, and none may commit in BARRED
(R61, R63 to R76, R81, R187). -/
structure ClaimSound (s : State) : Prop where
  holds : s.sb.claim.live = true → (s.bed s.sb.claim.bed).state = .claiming
  idle : s.sb.claim.underWay = true → (s.bed s.sb.claim.bed).state.busy = false
  entry : s.sb.claim.underWay = true → s.sb.claim.phase ≠ .sending → s.hasEntry s.sl.own s.sb.claim.bed.val = true
  claims : s.tq.queue.countP (fun q => q.notice.isClaim) ≤ 1
  sheds : s.tq.queue.countP (fun q => q.notice.isShed) ≤ 1
  sending : s.holdsNotice Notice.isClaim = true → s.sb.claim.phase = .sending
  asking : s.holdsNotice Notice.isShed = true → s.sb.claim.phase = .asking
  held : s.sb.claim.outcome.isSome = true → s.sb.claim.phase = .asking
  offered : s.sl.station ≠ .active → s.sl.station ≠ .barred → s.sb.claim.phase = .none
  barred : s.sl.station = .barred → s.sb.claim.live = false

/-- The station drives nothing yet: no request, pulse, closure list or channel. -/
def State.driveAtRest (s : State) : Prop :=
  s.vd.queue = [] ∧ s.vd.generator = .idle ∧ s.vd.closures = [] ∧ s.vd.channelA = none ∧ s.vd.channelB = none

/-- Where a channel's valve stands (R134). -/
def Channel.valveState (c : Channel) : ValveState :=
  match c.phase with
  | .waiting | .pullIn .. => .opening
  | .hold => .opened

/-- The drive moves the valves it may move: requests, pulses and closures are of latching beds, channels of held ones, one
bed each; an open request or pulse has its valve in OPENING and no other request or pulse opens or closes it before; a
valve still to close from the reserve is CLOSING or UNKNOWN (R130 to R134, R139). -/
structure DriveKept (s : State) : Prop where
  requests : (s.vd.queue.map fun r => r.bed).Nodup ∧ ∀ r ∈ s.vd.queue, (s.setupOf r.bed).kind = .latch
  opens : ∀ b, ⟨b, .opens⟩ ∈ s.vd.queue → s.valve b = .opening ∧ s.pulsing b = false
  pulse : ∀ r rsv x, s.vd.generator = .pulse r rsv x →
    (s.setupOf r.bed).kind = .latch ∧ (r.dir = .opens → s.valve r.bed = .opening)
  closures : s.vd.closures.Nodup ∧ ∀ b ∈ s.vd.closures, (s.setupOf b).kind = .latch ∧ s.pulsing b = false
    ∧ (s.valve b = .closing ∨ s.valve b = .unknown)
  channels : ∀ b c, s.channelOf b = some c → (s.setupOf b).kind = .held ∧ s.valve b = c.valveState
  apart : ∀ c d, s.vd.channelA = some c → s.vd.channelB = some d → c.bed ≠ d.bed
  rest : s.sl.station = .loading → s.driveAtRest

/-- At most four valves are OPENING, OPEN or CLOSING, at most two of them held (R130); each of them has its own COMMITTED
entry in the book (R56) and a bed in a cycle or in CLOSING (R114); before ACTIVE there is none. A claim that may commit
leaves room for its valve (R64). -/
structure ValveBounds (s : State) : Prop where
  four : s.activeValves.length ≤ 4
  two : s.activeHeld.length ≤ 2
  owned : ∀ b, (s.valve b).active = true → ∃ e, s.ownEntry b.val = some e ∧ e.committed = true
  cycle : ∀ b, (s.valve b).active = true → (s.bed b).state.busy = true
  early : s.sl.station ≠ .active → s.sl.station ≠ .barred → s.activeValves = []
  room : s.sb.claim.live = true → s.activeValves.length ≤ 3
    ∧ ((s.setupOf s.sb.claim.bed).kind = .held → s.activeHeld.length ≤ 1)

/-- All of them together, which every step keeps. -/
structure ValvesSound (s : State) : Prop where
  bounds : ValveBounds s
  claim : ClaimSound s
  drive : DriveKept s

/-! ### What an event leaves alone once its own effect is made -/

/-- The state with everything blanked that the further work of an event may write: the queue, the book and the claim, the
beds' states and needs, the hold set, valves, pulses and channels, confirm timers and carries, latches and record. -/
def State.outer (s : State) : State :=
  { s with
    tq.queue := [], tq.headRun := 0
    sb.book := [], sb.saturated := false, sb.claim := .none, sb.dirty := false
    bc.beds := .const .fresh, bc.holds := .empty, bc.occasion := false
    vd.valves := .const .unknown, vd.queue := [], vd.generator := .idle, vd.closures := []
    vd.channelA := none, vd.channelB := none
    fm.confirms := .const none, fm.bedCarry := .const 0, fm.lastTransient := 0
    au.latches := .reset, au.record := none, au.more := false, au.refused := none, au.half := false, au.halfSince := 0 }

/-- The volumes and the readings of a bed: delivered today, debt, last wetness, probe-failed mark. -/
def Bed.core (x : Bed) : Nat × Nat × Option Nat × Bool := (x.delivered, x.debt, x.wetness, x.probeFailed)

/-- The entries of other stations, in book order. -/
def State.peers (s : State) : List Entry := s.sb.book.filter fun e => e.station != s.sl.own

/-- `t` is `s` after the further work of its event: the book's steps, the claim exchange, the offer, the ALERTs (R40, R58,
R63, R174, log 8). What they never touch is in `t` as in `s`; LINE is the one hold that can join; a locked record and a
pending cause stay. -/
structure FurtherWork (s t : State) : Prop where
  outer : t.outer = s.outer
  core : ∀ b, (t.bed b).core = (s.bed b).core
  holds : t.bc.holds = s.bc.holds ∨ t.bc.holds = s.bc.holds.put .line true
  peers : t.peers = s.peers
  record : ∀ f, s.au.record = some f → t.au.record = some f
  latched : ∀ c, (s.latch c).pending = true → (t.latch c).pending = true

/-- `t` is `s` after the ALERTs of its event were offered, and nothing else: they join the tail of the queue, armed latches
clear, and an ALERT refused for room sets DISCARD (R29, R174). -/
def AfterAlerts (s t : State) : Prop :=
  t = { s with tq.queue := t.tq.queue, au.latches := t.au.latches, au.half := t.au.half, au.halfSince := t.au.halfSince }
    ∧ (∃ l : List Queued, t.tq.queue = s.tq.queue ++ l ∧ ∀ q ∈ l, q.notice.code = 8)
    ∧ ∀ c, c ≠ .discard → (t.latch c).pending = (s.latch c).pending ∧ (t.latch c).bed = (s.latch c).bed
        ∧ (t.latch c).value = (s.latch c).value

/-! ### What a cut leaves (R54, R100, R120) -/

/-- A close request brings the bed's valve to CLOSED in the same event, without a pulse: it is CLOSED, or held and OPEN, or an
open request still waits, or a held valve waits for the supply (R130, R133, R134). -/
def State.shutsAtOnce (b : BedId) (s : State) : Prop :=
  s.valve b = .closed ∨ ((s.setupOf b).kind = .held ∧ s.valve b = .opened)
    ∨ ((s.setupOf b).kind = .latch ∧ s.valve b = .opening ∧ s.queued b = true ∧ s.pulsing b = false)
    ∨ ((s.setupOf b).kind = .held ∧ s.valve b = .opening ∧ ∀ c x y, s.channelOf b = some c → c.phase ≠ .pullIn x y)

/-- The bed's cycle of `s` has ended with this cause and its valve is still to close: CLOSING, the run as it was but for the
end cause, so the need is kept (R113, R120); an OPEN valve is CLOSING, any other waits for its pulse or pull-in to end (R130). -/
structure CycleEnded (b : BedId) (r : Run) (c : EndCause) (s t : State) : Prop where
  state : (t.bed b).state = .closing
  run : (t.bed b).run = some { r with endCause := some c }
  valve : t.valve b = if s.valve b = .opened then .closing else s.valve b

/-- Every cycle of `s` is cut with this cause: said for each bed whose valve does not shut at once (R100, R120). -/
def AllCut (c : EndCause) (s t : State) : Prop :=
  ∀ b r, (s.bed b).state.cycling = true → (s.bed b).run = some r → ¬ s.shutsAtOnce b → CycleEnded b r c s t

/-- The over entry `e` is an own one of this bed (R54). -/
def State.overdrawn (e : Entry) (b : BedId) (s : State) : Prop :=
  e ∈ overEntries s.sb.budget 0 s.sb.book ∧ e.station = s.sl.own ∧ bedOf e.bed = some b

/-- The overdraw check of this book and budget finds no cycle of the station's own to cut (R53, R54). -/
def State.cutsNothing (s : State) : Prop := ∀ e b, s.overdrawn e b → (s.bed b).state.cycling = false

/-! ### What a resolution of the claim leaves (R69 to R75) -/

/-- An open request is admitted: the valve is OPENING; a latching one's request waits, or its pulse has begun where the
generator was free; a held one has a channel, in pull-in, or waiting while the supply is not GOOD (R130, R132, R134). -/
structure OpenAdmitted (b : BedId) (s t : State) : Prop where
  valve : t.valve b = .opening
  pulse : (s.setupOf b).kind = .latch → s.vd.generator = .idle → s.vd.closures = [] → s.vd.queue = [] → s.vd.supply = .good →
    t.vd.generator = .pulse ⟨b, .opens⟩ false t.now
  waits : (s.setupOf b).kind = .latch → s.vd.generator ≠ .idle ∨ s.vd.closures ≠ [] ∨ s.vd.queue ≠ [] ∨ s.vd.supply ≠ .good →
    ⟨b, .opens⟩ ∈ t.vd.queue
  channel : (s.setupOf b).kind = .held → ∃ c, t.channelOf b = some c
    ∧ c.phase = if s.vd.supply = .good then .pullIn t.now false else .waiting

/-- The run record a commit at this moment leaves: created from the bed's need, its start minute the run clock's (log 43), or
carried into its next cycle (R111). -/
def State.committedRun (b : BedId) (now : Nat) (s : State) : Run :=
  match (s.bed b).run with
  | none => ⟨(s.bed b).need, 0, 1, 0, (now - s.sl.loadingEnd) / 720000, none, none⟩
  | some r => { r with cycle := r.cycle + 1, cycleDelivered := 0, endCause := none }

/-- The claim of `s` has committed: its COMMIT is queued; where the COMMITTED flows leave room for its entry and the line is
not lost, the entry is COMMITTED, the bed is in OPENING with its run, no other bed or valve changes, and a CLOSED valve takes its
open request (R36, R70, R111, R114). A lost line closes what a commit would open (R18). -/
structure Committed (s t : State) : Prop where
  phase : t.sb.claim.phase = .ending
  notice : ∃ q ∈ t.tq.queue, q.notice = .commit s.sb.claim.bed
  stands : ∀ e, BookSound s → s.ownEntry s.sb.claim.bed.val = some e → committedSum s.sb.book + e.flow ≤ s.sb.budget →
    t.now < s.li.lossSince + 25 * 12000 ∨ s.bc.holds.line = true →
    t.ownEntry s.sb.claim.bed.val = some { e with committed := true, heard := t.now }
      ∧ (t.bed s.sb.claim.bed).state = .opening
      ∧ (t.bed s.sb.claim.bed).run = some (s.committedRun s.sb.claim.bed t.now)
      ∧ (∀ d, d ≠ s.sb.claim.bed → t.bed d = s.bed d ∧ t.valve d = s.valve d)
      ∧ (s.valve s.sb.claim.bed = .closed → s.queued s.sb.claim.bed = false → s.pulsing s.sb.claim.bed = false →
          s.channelOf s.sb.claim.bed = none → s.vd.channelA = none ∨ s.vd.channelB = none →
          OpenAdmitted s.sb.claim.bed s t)
  late : s.li.lossSince + 25 * 12000 ≤ t.now → s.bc.holds.line = false →
    t.bc.holds.line = true ∧ (t.latch .line).pending = true ∧ ∀ d, (t.bed d).state.cycling = false

/-- The claim of `s` has dropped: its DROP is queued, its entry is gone, its bed waits with the backoff of the claim's urgency;
a bed with targets pending is evaluated as well (R71, R107). -/
structure Dropped (s t : State) : Prop where
  phase : t.sb.claim.phase = .ending
  notice : ∃ q ∈ t.tq.queue, q.notice = .drop s.sb.claim.bed
  gone : t.hasEntry s.sl.own s.sb.claim.bed.val = false
  waits : (s.bed s.sb.claim.bed).state = .claiming → (s.bed s.sb.claim.bed).targets = none →
    (t.bed s.sb.claim.bed).state = .waiting ∧ (t.bed s.sb.claim.bed).backoffEnd = some (t.now
      + match s.sb.claim.urgency with | .normal => 360000 | .dry => 240000 | .severe => 120000)

/-- The claim has left the phases that wait, by a resolution (R69). -/
def State.pastResolving (t : State) : Prop :=
  t.sb.claim.phase = .ending ∨ t.sb.claim.phase = .asking ∨ t.sb.claim.phase = .awaiting

/-- The claim of `s` was resolved on the book and budget of `s`: the fits test's table (R69), with the victim of a SEVERE claim
that does not fit and has made no shed: none, it drops; a peer's entry, a SHED names it; an own one, its cycle is cut and the
claim waits for the entry to leave (R73 to R75). -/
structure Resolved (s t : State) : Prop where
  past : t.pastResolving
  commits : committedSum s.sb.book + seniorSum s.sb.claim s.sb.book + s.sb.claim.flow ≤ s.sb.budget → Committed s t
  drops : s.sb.budget < committedSum s.sb.book + seniorSum s.sb.claim s.sb.book + s.sb.claim.flow →
    s.sb.claim.urgency ≠ .severe ∨ s.sb.claim.shedMade = true
      ∨ victimOf (committedSum s.sb.book + seniorSum s.sb.claim s.sb.book + s.sb.claim.flow - s.sb.budget) s.sb.claim.age
          s.sb.book = none →
    Dropped s t
  sheds : ∀ e, s.sb.budget < committedSum s.sb.book + seniorSum s.sb.claim s.sb.book + s.sb.claim.flow →
    s.sb.claim.urgency = .severe → s.sb.claim.shedMade = false →
    victimOf (committedSum s.sb.book + seniorSum s.sb.claim s.sb.book + s.sb.claim.flow - s.sb.budget) s.sb.claim.age
      s.sb.book = some e →
    t.sb.claim.shedMade = true
      ∧ (e.station ≠ s.sl.own → t.sb.claim.phase = .asking ∧ t.sb.claim.victim = some (e.station, e.bed)
          ∧ ∃ q ∈ t.tq.queue, q.notice = .shed e.station e.bed s.sb.claim.bed)
      ∧ (e.station = s.sl.own → ClaimSound s →
          (∀ b, bedOf e.bed = some b → (t.bed b).state.cycling = false
              ∧ ∀ r, (s.bed b).state.cycling = true → (s.bed b).run = some r → ¬ s.shutsAtOnce b → CycleEnded b r .shed s t)
            ∧ (∀ q ∈ t.tq.queue, q.notice.isShed = false)
            ∧ (t.hasEntry s.sl.own e.bed = true → t.sb.claim.phase = .awaiting
                ∧ t.sb.claim.victim = some (s.sl.own, e.bed) ∧ t.sb.claim.victimSince = some t.now)
            ∧ (t.hasEntry s.sl.own e.bed = false → t.sb.claim.phase = .ending))

/-- The claim waits for this entry alone: in RESOLVING no other member of its senior set is left; in AWAITING, or in ASKING with
no outcome held, it is the victim (R58, R68, R76, R77). -/
def State.awaits (st bd : Nat) (s : State) : Prop :=
  (s.sb.claim.phase = .resolving ∧ ∀ p ∈ s.liveSeniors, p = (st, bd))
    ∨ ((s.sb.claim.phase = .awaiting ∨ (s.sb.claim.phase = .asking ∧ s.sb.claim.outcome = none))
        ∧ s.sb.claim.victim = some (st, bd))

/-! ### What a need evaluation leaves (R89) -/

/-- The urgency after an evaluation with this result; the ordered mark allows SEVERE and DRY alone (R89). -/
def Bed.urgencyAfter (x : Bed) (result : Option (Nat × Urgency)) : Urgency :=
  if x.ordered then (if result.map (·.2) = some .severe then .severe else .dry)
  else match result with
    | some (_, u) => u
    | none => x.urgency

/-- R89's table at the end of the event, for a bed of `s` evaluated with this result, neither skipped nor in BARRED. A bed in
WAITING may be offered in the same event; a bed in CLAIMING keeps its claim, and its new urgency reaches it (R66). -/
structure Evaluated (b : BedId) (result : Option (Nat × Urgency)) (s t : State) : Prop where
  idle : (s.bed b).state = .idle → match result with
    | some (n, u) => ((t.bed b).state = .waiting ∨ (t.bed b).state = .claiming) ∧ (t.bed b).need = n ∧ (t.bed b).urgency = u
        ∧ (t.bed b).waitAge = 0
    | none => (t.bed b).state = .idle ∧ (t.bed b).need = (s.bed b).need ∧ (t.bed b).urgency = (s.bed b).urgency
  waiting : (s.bed b).state = .waiting → (s.bed b).run = none → (s.bed b).ordered = false → match result with
    | some (n, u) => ((t.bed b).state = .waiting ∨ (t.bed b).state = .claiming) ∧ (t.bed b).need = n ∧ (t.bed b).urgency = u
    | none => (t.bed b).state = .idle ∧ (t.bed b).need = 0 ∧ (t.bed b).waitAge = 0
  ordered : (s.bed b).state = .waiting → (s.bed b).run = none → (s.bed b).ordered = true →
    ((t.bed b).state = .waiting ∨ (t.bed b).state = .claiming) ∧ (t.bed b).need = (s.bed b).need
      ∧ (t.bed b).urgency = (s.bed b).urgencyAfter result
  run : ∀ r, (s.bed b).state = .waiting → (s.bed b).run = some r →
    ((t.bed b).state = .waiting ∨ (t.bed b).state = .claiming) ∧ (t.bed b).run = some r
      ∧ (t.bed b).urgency = (s.bed b).urgencyAfter result
  claiming : (s.bed b).state = .claiming →
    (s.bed b).targets = none ∨ (s.bed b).run ≠ none ∨ t.sb.claim.phase = s.sb.claim.phase →
    (t.bed b).urgency = (s.bed b).urgencyAfter result
      ∧ ((s.bed b).run = none → (t.bed b).need = match result with
          | some (n, _) => if (s.bed b).ordered then (s.bed b).need else n
          | none => (s.bed b).need)
      ∧ (s.sb.claim.bed = b → s.sb.claim.live = true → s.sb.claim.urgency = (s.bed b).urgency →
          t.sb.claim.urgency = (s.bed b).urgencyAfter result)

/-- A wetness value handed over to a bed under probe rules, which holds it in `s` already: the stop test of a cycle, a soak or a
waiting run, or the evaluation (R89, R90, R117, R126). -/
structure Weighed (b : BedId) (w : Nat) (s t : State) : Prop where
  passed : (s.bed b).state = .opening ∨ (s.bed b).state = .closing ∨ (s.bed b).state = .faulted → t.bed b = s.bed b
  below : (s.bed b).state = .confirming ∨ (s.bed b).state = .running ∨ (s.bed b).state = .soaking → w < (s.bed b).stop →
    t.bed b = s.bed b
  wet : (s.bed b).state = .confirming ∨ (s.bed b).state = .running → (s.bed b).stop ≤ w →
    (t.bed b).state ≠ .confirming ∧ (t.bed b).state ≠ .running
      ∧ ∀ r, (s.bed b).run = some r → ¬ s.shutsAtOnce b → CycleEnded b r .wet s t
  soaked : (s.bed b).state = .soaking → (s.bed b).stop ≤ w →
    (t.bed b).run = none ∧ ((s.bed b).targets = none → (t.bed b).state = .idle)
  waited : (s.bed b).state = .waiting → (s.bed b).run ≠ none → (s.bed b).stop ≤ w → s.sl.station ≠ .barred →
    (s.bed b).skip = false → (t.bed b).state = .idle ∧ (t.bed b).run = none
  evaluated : s.sl.station ≠ .barred → (s.bed b).skip = false →
    ¬ ((s.bed b).state = .waiting ∧ (s.bed b).run ≠ none ∧ (s.bed b).stop ≤ w) →
    Evaluated b (probeNeed (s.setupOf b) (s.bed b) s.evapClass (10 * (s.setupOf b).cap - (s.bed b).delivered) w) s t

/-! ### What a received frame finds -/

/-- A notice of a peer, addressed to this station, ends now and is not the station's own number's (R16). -/
def State.hears (src tgt : Nat) (s : State) : Prop :=
  s.receiving = true ∧ 1 ≤ src ∧ src ≤ 15 ∧ src ≠ s.sl.own ∧ s.addressed tgt = true

/-- An ORDER addressed to this station by its number ends now; a panel may have sent it (R16, R179). -/
def State.hearsOrder (src : Nat) (s : State) : Prop := s.receiving = true ∧ src ≤ 15 ∧ src ≠ s.sl.own ∧ s.sl.own ≠ 0

/-- A valid frame of so many payload bytes from `src` has ended, before its content is looked at: the slot begins,
yielding is clear, a peer's presence row is refreshed or made (R7, R12, R16, R41). -/
def State.frameTaken (src len : Nat) (s : State) : State :=
  let s := s.frameOver len
  let s := { s with li.yielding := false }
  if inRange 1 15 src then s.refresh src else s

/-- The moment at which a frame with so many payload bytes ends (R5). -/
def State.frameEnd (len : Nat) (s : State) : Nat := (s.frameOver len).now

end Sys2Proof.Machine
end

