-- ==== Sys2Proof/WellFormed.lean ====
section
/-! DEFINITION. Which commands the line, the pins and the memory can bring about: every operand in the range the
manual gives it. A command of a received notice is well formed when its fields fit the layout (section 2.1, R20). -/

namespace Sys2Proof

/-- A source a notice of a peer can bear, and a source an ORDER can bear, panels included (section 1.2). -/
def peerSource (src : Nat) : Bool := inRange 1 15 src
def orderSource (src : Nat) : Bool := inRange 0 15 src
def byteValue (n : Nat) : Bool := inRange 0 255 n
def word2Value (n : Nat) : Bool := inRange 0 65535 n

/-- The operands lie in the ranges the manual gives. -/
def Instr.wf : Instr → Bool
  | .setupImageRead image _ _ => decide (image.length ≤ 160)
  | .invalidFrame f => completeFrame f && !checkMatches f
  | .malformedNotice s t k p =>
    (peerSource s || (s == 0 && k == 9)) && inRange 0 15 t && handedKind k && decide (p.length ≤ 24)
      && (readPayload s t k p).isNone
  | .duplicateNumberEvent k n => byteValue k && inRange 0 24 n
  | .unhandedFrameReceived s t k n => byteValue s && byteValue t && byteValue k && inRange 0 24 n
  | .tallyReceived s t y => peerSource s && inRange 0 15 t && y.fits
  | .claimReceived s t b f _ a => peerSource s && inRange 0 15 t && claimFits b f a
  | .commitReceived s t b => peerSource s && inRange 0 15 t && inRange 0 8 b
  | .dropReceived s t b => peerSource s && inRange 0 15 t && inRange 0 7 b
  | .freeReceived s t b => peerSource s && inRange 0 15 t && inRange 0 8 b
  | .shedReceived s t v c _ => peerSource s && inRange 0 15 t && shedFits v c
  | .skyReceived s t k => peerSource s && inRange 0 15 t && k.fits
  | .water s t sel n => orderSource s && inRange 0 15 t && byteValue sel && word2Value n
  | .skip s t sel => orderSource s && inRange 0 15 t && byteValue sel
  | .pause s t sel => orderSource s && inRange 0 15 t && byteValue sel
  | .resume s t sel => orderSource s && inRange 0 15 t && byteValue sel
  | .target s t sel a z => orderSource s && inRange 0 15 t && byteValue sel && byteValue a && byteValue z
  | .clear s t sel c => orderSource s && inRange 0 15 t && byteValue sel && byteValue c
  | .query s t sel f => orderSource s && inRange 0 15 t && byteValue sel && byteValue f
  | .clock s t sel m => orderSource s && inRange 0 15 t && byteValue sel && word2Value m
  | .peerExpiry n => peerSource n
  | .pendingLapse n b => peerSource n && inRange 0 8 b
  | .courtesyDelayEnd u => decide (u ≠ .severe)
  | .probeMeasurementEnd gaps => decide (gaps.length ≤ 17) && (gaps.drop 1).all fun g => decide (0 < g)
  | .coldStart | .warmStart | .rstnReturnsHigh | .reserveWaitTimeout | .coilCheck _ | .listeningTimerExpiry
  | .frameAbandoned _ | .discardQuietEnd | .slotEnd | .answerByteStart | .answerCollision | .attemptBegin
  | .yieldingClear | .collision | .transmissionCompletes _ | .lineLossClosure | .tallyFallsDue
  | .resolutionTimerExpiry | .victimTimerExpiry | .backoffEnd _ | .waitAgeTick _ | .dayClockTick | .hourBoundary
  | .dayRollover | .runDayLimit _ | .soakEnd _ | .pulseEnd | .recoveryEnd | .pullInEnd _ | .coilSupplyMeasurement _
  | .supplyGood | .supplyLoss | .supplyReturn | .reserveReady | .flowEdge | .edgeCounterOverflow | .rateWindowEnd
  | .confirmTimerExpiry _ | .confirmLimit _ | .scanStart | .probeSettleEnd | .rainTip | .skyTimerExpiry
  | .weatherRecordStale | .attnToggle | .frameBegins | .dominantLevel | .flowFilteredLevelChange | .rainFilteredLevelChange | .pwmPeriodBoundary => true

end Sys2Proof
end

