-- ==== Sys2Proof/Certificates/Slice0/Obligations.lean ====
section
/-! DEFINITION. The statements to be proved: what each command does, what it leaves alone, and what every step keeps.
`Settled s` (log 8) says that no event is half done; it holds after reset and after every step, by two statements here.
The model's own choices in all of them: the unit of `now` (log 1), and that the command of a timer takes effect at the
moment its time is up, or now where that moment has passed (log 2). In those that conclude `Resolved`, the phase of the run clock
that gives a new run its start minute is another (log 43). Others are named at the statement. -/

open Sys2Proof Sys2Proof.Machine

/-! ### The queue and time -/

/-- The model's own step (log 1): the command at the front runs on the state with the queue's rest. -/
def Obligations.StepRunsTheFrontCommand : Prop :=
  ∀ (c : Instr) (rest : List Instr) (s : State), step { s with pending := c :: rest } = exec c { s with pending := rest }

/-- Every command answers a next state, takes nothing from the waiting commands and does not turn time back (log 2,
3). The model's own choice (log 1): on an empty queue one millisecond, twelve units, passes and nothing else happens. -/
def Obligations.CommandsLeaveTheQueueAndTimeMovesOn : Prop :=
  (∀ (c : Instr) (s : State), ∃ t, exec c s = .next t ∧ t.pending = s.pending ∧ s.now ≤ t.now)
  ∧
  (∀ s : State, s.pending = [] → step s = .next { s with now := s.now + 12 })

/-! ### Starts -/

/-- The values the manual gives for a cold start (R19, R35, R60, R83, R110, R128, R143, R158, R172, R182, R188).
COLD_START puts every block at its reset value; time, the free values used and the waiting commands go on (log 1), and a
RSTN held low holds the start values on (R188). What reset holds until LOADING ends beyond the manual's values, beds OFF and
levels low among it, is the model's choice (log 4), and so is NORMAL for an urgency without a need (log 14). -/
def Obligations.ColdStartReachesTheStartValues : Prop :=
  (let s := State.reset
   s.sl.station = .loading ∧ s.sl.clashNoted = false
     ∧ s.li.rx = .discard ∧ s.li.yielding = false ∧ s.li.attempt = none ∧ s.li.answer = .none
     ∧ s.tq.queue = [] ∧ s.tq.headRun = 0 ∧ s.tq.tallySince = none
     ∧ s.sb.book = [] ∧ s.sb.presence = [] ∧ s.sb.saturated = false ∧ s.sb.claim.phase = .none ∧ s.sb.lastFree = none
     ∧ s.bc.holds = .empty ∧ s.bc.rainApplied = none
     ∧ (∀ b, (s.bed b).need = 0 ∧ (s.bed b).ordered = false ∧ (s.bed b).skip = false ∧ (s.bed b).debt = 0
         ∧ (s.bed b).delivered = 0 ∧ (s.bed b).backoffEnd = none ∧ (s.bed b).waitAge = 0 ∧ (s.bed b).targets = none
         ∧ (s.bed b).wetness = none ∧ (s.bed b).run = none ∧ (s.bed b).probeFailed = false ∧ s.valve b = .unknown
         ∧ s.fm.confirms.get b = none ∧ (s.pw.probes.get b).ring = [] ∧ (s.pw.probes.get b).failed = false)
     ∧ s.vd.queue = [] ∧ s.vd.generator = .idle ∧ s.vd.channelA = none ∧ s.vd.channelB = none ∧ s.vd.supply = .absent
     ∧ s.vd.ready = false ∧ s.vd.chargeSince = none
     ∧ s.fm.pulses = 0 ∧ s.fm.carry = 0 ∧ s.fm.lastInterval = none ∧ s.fm.leakRun = 0 ∧ s.fm.noflowRun = 0
     ∧ s.fm.stuckRun = 0 ∧ s.fm.drawing = false ∧ s.fm.quiet = 0
     ∧ s.pw.temperature = none ∧ s.pw.weather = none ∧ s.pw.clockSet = false ∧ s.pw.current = 0
     ∧ s.pw.complete = List.replicate 23 0 ∧ s.pw.lastHourIndex = 23
     ∧ (∀ c, (s.latch c).pending = false ∧ (s.latch c).armed = true) ∧ s.au.record = none ∧ s.au.more = false
     ∧ s.au.rxErrors = 0 ∧ s.au.collisions = 0 ∧ s.au.refused = none ∧ s.pending = [])
  ∧
  (∀ s : State, exec .coldStart s = .next { State.reset with
     now := s.now, free := s.free, pending := s.pending, sl := { State.reset.sl with rstnLow := s.sl.rstnLow } })

/-- WARM_START keeps what R188's first column lists, and clears the second column. The model's own choices: until LOADING
ends every bed is OFF and the flow monitor's levels are low (log 4), and a bed without a need is held as NORMAL (log 14). -/
def Obligations.WarmStartKeepsTheRecordsAndClearsTheRest : Prop :=
  ∀ s : State, ∃ t, exec .warmStart s = .next t
    ∧ t.au.record = s.au.record ∧ t.au.more = s.au.more ∧ t.au.latches = s.au.latches
    ∧ (∀ b, (t.bed b).delivered = (s.bed b).delivered ∧ (t.bed b).debt = (s.bed b).debt ∧ (t.bed b).skip = (s.bed b).skip)
    ∧ t.bc.rainApplied = s.bc.rainApplied
    ∧ t.pw.minute = s.pw.minute ∧ t.pw.clockSet = s.pw.clockSet ∧ t.pw.secondSince = s.pw.secondSince
    ∧ t.pw.current = s.pw.current ∧ t.pw.complete = s.pw.complete ∧ t.pw.lastHourIndex = s.pw.lastHourIndex
    ∧ t.pw.weather = s.pw.weather
    ∧ t.sl.station = .loading ∧ t.sl.rstnLow = true ∧ t.sl.clashNoted = false
    ∧ t.li.attempt = none ∧ t.li.answer = .none ∧ t.tq.queue = [] ∧ t.tq.tallySince = none
    ∧ t.sb.book = [] ∧ t.sb.presence = [] ∧ t.sb.claim.phase = .none ∧ t.bc.holds = .empty
    ∧ (∀ b, (t.bed b).need = 0 ∧ (t.bed b).run = none ∧ (t.bed b).targets = none ∧ t.valve b = .unknown
        ∧ (t.bed b).state = .off ∧ (t.bed b).ordered = false ∧ (t.bed b).urgency = .normal ∧ (t.bed b).wetness = none
        ∧ (t.bed b).backoffEnd = none ∧ (t.bed b).waitAge = 0 ∧ (t.bed b).soakSince = none ∧ (t.bed b).fault = none
        ∧ (t.bed b).probeFailed = false
        ∧ (t.pw.probes.get b).ring = [] ∧ (t.pw.probes.get b).failed = false)
    ∧ t.waitQueue = [] ∧ t.vd.supply = .absent ∧ t.vd.chargeSince = none ∧ t.sb.saturated = false ∧ t.sb.lastFree = none
    ∧ t.li.rx = .discard ∧ t.li.yielding = false ∧ t.tq.headRun = 0 ∧ t.vd.queue = [] ∧ t.vd.generator = .idle
    ∧ t.vd.channelA = none ∧ t.vd.channelB = none ∧ t.vd.ready = false
    ∧ t.fm = FlowMonitor.reset ∧ t.pw.temperature = none
    ∧ t.au.rxErrors = 0 ∧ t.au.collisions = 0 ∧ t.au.refused = none

/-- A valid image ends LOADING in CHECKING: the setup is taken up, a bed is OFF exactly where its block is not valid,
and every other bed's coil check mark is set (R88, R141, R183, R184). An invalid image ends LOADING in UNCONFIGURED:
no setup, every bed OFF, SETUP pending with its fault (the failing offset as value one), and a TALLY queued (R30,
R183, R185). The failing offset is the model's reading (log 20), sixteen bits of a value the model's choice (log 29). -/
def Obligations.ImageEndsLoading : Prop :=
  (∀ (image : List Byte) (f r : Bool) (s : State), Settled s → s.sl.station = .loading → s.sl.rstnLow = false →
     imageError image = none → ∃ t, exec (.setupImageRead image f r) s = .next t
       ∧ t.sl.station = .checking ∧ t.sl.setup = readSetup image ∧ t.sl.own = readStation image ∧ t.sl.loadingEnd = s.now
       ∧ t.now = s.now ∧ t.li.rx = .discard ∧ t.vd.check = .reserveWait s.now
       ∧ t.sb.budget = effectiveBudget (readSetup image).budget s.sb.presence
       ∧ ∀ b, ((t.bed b).state = .off ↔ ((readSetup image).beds.get b).valid = false) ∧ (t.bed b).run = none
           ∧ t.vd.marks.get b = ((readSetup image).beds.get b).valid)
  ∧
  (∀ (image : List Byte) (f r : Bool) (o : Nat) (s : State), Settled s → s.sl.station = .loading → s.sl.rstnLow = false →
     s.tq.queue = [] → imageError image = some o → ∃ t, exec (.setupImageRead image f r) s = .next t
       ∧ t.sl.station = .unconfigured ∧ t.sl.setup = Setup.blank ∧ t.sl.own = readStation image
       ∧ (∀ b, (t.bed b).state = .off) ∧ (t.latch .setup).pending = true
       ∧ (s.au.record = none → t.au.record = some ⟨.setup, 15, 0, 0, word16 o, 0, s.clockMinute⟩)
       ∧ ∃ q ∈ t.tq.queue, q.notice = .tally)

/-- LISTENING ends in ACTIVE, no sooner than 30 s after its entry (R184). -/
def Obligations.ListeningEndsInActive : Prop :=
  ∀ s : State, s.sl.station = .listening → ∃ t, exec .listeningTimerExpiry s = .next t
    ∧ FurtherWork { s with now := max s.now (s.sl.listenSince + 30 * 12000), sl.station := .active } t

/-- COIL_CHECK of a bed that is not the last: 4 to 200 ohms clear its mark, any other value sends it to OFF with COIL
pending and its fault, and nothing of it is driven any more (R141, R173, R177; log 46). The last COIL_CHECK judges its bed
alike; the start-up closure follows: with a GOOD supply and a bed to close, every such bed's close waits or is under way;
else LISTENING begins, with its timer, the tally timer and a TALLY (R30, R142, R184). Sixteen bits of the ohms are the model's
choice (log 29). -/
def Obligations.CoilCheckJudgesTheResistance : Prop :=
  (∀ (ohms since : Nat) (b c : BedId) (rest : List BedId) (s : State), Settled s → s.sl.station = .checking →
     s.vd.check = .coils (b :: c :: rest) since →
     (4 ≤ ohms → ohms ≤ 200 → ∃ t, exec (.coilCheck ohms) s = .next t
       ∧ AfterAlerts { s with
           now := max s.now (since + 60)
           vd.marks := s.vd.marks.set b false
           vd.check := .coils (c :: rest) (max s.now (since + 60)) } t)
     ∧ (ohms < 4 ∨ 200 < ohms → ∃ t, exec (.coilCheck ohms) s = .next t
       ∧ (t.bed b).state = .off ∧ (∀ d, d ≠ b → t.bed d = s.bed d)
       ∧ (t.latch .coil).pending = true ∧ (t.latch .coil).bed = b.val ∧ (t.latch .coil).value = word16 ohms
       ∧ (s.au.record = none → t.au.record
           = some ⟨.coil, b.val, 0, 0, word16 ohms, if 200 < ohms then 200 else 4, s.clockMinute⟩)
       ∧ t.queued b = false ∧ t.pulsing b = false ∧ (∀ d ∈ t.vd.closures, d ≠ b)
       ∧ (s.pulsing b = false → t.vd.valves = s.vd.valves)
       ∧ t.vd.check = .coils (c :: rest) t.now ∧ t.vd.marks = s.vd.marks ∧ t.sb = s.sb ∧ t.pw = s.pw ∧ t.sl = s.sl))
  ∧
  (∀ (ohms since : Nat) (b : BedId) (s : State), s.sl.station = .checking → s.vd.check = .coils [b] since →
     ∃ t, exec (.coilCheck ohms) s = .next t ∧ (t.vd.check = .closure ∨ t.vd.check = .done)
       ∧ (Settled s → s.sl.clashNoted = false →
           t.now = max s.now (since + 60)
           ∧ (4 ≤ ohms → ohms ≤ 200 → t.vd.marks = s.vd.marks.set b false ∧ ∀ d, t.bed d = s.bed d)
           ∧ (ohms < 4 ∨ 200 < ohms → (t.bed b).state = .off ∧ (∀ d, d ≠ b → t.bed d = s.bed d) ∧ t.vd.marks = s.vd.marks
               ∧ (t.latch .coil).pending = true ∧ (t.latch .coil).bed = b.val ∧ (t.latch .coil).value = word16 ohms
               ∧ (s.au.record = none → t.au.record
                   = some ⟨.coil, b.val, 0, 0, word16 ohms, if 200 < ohms then 200 else 4, s.clockMinute⟩))
           ∧ (∀ d, t.latching d = true → s.vd.supply = .good →
               t.sl.station = .checking ∧ t.vd.check = .closure ∧ ∀ e, t.latching e = true → t.queued e = true ∨ t.pulsing e = true)
           ∧ (s.vd.supply ≠ .good ∨ (∀ d, t.latching d = false) →
               t.sl.station = .listening ∧ t.vd.check = .done ∧ t.sl.listenSince = t.now ∧ t.tq.tallySince = some t.now
                 ∧ (s.tq.queue.length < 6 → ∃ q ∈ t.tq.queue, q.notice = .tally)
                 ∧ ∀ e, t.latching e = true → t.queued e = true)))

/-! ### The coil supply and the reserve -/

/-- SUPPLY_GOOD, SUPPLY_LOSS, SUPPLY_RETURN and RESERVE_READY (R136 to R140): the supply state, the ready flag, the
charge count and the SUPPLY hold. SUPPLY_LOSS cuts every cycle with cause SUPPLY, its need kept (R120, R121), cuts a pulse short
(UNKNOWN), empties the queue, frees both channels and makes the closure list of up to four latching valves, pulsed from the
reserve where it was ready (R138, R139); a start-up closure that it leaves without a pulse is done (R142, log 18). That a listed
OPEN valve goes to CLOSING without the ready flag too is the model's reading (log 19). SUPPLY_RETURN queues a close for every
latching valve that is OPEN, CLOSING or UNKNOWN and has none, in bed order, behind what waits (R140). RESERVE_READY in the reserve
wait leads to the coil check, and so does RESERVE_WAIT_TIMEOUT: 20 s of CHECKING with the flag clear make the supply LOST, join
SUPPLY and set its cause (R136, R138, R142). The model's choices: the charge count ends as it sets the flag (log 54), and the
cause's value has sixteen bits (log 29). -/
def Obligations.SupplyStatesFollowTheManual : Prop :=
  (∀ s : State, s.live = true →
     let started := fun c : Channel => if c.phase = .waiting then { c with phase := .pullIn s.now false } else c
     (s.vd.supply = .absent → ∃ t, exec .supplyGood s = .next t
       ∧ FurtherWork { s with vd.supply := .good, vd.chargeSince := some s.now } t
       ∧ (Settled s → t.vd.channelA = s.vd.channelA.map started ∧ t.vd.channelB = s.vd.channelB.map started))
     ∧ (s.vd.supply = .good → ∃ t, exec .supplyLoss s = .next t
       ∧ (s.vd.check ≠ .closure → FurtherWork { s with
           vd.supply := .lost, vd.ready := false, vd.chargeSince := none, bc.holds := s.bc.holds.put .supply true } t)
       ∧ t.now = s.now ∧ t.vd.supply = .lost ∧ t.vd.ready = false ∧ t.vd.chargeSince = none ∧ t.bc.holds.supply = true
       ∧ (t.latch .supply).pending = true ∧ (t.latch .supply).value = word16 s.vd.coilVolts
       ∧ (s.bc.holds.supply = false → ∀ b, (t.bed b).state ≠ .confirming ∧ (t.bed b).state ≠ .running)
       ∧ (s.bc.holds.supply = false → ClaimSound s →
           let after := fun b : BedId =>
             if ⟨b, .opens⟩ ∈ s.vd.queue ∨ (s.channelOf b).isSome = true then .closed
             else if s.pulsing b = true then .unknown else s.valve b
           let list := (allBeds.filter fun b =>
             s.latching b && (after b == .opened || after b == .closing || after b == .unknown)).take 4
           (∀ b r, (s.bed b).state.cycling = true → (s.bed b).run = some r → ⟨b, .opens⟩ ∉ s.vd.queue → s.channelOf b = none →
               (t.bed b).state = .closing ∧ (t.bed b).run = some { r with endCause := some .supply })
             ∧ t.vd.queue = [] ∧ t.vd.channelA = none ∧ t.vd.channelB = none
             ∧ (∀ b, t.valve b = if b ∈ list ∧ after b = .opened then .closing else after b)
             ∧ (∀ r x y, s.vd.generator = .pulse r x y → t.vd.generator = .recovery s.now)
             ∧ (∀ x, s.vd.generator = .recovery x → t.vd.generator = .recovery x)
             ∧ (s.vd.ready = false → t.vd.closures = [] ∧ (s.vd.generator = .idle → t.vd.generator = .idle))
             ∧ (s.vd.ready = true → s.vd.generator ≠ .idle → t.vd.closures = list)
             ∧ (s.vd.ready = true → s.vd.generator = .idle →
                 (list = [] → t.vd.closures = [] ∧ t.vd.generator = .idle)
                 ∧ ∀ b l, list = b :: l → t.vd.closures = l ∧ t.vd.generator = .pulse ⟨b, .closes⟩ true s.now)
             ∧ (s.sl.station = .checking → s.vd.check = .closure → s.sl.clashNoted = false →
                 (t.sl.station = .listening ↔ ∀ b, t.latching b = true → t.valve b ≠ .unknown ∧ t.pulsing b = false))))
     ∧ (s.vd.supply = .lost → ∃ t, exec .supplyReturn s = .next t
       ∧ FurtherWork { s with
           vd.supply := .good, vd.chargeSince := some s.now, bc.holds := s.bc.holds.put .supply false } t
       ∧ (Settled s →
           let left := allBeds.filter fun b => s.leftOpen b && !s.queued b && !s.pulsing b
           let queue := s.vd.queue ++ left.map fun b => ⟨b, .closes⟩
           t.vd.channelA = s.vd.channelA.map started ∧ t.vd.channelB = s.vd.channelB.map started
             ∧ (s.vd.generator ≠ .idle ∨ s.vd.closures = [] →
                 ∀ b, t.valve b = if b ∈ left ∧ s.valve b = .opened then .closing else s.valve b)
             ∧ (s.vd.generator ≠ .idle →
                 t.vd.generator = s.vd.generator ∧ t.vd.closures = s.vd.closures ∧ t.vd.queue = queue)
             ∧ (s.vd.generator = .idle → s.vd.closures = [] → (queue = [] → t.vd.generator = .idle ∧ t.vd.queue = [])
                 ∧ ∀ r l, queue = r :: l → t.vd.generator = .pulse r false s.now ∧ t.vd.queue = l)))
     ∧ (∀ c, s.vd.supply = .good → s.vd.chargeSince = some c → ∃ t, exec .reserveReady s = .next t
       ∧ t.now = max s.now (c + 10 * 12000) ∧ t.vd.ready = true ∧ t.vd.chargeSince = none ∧ t.vd.supply = .good
       ∧ (∀ x, s.sl.station = .checking → s.vd.check = .reserveWait x →
           let marked := allBeds.filter fun b => s.vd.marks.get b
           (marked ≠ [] → t.vd.check = .coils marked t.now)
             ∧ (marked = [] → t.vd.check = .closure ∨ t.vd.check = .done))
       ∧ (s.vd.check = .done → t.vd.check = .done)))
  ∧
  (∀ (since : Nat) (s : State), s.sl.station = .checking → s.vd.check = .reserveWait since → s.vd.ready = false →
     ∃ t, exec .reserveWaitTimeout s = .next t
       ∧ t.now = max s.now (since + 20 * 12000) ∧ t.vd.supply = .lost ∧ t.vd.ready = false ∧ t.vd.chargeSince = none
       ∧ t.bc.holds.supply = true ∧ (t.latch .supply).pending = true ∧ (∀ x, t.vd.check ≠ .reserveWait x)
       ∧ let marked := allBeds.filter fun b => s.vd.marks.get b
         (marked ≠ [] → t.vd.check = .coils marked t.now) ∧ (marked = [] → t.vd.check = .done))

/-! ### The receiver, the answer byte and own attempts -/

/-- FRAME_BEGINS, FRAME_ABANDONED, DISCARD_QUIET_END, SLOT_END and DOMINANT_LEVEL: the receiver's states, and nothing
else but the receive error (R5, R6, R7, R10). YIELDING_CLEAR at an idle count of 64 bit times, ANSWER_BYTE_START 2 bit
times into the slot, ANSWER_COLLISION with its count: nothing else changes (R8, R12, R13). From its frame's end on the own SHED's
sender stands in SLOT: no collision is left, the idle count is 0, and SLOT_END ends that slot (R5, R7, R10, R13; log 6).
The model's choices: DISCARD's 12 bit times start at the abandonment, after a recessive gap too (log 37), and the idle count
runs on from DOMINANT_LEVEL itself (log 51). -/
def Obligations.ReceiverMarksAndAnswersChange : Prop :=
  (∀ (why : AbandonReason) (s : State), s.live = true →
     (s.li.rx = .hunt → s.li.attempt = none →
       exec .frameBegins s = .next { s with li.rx := .frame, li.frameSince := s.now })
     ∧ (s.li.rx = .frame → s.li.attempt = none → exec (.frameAbandoned why) s
       = .next { s with li.rx := .discard, li.idleSince := s.now, au.rxErrors := min (s.au.rxErrors + 1) 255 })
     ∧ (s.li.rx = .discard → exec .discardQuietEnd s
       = .next { s with now := max s.now (s.li.idleSince + 12 * 5), li.rx := .hunt })
     ∧ (s.li.rx = .slot → exec .slotEnd s
       = .next { s with
           now := max s.now (s.li.slotSince + 12 * 5), li.rx := .hunt, li.idleSince := max s.now (s.li.slotSince + 12 * 5),
           li.answer := .none })
     ∧ (s.li.rx = .discard ∨ s.li.rx = .hunt → exec .dominantLevel s = .next { s with li.idleSince := s.now }))
  ∧
  (∀ (r : Reply) (s : State), s.live = true →
     (s.li.yielding = true → s.li.rx = .discard ∨ s.li.rx = .hunt → exec .yieldingClear s
       = .next { s with now := max s.now (s.li.idleSince + 64 * 5), li.yielding := false })
     ∧ (s.li.answer = .waiting r → s.li.rx = .slot → exec .answerByteStart s
       = .next { s with now := max s.now (s.li.slotSince + 2 * 5), li.answer := .sending r })
     ∧ (s.li.answer = .sending r → exec .answerCollision s
       = .next { s with li.answer := .none, au.collisions := min (s.au.collisions + 1) 255 }))
  ∧
  (∀ (a : Attempt) (h : Queued) (q : List Queued) (s : State), s.live = true → s.li.attempt = some a →
     s.tq.queue = h :: q → h.notice.isShed = true → s.li.rx = .frame →
     let slot := a.start + 50 * a.bytes.length
     let ends := max s.now (slot + 12 * 5)
     (s.receiver = if slot ≤ s.now then .slot else .frame) ∧ s.idleCount = 0
       ∧ (slot ≤ s.now → exec .collision s = .next s)
       ∧ exec .slotEnd s = .next { s with
           now := ends, li.rx := .hunt, li.slotSince := slot, li.idleSince := ends, li.answer := .none })

/-- ATTEMPT_BEGIN: in HUNT, with a notice waiting, no attempt and no yielding mark, the head's frame begins once the
access gap of 16 + 3 s bit times has run out (R3, R10, R11). What each frame carries: its kind and payload, and in a TALLY
the marks, the budget and the own entries of that moment, a flow above 60.0 L/min as 120 (R3, R21 to R26). -/
def Obligations.AttemptBeginsAfterTheGap : Prop :=
  (∀ (h : Queued) (q : List Queued) (s : State), s.live = true → s.li.rx = .hunt → s.li.attempt = none →
     s.li.yielding = false → s.tq.queue = h :: q →
     let begins := max s.now (s.li.idleSince + (16 + 3 * s.sl.own) * 5)
     exec .attemptBegin s = .next { s with
       now := begins
       li.attempt := some ⟨begins, State.frame h.notice { s with now := begins }⟩
       li.rx := .frame, li.frameSince := begins, li.answer := .none })
  ∧
  (∀ s : State,
     State.frame .tally s = frameBytes s.sl.own 0 1 s.tally.layout
     ∧ (∀ b f u a, State.frame (.claim b f u a) s = frameBytes s.sl.own 0 2 [byte b.val, byte f, byte u.code, byte a])
     ∧ (∀ b, State.frame (.commit b) s = frameBytes s.sl.own 0 3 [byte b.val])
     ∧ (∀ b, State.frame (.drop b) s = frameBytes s.sl.own 0 4 [byte b.val])
     ∧ (∀ n, State.frame (.free n) s = frameBytes s.sl.own 0 5 [byte n])
     ∧ (∀ st v b, State.frame (.shed st v b) s = frameBytes s.sl.own st 6 [byte v, byte b.val, byte 2])
     ∧ (∀ k, State.frame (.sky k) s = frameBytes s.sl.own 0 7 k.layout)
     ∧ (∀ c n v, State.frame (.alert c n v) s = frameBytes s.sl.own 0 8 ([byte c.number, byte n] ++ bytes2 v))
     ∧ (∀ r, State.frame (.stationReply r) s = frameBytes s.sl.own 0 10 r.layout)
     ∧ (∀ r, State.frame (.bedReply r) s = frameBytes s.sl.own 0 10 r.layout))
  ∧
  (∀ s : State,
     s.tally.weatherSource = s.sl.setup.weatherSource ∧ s.tally.saturated = s.sb.saturated
     ∧ (s.tally.unconfigured = true ↔ s.sl.station = .unconfigured) ∧ (s.tally.barred = true ↔ s.sl.station = .barred)
     ∧ (s.tally.holds = true ↔ ∃ r, s.bc.holds.has r = true) ∧ s.tally.budget = s.sl.setup.budget
     ∧ s.tally.entries = (s.sb.book.filter fun e => e.station == s.sl.own).map
         fun e => ⟨e.bed, min e.flow 120, e.urgency, e.committed⟩)

/-- COLLISION of an attempt whose head is not cancelled: one collision, the run rises by one, the notice stays; at a run
of 8 LINE is pending, and its fault carries the head's kind, the run and the seconds since the last completion (R13, R14,
R27, R177). A cancelled head leaves: a CLAIM's claim ends, a SHED's held drop or resolution is applied, a SKY or
an ALERT of BARRED is gone (R28, R33, R76, R81). Sixteen bits of the fault's seconds are the model's choice (log 29). -/
def Obligations.CollisionKeepsTheNotice : Prop :=
  ∀ (h : Queued) (q : List Queued) (a : Attempt) (s : State), Settled s → s.live = true → s.li.attempt = some a →
    s.receiver = .frame → s.tq.queue = h :: q →
    (h.cancelled = false → ∃ t, exec .collision s = .next t
      ∧ (s.tq.headRun ≠ 7 → AfterAlerts { s with
          li.attempt := none, li.idleSince := s.now, au.collisions := min (s.au.collisions + 1) 255,
          tq.headRun := s.tq.headRun + 1 } t)
      ∧ (s.tq.headRun = 7 → t.tq.headRun = 8 ∧ (t.latch .line).pending = true ∧ (t.latch .line).value = 8
          ∧ (t.latch .line).bed = 15 ∧ (∃ l, t.tq.queue = h :: (q ++ l)) ∧ t.li.attempt = none
          ∧ (s.au.record = none → t.au.record = some
              ⟨.line, 15, 0, h.notice.code, 8, word16 ((s.now - s.li.lossSince) / 12000), s.clockMinute⟩)
          ∧ (s.au.record ≠ none → t.au.record = s.au.record ∧ t.au.more = true)))
    ∧ (h.cancelled = true → ∃ t, exec .collision s = .next t
      ∧ t.li.attempt = none ∧ t.li.idleSince = s.now ∧ t.li.rx = s.li.rx ∧ t.tq.headRun = 0
      ∧ t.au.collisions = min (s.au.collisions + 1) 255
      ∧ (s.sb.claim.outcome ≠ some .reResolve ∨ h.notice.isShed = false → ∃ l, t.tq.queue = q ++ l)
      ∧ (h.notice.isClaim = true → t.sb.claim.phase = .none ∨ t.sb.claim.phase = .sending)
      ∧ (h.notice.isShed = true → s.sb.claim.outcome = some .drop → ClaimSound s →
          t.sb.claim.phase = .ending ∧ ∃ x ∈ t.tq.queue, x.notice = .drop s.sb.claim.bed)
      ∧ (h.notice.isShed = true → s.sb.claim.outcome = some .reResolve → ClaimSound s →
          Resolved { s with tq.queue := q } t)
      ∧ (h.notice.isClaim = false → h.notice.isShed = false → s.tq.headRun ≠ 7 → AfterAlerts { s with
          li.attempt := none, li.idleSince := s.now, au.collisions := min (s.au.collisions + 1) 255,
          tq.queue := q, tq.headRun := 0 } t))

/-- TRANSMISSION_COMPLETES for a kind other than SHED: yielding is set, the collision run, the line-loss timer and the
LINE hold end, and the receiver takes the slot (R12, R14, R15, R18). TALLY, FREE, SKY, ALERT and REPLY leave the queue
with no other effect than the offer that the hold's leave can bring. A SHED that got no answer, and has had fewer than
four attempts, stays at the head with its count risen by one; the attempt completed at the end of the slot (R9, R15,
R32). A SHED leaves with ACK (the victim timer starts), with REFUSE (the claim drops), at its fourth attempt without an
answer (NOANSWER with its fault, and the claim drops), or cancelled; a drop held meanwhile is then applied instead, or a
resolution, on the book of that moment (R31 to R33, R69 to R71, R75, R76). That moment and the order of these effects are the
model's reading (log 6, 7), and so is that a cancelled SHED's fourth attempt without an answer sets NOANSWER too (log 10); sixteen
bits of its value are its choice (log 29). -/
def Obligations.CompletedTransmissionsEndTheAttempt : Prop :=
  (∀ (slot : Option SlotByte) (a : Attempt) (h : Queued) (q : List Queued) (s : State), Settled s → s.live = true →
     s.li.attempt = some a → s.tq.queue = h :: q → h.notice.isShed = false →
     ∃ t, exec (.transmissionCompletes slot) s = .next t
       ∧ t.now = max s.now (a.start + 50 * a.bytes.length) ∧ t.li.attempt = none ∧ t.li.yielding = true
       ∧ t.li.lossSince = t.now ∧ t.li.rx = .slot ∧ t.li.slotSince = t.now ∧ t.pw = s.pw ∧ t.sl = s.sl ∧ t.peers = s.peers
       ∧ (h.notice.essential = false ∨ h.notice.code = 5 →
           t.tq.headRun = 0 ∧ t.bc.holds.line = false ∧ (∃ l, t.tq.queue = q ++ l) ∧ t.sb.book = s.sb.book)
       ∧ (h.notice.code = 3 ∨ h.notice.code = 4 → s.sb.claim.phase = .ending →
           t.sb.claim.phase = .none ∨ t.sb.claim.phase = .sending))
  ∧
  (∀ (slot : Option SlotByte) (a : Attempt) (h : Queued) (q : List Queued) (s : State), Settled s → s.live = true →
     s.li.attempt = some a → s.tq.queue = h :: q → h.notice.isShed = true → answerOf slot = none → h.unanswered < 3 →
     h.cancelled = false → ∃ t, exec (.transmissionCompletes slot) s = .next t
       ∧ t.now = max s.now (a.start + 50 * a.bytes.length + 60) ∧ t.li.yielding = true ∧ t.li.attempt = none
       ∧ (∃ l, t.tq.queue = { h with unanswered := h.unanswered + 1 } :: (q ++ l)) ∧ t.sb.book = s.sb.book)
  ∧
  (∀ (slot : Option SlotByte) (a : Attempt) (st v : Nat) (b : BedId) (n : Nat) (cancelled : Bool) (q : List Queued) (s : State),
     Settled s → ClaimSound s → s.live = true → s.li.attempt = some a → s.tq.queue = ⟨.shed st v b, n, cancelled⟩ :: q →
     answerOf slot ≠ none ∨ 3 ≤ n ∨ cancelled = true →
     ∃ t, exec (.transmissionCompletes slot) s = .next t
       ∧ t.now = max s.now (a.start + 50 * a.bytes.length + 60) ∧ t.li.yielding = true ∧ t.li.attempt = none
       ∧ t.li.lossSince = t.now ∧ t.tq.headRun = 0
       ∧ (answerOf slot = some .ack → s.sb.claim.outcome = none →
           (∃ l, t.tq.queue = q ++ l) ∧ t.sb.claim.phase = .awaiting ∧ t.sb.claim.victimSince = some t.now
             ∧ t.sb.book = s.sb.book ∧ ∀ d, t.bed d = s.bed d)
       ∧ (answerOf slot = some .refuse ∨ (answerOf slot = none ∧ 3 ≤ n) → s.sb.claim.outcome = none →
           t.sb.claim.phase = .ending ∧ t.hasEntry s.sl.own s.sb.claim.bed.val = false
             ∧ (∃ l, t.tq.queue = q ++ ⟨.drop s.sb.claim.bed, 0, false⟩ :: l)
             ∧ ((s.bed s.sb.claim.bed).state = .claiming → (s.bed s.sb.claim.bed).targets = none →
                 (t.bed s.sb.claim.bed).state = .waiting ∧ (t.bed s.sb.claim.bed).backoffEnd = some (t.now
                   + match s.sb.claim.urgency with | .normal => 360000 | .dry => 240000 | .severe => 120000)))
       ∧ (answerOf slot = none → 3 ≤ n →
           (t.latch .noanswer).pending = true ∧ (t.latch .noanswer).bed = v ∧ (t.latch .noanswer).value = word16 st
             ∧ (s.au.record = none → t.au.record = some ⟨.noanswer, v, st, 6, 4, b.val, s.clockMinute⟩))
       ∧ (s.sb.claim.outcome = some .drop →
           t.sb.claim.phase = .ending ∧ (∃ l, t.tq.queue = q ++ ⟨.drop s.sb.claim.bed, 0, false⟩ :: l)
             ∧ (t.bed s.sb.claim.bed).state = (s.bed s.sb.claim.bed).state)
       ∧ (s.sb.claim.outcome = some .reResolve →
           Resolved { s with now := t.now, li.lossSince := t.now, tq.queue := q, bc.holds := s.bc.holds.put .line false } t))

/-- The own CLAIM on the line, not withdrawn and with room in the book: the own PENDING entry is placed, its senior set is
every peer's PENDING entry, and the resolution timer starts (R67). TRANSMISSION_COMPLETES of a CLAIM is that, after the
line's own effects: with a senior the claim waits in RESOLVING, without one it is resolved at once, on the book that its entry
has joined where the overdraw check cuts nothing first (R67, R69, R70, log 6, 7); a full book drops it, with SATURATED pending
(R38, R67); a withdrawn claim is dropped (R33, R81). -/
def Obligations.OwnClaimOnTheLineTakesItsSeniors : Prop :=
  (∀ s : State, s.sb.claim.withdrawn = false → s.hasEntry s.sl.own s.sb.claim.bed.val = false → s.sb.book.length < 32 →
    s.claimOnLine.entry s.sl.own s.sb.claim.bed.val
        = some ⟨s.sl.own, s.sb.claim.bed.val, s.sb.claim.flow, s.sb.claim.urgency, false, s.sb.claim.age, s.now⟩
      ∧ s.claimOnLine.sb.claim.phase = .resolving ∧ s.claimOnLine.sb.claim.resolveSince = some s.now
      ∧ (∀ st bd, (st, bd) ∈ s.claimOnLine.sb.claim.seniors
          ↔ ∃ e ∈ s.sb.book, e.station = st ∧ e.bed = bd ∧ st ≠ s.sl.own ∧ e.committed = false)
      ∧ s.claimOnLine.bc = s.bc ∧ s.claimOnLine.tq = s.tq ∧ s.claimOnLine.au = s.au)
  ∧
  (∀ (slot : Option SlotByte) (a : Attempt) (b : BedId) (f : Nat) (u : Urgency) (g n : Nat) (cancelled : Bool)
     (q : List Queued) (s : State), Settled s → ClaimSound s → s.live = true → s.li.attempt = some a →
     s.tq.queue = ⟨.claim b f u g, n, cancelled⟩ :: q →
     let ends := max s.now (a.start + 50 * a.bytes.length)
     let done := { s with
       now := ends, tq.queue := q, tq.headRun := 0, bc.holds := s.bc.holds.put .line false
       li := { s.li with rx := .slot, slotSince := ends, attempt := none, yielding := true, lossSince := ends } }
     ∃ t, exec (.transmissionCompletes slot) s = .next t ∧ FurtherWork done.claimOnLine t
       ∧ (s.sb.claim.withdrawn = true → t.sb.claim.phase = .ending
           ∧ (∃ l, t.tq.queue = q ++ ⟨.drop s.sb.claim.bed, 0, false⟩ :: l)
           ∧ t.hasEntry s.sl.own s.sb.claim.bed.val = false)
       ∧ (s.sb.claim.withdrawn = false → s.hasEntry s.sl.own s.sb.claim.bed.val = false → s.sb.book.length < 32 →
           ((∃ e ∈ s.sb.book, e.station ≠ s.sl.own ∧ e.committed = false) →
             t.sb.claim.phase = .resolving ∧ t.sb.claim.resolveSince = some ends
               ∧ t.entry s.sl.own s.sb.claim.bed.val = some ⟨s.sl.own, s.sb.claim.bed.val, s.sb.claim.flow,
                   s.sb.claim.urgency, false, s.sb.claim.age, ends⟩)
           ∧ ((∀ e ∈ s.sb.book, e.station = s.sl.own ∨ e.committed = true) →
             t.pastResolving ∧ (done.cutsNothing → Resolved done.claimOnLine t)))
       ∧ (s.sb.claim.withdrawn = false → s.hasEntry s.sl.own s.sb.claim.bed.val = false → 32 ≤ s.sb.book.length →
           t.sb.claim.phase = .ending ∧ (∃ l, t.tq.queue = q ++ ⟨.drop s.sb.claim.bed, 0, false⟩ :: l)
             ∧ t.hasEntry s.sl.own s.sb.claim.bed.val = false ∧ (t.latch .saturated).pending = true))

/-- LINE_LOSS_CLOSURE: 25 s after the last completion, with an own COMMITTED entry, LINE joins the holds and is pending;
its fault carries the head's collision run and the seconds since that completion; every run in OPENING, CONFIRMING or RUNNING
is cut with cause LINE, its need kept, and no claim may commit any more (R18, R80, R81, R120, R177). The model's
choices: the run is the one before the join (log 22), and run and seconds have sixteen bits (log 29); nothing here rests on the
order of cuts and withdrawal (log 57).
TALLY_FALLS_DUE: a TALLY joins the queue every 10 s unless one waits there (R30). -/
def Obligations.LineTimersRunOut : Prop :=
  ∀ s : State, s.live = true →
    (s.bc.holds.line = false → s.hasOwnCommitted = true → ∃ t, exec .lineLossClosure s = .next t
      ∧ t.now = max s.now (s.li.lossSince + 25 * 12000) ∧ t.bc.holds.line = true ∧ (t.latch .line).pending = true
      ∧ (t.latch .line).bed = 15 ∧ (t.latch .line).value = 0
      ∧ (s.au.record = none → t.au.record = some
          ⟨.line, 15, 0, 0, word16 s.tq.headRun, word16 ((t.now - s.li.lossSince) / 12000), s.clockMinute⟩)
      ∧ (s.au.record ≠ none → t.au.record = s.au.record ∧ t.au.more = true)
      ∧ (∀ b, (t.bed b).state ≠ .confirming ∧ (t.bed b).state ≠ .running ∧ (t.bed b).state ≠ .claiming)
      ∧ (ClaimSound s → t.sb.claim.live = false ∧ (∀ b, (t.bed b).state.cycling = false) ∧ AllCut .line s t)
      ∧ t.peers = s.peers ∧ t.li = s.li ∧ t.pw = s.pw ∧ t.sl = s.sl)
    ∧ (∀ x, Settled s → s.tq.tallySince = some x → ∃ t, exec .tallyFallsDue s = .next t
      ∧ ((∃ q ∈ s.tq.queue, q.notice = .tally) → AfterAlerts { s with
          now := max s.now (x + 10 * 12000), tq.tallySince := some (max s.now (x + 10 * 12000)) } t)
      ∧ ((∀ q ∈ s.tq.queue, q.notice ≠ .tally) → s.tq.queue.length < 6 → AfterAlerts { s with
          now := max s.now (x + 10 * 12000), tq.tallySince := some (max s.now (x + 10 * 12000)),
          tq.queue := s.tq.queue ++ [⟨.tally, 0, false⟩] } t))

/-! ### Frames received -/

/-- INVALID_FRAME and MALFORMED_NOTICE count one receive error; an invalid frame refreshes no presence row, a
malformed notice does (R6, R16, R20). UNHANDED_FRAME_RECEIVED: the slot, yielding and the presence row of a source 1
to 15, and nothing else (R16, R41). A frame's row counts in HUNT too, by the model's choice (log 5). -/
def Obligations.FramesNotHandedOn : Prop :=
  (∀ s : State, Settled s → s.receiving = true →
     (∀ bytes, ∃ t, exec (.invalidFrame bytes) s = .next t
       ∧ AfterAlerts { s.frameOver (bytes.length - 7) with au.rxErrors := min (s.au.rxErrors + 1) 255 } t)
     ∧ (∀ src tgt kind p, src ≠ s.sl.own → s.addressed tgt = true → (1 ≤ src ∧ src ≤ 15) ∨ (src = 0 ∧ kind = 9) →
       ∃ t, exec (.malformedNotice src tgt kind p) s = .next t
         ∧ AfterAlerts { s.frameTaken src p.length with au.rxErrors := min (s.au.rxErrors + 1) 255 } t))
  ∧
  (∀ (src tgt kind len : Nat) (s : State), Settled s → s.receiving = true → src ≠ s.sl.own →
     ∃ t, exec (.unhandedFrameReceived src tgt kind len) s = .next t ∧ AfterAlerts (s.frameTaken src len) t)

/-- DUPLICATE_NUMBER_EVENT by station state (R186). At the entry to BARRED every cycle is cut with cause BARRED, its need
cleared; a bed in WAITING, SOAKING or CLAIMING rests without need, ordered mark or run; waiting SKYs and ALERTs go, and so
does the draw entry, with its FREE (R28, R156, R187; log 35). That no ALERT of that SETUP goes out is the model's reading
(log 9). The model's choices: sixteen bits of its values (log 29), and a quiet count of 0 in BARRED (log 58). -/
def Obligations.DuplicateNumberByStationState : Prop :=
  ∀ (kind len : Nat) (s : State), s.receiving = true → ∃ t, exec (.duplicateNumberEvent kind len) s = .next t
    ∧ (t.latch .setup).pending = true ∧ (t.latch .setup).value = word16 kind ∧ (t.latch .setup).bed = 15
    ∧ (s.sl.station = .checking → t.sl.station = .checking ∧ t.sl.clashNoted = true)
    ∧ (s.sl.station = .listening ∨ s.sl.station = .active → t.sl.station = .barred)
    ∧ (s.sl.station = .unconfigured → t.sl.station = .unconfigured)
    ∧ (s.sl.station = .barred → t.sl.station = .barred)
    ∧ (s.sl.station ≠ .barred → s.au.record = none →
        t.au.record = some ⟨.setup, 15, 0, kind, word16 s.sl.own, 0, s.clockMinute⟩)
    ∧ (s.sl.station = .listening ∨ s.sl.station = .active → Settled s → ClaimSound s →
        (∀ b, (t.bed b).state = .off ∨ (t.bed b).state = .idle ∨ (t.bed b).state = .closing ∨ (t.bed b).state = .faulted)
          ∧ (∀ b, (s.bed b).state = .waiting ∨ (s.bed b).state = .soaking ∨ (s.bed b).state = .claiming →
              (t.bed b).state ≠ .closing ∧ (t.bed b).need = 0 ∧ (t.bed b).ordered = false ∧ (t.bed b).run = none)
          ∧ (∀ b r, (s.bed b).state.cycling = true → (s.bed b).run = some r →
              ((t.bed b).state = .closing ∧ (t.bed b).run = some { r with endCause := some .barred, need := r.delivered })
                ∨ ((t.bed b).state ≠ .closing ∧ (t.bed b).run = none ∧ (t.bed b).need = 0))
          ∧ (∀ b, (s.bed b).state = .off ∨ (s.bed b).state = .idle ∨ (s.bed b).state = .closing ∨ (s.bed b).state = .faulted →
              t.bed b = s.bed b)
          ∧ t.sb.claim.live = false ∧ (∀ q ∈ t.tq.queue, q.notice.code ≠ 7 ∧ q.notice.code ≠ 8)
          ∧ t.hasEntry s.sl.own 8 = false ∧ t.fm.drawing = false ∧ t.fm.quiet = 0
          ∧ (s.hasEntry s.sl.own 8 = true → ∃ q ∈ t.tq.queue, q.notice = .free 8)
          ∧ t.bc.holds = s.bc.holds)
    ∧ t.peers = s.peers ∧ t.pw = s.pw

/-- CLAIM from a peer: its entry stands PENDING in its place, or at the tail, and its row takes the last claim; a full
book skips a new entry and sets SATURATED (R37, R38, R41, R43, R44). -/
def Obligations.PeerClaimEntersTheBook : Prop :=
  ∀ (src tgt bed flow age : Nat) (u : Urgency) (s : State), Settled s → s.hears src tgt → claimFits bed flow age = true →
    ∃ t, exec (.claimReceived src tgt bed flow u age) s = .next t ∧ t.now = s.frameEnd 4
      ∧ (s.hasEntry src bed = true ∨ s.sb.book.length < 32 →
          t.entry src bed = some ⟨src, bed, flow, u, false, age, t.now⟩)
      ∧ (s.hasEntry src bed = false → 32 ≤ s.sb.book.length →
          t.entry src bed = none ∧ t.sb.saturated = true ∧ (t.latch .saturated).pending = true)
      ∧ ∃ r, t.row src = some r ∧ r.heard = t.now ∧ r.lastClaim = some ⟨bed, flow, u, age⟩

/-- COMMIT from a peer: its entry is COMMITTED in its place; a missing one is appended with the flow of the last claim, or
0.5 L/min where there is none (R45). Where the book then stands above the budget, the cycle of every own over entry is cut with
cause OVERDRAW, its need kept (R40, R53, R54, R120). Where the entry was the last senior of a claim in RESOLVING, the claim is
resolved, on that book where nothing was cut before (R58, R68, R69). -/
def Obligations.PeerCommitCommitsTheEntry : Prop :=
  ∀ (src tgt bed : Nat) (s : State), s.hears src tgt → bed ≤ 8 →
    ∃ t, exec (.commitReceived src tgt bed) s = .next t ∧ t.now = s.frameEnd 1
      ∧ (∀ e, s.entry src bed = some e → t.entry src bed = some { e with committed := true, heard := t.now })
      ∧ (s.entry src bed = none → s.sb.book.length < 32 →
          t.entry src bed = some (match s.lastClaimFor src bed with
            | some c => ⟨src, bed, c.flow, c.urgency, true, c.age, t.now⟩
            | none => ⟨src, bed, 1, .normal, true, 0, t.now⟩))
      ∧ (∀ e, ClaimSound s → s.entry src bed = some e → e.committed = false →
          let after := { s with
            now := t.now, sb.book := updateEntry src bed (fun e => { e with committed := true, heard := t.now }) s.sb.book }
          (∀ o b r, after.overdrawn o b → (s.bed b).state.cycling = true → (s.bed b).run = some r → ¬ s.shutsAtOnce b →
              CycleEnded b r .overdraw s t)
            ∧ (s.sb.claim.phase = .resolving → (∀ p ∈ s.liveSeniors, p = (src, bed)) →
                t.pastResolving ∧ (after.cutsNothing → Resolved after t)))

/-- DROP and FREE from a peer remove its entry; every FREE starts the courtesy delay (R46, R65). Where the own claim waits for
that entry alone, as the last senior in RESOLVING or as the victim in AWAITING, or in ASKING with its SHED still waiting, which
then leaves, the claim is resolved, on the book without the entry where the overdraw check cuts nothing before (R58, R68, R69,
R76, R77). -/
def Obligations.PeerDropAndFreeRemoveTheEntry : Prop :=
  ∀ (src tgt bed : Nat) (s : State), s.hears src tgt →
    let goes := fun t : State => ClaimSound s → s.hasEntry src bed = true → s.awaits src bed →
      let after := { s with now := t.now, sb.book := removeEntry src bed s.sb.book }
      t.pastResolving ∧ (after.cutsNothing → Resolved after t)
        ∧ (s.sb.claim.shedMade = true → ∀ q ∈ t.tq.queue, q.notice.isShed = false)
    (bed ≤ 7 → ∃ t, exec (.dropReceived src tgt bed) s = .next t ∧ t.now = s.frameEnd 1
      ∧ t.hasEntry src bed = false ∧ t.sb.lastFree = s.sb.lastFree ∧ goes t)
    ∧ (bed ≤ 8 → ∃ t, exec (.freeReceived src tgt bed) s = .next t ∧ t.now = s.frameEnd 1
      ∧ t.hasEntry src bed = false ∧ t.sb.lastFree = some t.now ∧ goes t)

/-- TALLY from a peer, naming no bed twice and with room: its entries in the book are those it lists, and its row and the
effective budget follow (R47, R48, R50). A heard budget other than the own, neither being 0 nor the peer barred, sets SETUP
with it, and hands over a SETUP fault where the disagreement starts or changes (R48). The model's choices: a budget of 0 is in range
whatever the unconfigured mark (log 47), and the values have sixteen bits (log 29). -/
def Obligations.PeerTallyReplacesItsEntries : Prop :=
  ∀ (src tgt : Nat) (y : TallyNotice) (s : State), s.hears src tgt → y.fits = true →
    (y.entries.map fun e => e.bed).Nodup → s.sb.book.length + y.entries.length ≤ 32 →
    ∃ t, exec (.tallyReceived src tgt y) s = .next t ∧ t.now = s.frameEnd (3 + 3 * y.entries.length)
      ∧ (∀ e ∈ y.entries, ∃ x, t.entry src e.bed = some x ∧ x.flow = e.flow ∧ x.urgency = e.urgency
          ∧ x.committed = e.committed ∧ x.heard = t.now)
      ∧ (∀ x ∈ t.sb.book, x.station = src → ∃ e ∈ y.entries, e.bed = x.bed)
      ∧ (∃ r, t.row src = some r ∧ r.heard = t.now ∧ r.budget = some y.budget ∧ r.barred = y.barred)
      ∧ t.sb.budget = effectiveBudget t.sl.setup.budget t.sb.presence
      ∧ (s.sl.setup.budget ≠ 0 → y.budget ≠ 0 → y.barred = false → y.budget ≠ s.sl.setup.budget →
          (t.latch .setup).pending = true ∧ (t.latch .setup).bed = 15 ∧ (t.latch .setup).value = word16 y.budget
            ∧ (s.au.record = none → (s.row src).bind Row.budget ≠ some y.budget → t.au.record
                = some ⟨.setup, 15, src, 1, word16 y.budget, word16 s.sl.setup.budget, s.clockMinute⟩))
      ∧ (s.sl.setup.budget = 0 ∨ y.budget = 0 ∨ y.barred = true ∨ y.budget = s.sl.setup.budget →
          (t.latch .setup).pending = (s.latch .setup).pending ∧ (t.latch .setup).value = (s.latch .setup).value)

/-- A CLAIM, COMMIT, DROP or FREE leaves every other entry of every other station as it is, a TALLY every entry of the
stations other than its own, order included (R37, R43); none of them touches time-keeping, weather, setup or volumes. -/
def Obligations.PeerNoticesTouchTheirOwnEntriesAlone : Prop :=
  ∀ (i : Instr) (src bed : Nat) (s : State),
    ((∃ tgt flow u age, i = .claimReceived src tgt bed flow u age) ∨ (∃ tgt, i = .commitReceived src tgt bed)
      ∨ (∃ tgt, i = .dropReceived src tgt bed) ∨ (∃ tgt, i = .freeReceived src tgt bed)
      ∨ ∃ tgt y, i = .tallyReceived src tgt y) →
    ∃ t, exec i s = .next t
      ∧ (t.peers.filter fun e => e.station != src) = (s.peers.filter fun e => e.station != src)
      ∧ ((∀ tgt y, i ≠ .tallyReceived src tgt y) →
          (t.peers.filter fun e => !e.named src bed) = s.peers.filter fun e => !e.named src bed)
      ∧ t.pw = s.pw ∧ t.sl.setup = s.sl.setup ∧ t.sl.own = s.sl.own
      ∧ ∀ b, (t.bed b).core = (s.bed b).core

/-- SHED from a peer, sent to this station: ACK where a SEVERE claimant names an own COMMITTED NORMAL entry whose bed is in
a cycle or CLOSING, and the bed is then in neither CONFIRMING nor RUNNING: its cycle is cut with cause SHED, its need kept;
REFUSE, and nothing else, in every other case (R8, R78, R120). -/
def Obligations.ShedIsAnsweredByTheTable : Prop :=
  ∀ (src victim claimant : Nat) (u : Urgency) (s : State), Settled s → s.hears src s.sl.own →
    shedFits victim claimant = true → s.sl.own ≠ 0 →
    ∃ t, exec (.shedReceived src s.sl.own victim claimant u) s = .next t
      ∧ (∀ b e, bedOf victim = some b → s.ownEntry victim = some e → u = .severe → e.committed = true →
          e.urgency = .normal → (s.bed b).state.cycling = true ∨ (s.bed b).state = .closing →
          t.li.answer = .waiting .ack ∧ (t.bed b).state ≠ .confirming ∧ (t.bed b).state ≠ .running
            ∧ (∀ r, (s.bed b).state.cycling = true → (s.bed b).run = some r → ¬ s.shutsAtOnce b → CycleEnded b r .shed s t)
            ∧ ((s.bed b).state = .closing → AfterAlerts (State.answer s.sl.own .ack (s.frameTaken src 3)) t))
      ∧ ((∀ b e, bedOf victim = some b → s.ownEntry victim = some e → u = .severe → e.committed = true →
          e.urgency = .normal → (s.bed b).state.cycling = false ∧ (s.bed b).state ≠ .closing) →
          AfterAlerts (State.answer s.sl.own .refuse (s.frameTaken src 3)) t)

/-- SKY from a peer is adopted while no record is set, from a source number not above the record's, or once the record is
older than 15 min; the holds are judged on it (log 17). Any other SKY changes no weather (R99, R168). Where RAIN or FREEZE
joins so, every cycle is cut with cause HOLD, its need kept, no bed is then in one or in CLAIMING, and where DEFER joins none but a SEVERE one is CLAIMING
(R80, R81, R100, R120). The day clock takes an adopted SKY's minute while it is unset or more than one minute away on the
day's circle (R170). -/
def Obligations.SkyIsAdoptedByItsSource : Prop :=
  ∀ (src tgt : Nat) (k : Sky) (s : State), s.hears src tgt → k.fits = true →
    ∃ t, exec (.skyReceived src tgt k) s = .next t ∧ t.now = s.frameEnd 11
      ∧ (s.pw.weather = none ∨ (∃ r, s.pw.weather = some r ∧ (src ≤ r.source ∨ 15 * 720000 < t.now - r.receipt)) →
          t.pw.weather = some ⟨k, src, t.now⟩ ∧ t.pw.staleNoted = false
            ∧ t.bc.holds.rain = (decide (0 < s.sl.setup.rainThreshold) && decide (10 * s.sl.setup.rainThreshold ≤ k.dayRain))
            ∧ t.bc.holds.defer = decide (4 ≤ k.recentRain) ∧ t.bc.holds.freeze = decide (k.temperature ≤ 4)
            ∧ (k.minute ≤ 1439 → s.pw.clockSet = false ∨ (max k.minute s.pw.minute - min k.minute s.pw.minute > 1
                ∧ max k.minute s.pw.minute - min k.minute s.pw.minute < 1439) →
                t.pw.minute = k.minute ∧ t.pw.clockSet = true ∧ t.pw.secondSince = t.now)
            ∧ (1439 < k.minute ∨ (s.pw.clockSet = true ∧ (max k.minute s.pw.minute - min k.minute s.pw.minute ≤ 1
                ∨ max k.minute s.pw.minute - min k.minute s.pw.minute ≥ 1439)) →
                t.pw.minute = s.pw.minute ∧ t.pw.clockSet = s.pw.clockSet ∧ t.pw.secondSince = s.pw.secondSince))
      ∧ ((s.bc.holds.rain = false ∧ t.bc.holds.rain = true) ∨ (s.bc.holds.freeze = false ∧ t.bc.holds.freeze = true) →
          (∀ b, (t.bed b).state ≠ .confirming ∧ (t.bed b).state ≠ .running ∧ (t.bed b).state ≠ .claiming)
            ∧ (ClaimSound s → t.sb.claim.live = false ∧ (∀ b, (t.bed b).state.cycling = false) ∧ AllCut .hold s t))
      ∧ (s.bc.holds.defer = false → t.bc.holds.defer = true → s.sb.claim.urgency ≠ .severe →
          ∀ b, (t.bed b).state = .claiming → (t.bed b).urgency = .severe)
      ∧ (∀ r, s.pw.weather = some r → r.source < src → t.now - r.receipt ≤ 15 * 720000 → t.pw = s.pw)
      ∧ t.peers = s.peers

/-! ### Orders -/

/-- The order gate of a station-addressed order: the station state, then the bed, then the arguments, then the bed
controller; a refused order is recorded with its reason and answered REFUSE, and nothing else is done (R103, R179). -/
def Obligations.OrderGateRefusesInOrder : Prop :=
  ∀ (src sel n a z c f m : Nat) (s : State), Settled s → s.hearsOrder src →
    let refused := fun (k : OrderKind) (r : RefusalReason) (len : Nat) (t : State) => AfterAlerts
      { s.frameTaken src len with li := { (s.frameTaken src len).li with answer := .waiting .refuse }, au.refused := some (k, r) } t
    (s.sl.station.passes .water = false →
      (∃ t, exec (.water src s.sl.own sel n) s = .next t ∧ refused .water .stationState 4 t)
      ∧ (∃ t, exec (.skip src s.sl.own sel) s = .next t ∧ refused .skip .stationState 2 t)
      ∧ (∃ t, exec (.pause src s.sl.own sel) s = .next t ∧ refused .pause .stationState 2 t)
      ∧ (∃ t, exec (.resume src s.sl.own sel) s = .next t ∧ refused .resume .stationState 2 t)
      ∧ (∃ t, exec (.target src s.sl.own sel a z) s = .next t ∧ refused .target .stationState 4 t))
    ∧ (s.sl.station = .barred →
      (∃ t, exec (.clear src s.sl.own sel c) s = .next t ∧ refused .clear .stationState 3 t)
      ∧ (∃ t, exec (.clock src s.sl.own sel m) s = .next t ∧ refused .clock .stationState 4 t))
    ∧ (s.sl.station.passes .water = true → s.presentBed sel = none →
      (∃ t, exec (.water src s.sl.own sel n) s = .next t ∧ refused .water .bedRange 4 t)
      ∧ (∃ t, exec (.skip src s.sl.own sel) s = .next t ∧ refused .skip .bedRange 2 t)
      ∧ (∃ t, exec (.target src s.sl.own sel a z) s = .next t ∧ refused .target .bedRange 4 t)
      ∧ (∃ t, exec (.query src s.sl.own sel 1) s = .next t ∧ refused .query .bedRange 3 t))
    ∧ (∀ b, s.sl.station.passes .water = true → s.presentBed sel = some b →
      (n = 0 ∨ 2000 < n → ∃ t, exec (.water src s.sl.own sel n) s = .next t ∧ refused .water .argument 4 t)
      ∧ (100 < a ∨ 100 < z ∨ z ≤ a → ∃ t, exec (.target src s.sl.own sel a z) s = .next t ∧ refused .target .argument 4 t)
      ∧ ((s.bed b).state = .off ∨ (s.bed b).state = .faulted → 1 ≤ n → n ≤ 2000 →
          ∃ t, exec (.water src s.sl.own sel n) s = .next t ∧ refused .water .bedOff 4 t)
      ∧ ((s.bed b).state = .off → ∃ t, exec (.skip src s.sl.own sel) s = .next t ∧ refused .skip .bedOff 2 t))
    ∧ (s.sl.station.passes .clear = true → 12 < c →
      ∃ t, exec (.clear src s.sl.own sel c) s = .next t ∧ refused .clear .argument 3 t)
    ∧ (s.sl.station.passes .query = true → 1 < f →
      ∃ t, exec (.query src s.sl.own sel f) s = .next t ∧ refused .query .argument 3 t)
    ∧ (s.sl.station.passes .clock = true → 1439 < m →
      ∃ t, exec (.clock src s.sl.own sel m) s = .next t ∧ refused .clock .argument 4 t)

/-- A group order is for the station where a window equals its code in every bit of the mask, and for the beds of every
such window; where none does, nothing but the frame's own effects happens (R180). -/
def Obligations.GroupOrdersReachTheWindowsBeds : Prop :=
  ∀ (code : Nat) (s : State),
    (s.groupBeds code = none ↔ ∀ w ∈ s.sl.setup.groups, w.matches code = false)
    ∧ (∀ l, s.groupBeds code = some l →
        ∀ b, b ∈ l ↔ ∃ w ∈ s.sl.setup.groups, w.matches code = true ∧ w.beds.getLsbD b.val = true)
    ∧ (∀ w : GroupWindow, w.matches code = true ↔ ∀ i < 8, w.mask.getLsbD i = true → w.base.getLsbD i = code.testBit i)
    ∧ (∀ src, Settled s → s.hearsOrder src → s.groupBeds code = none →
        ∃ t, exec (.pause src 0 code) s = .next t ∧ AfterAlerts (s.frameTaken src 2) t)

/-- WATER accepted by number: ACK, the ordered mark, no skip mark and the volume as the need: of the bed, or of its run
above what the run has had; kept for later in CLOSING; a CLAIMING bed's new urgency reaches its claim and its entry (R66, R105,
R123). By group: the same for every bed of the set that is neither OFF nor FAULTED, without an answer (R180). A change of an
own entry's urgency is a book change, whose steps may cut a run or end the claim (R40); what the order gives a bed in a cycle
beside such a bed is said where they do neither. That a kept order leaves a skip mark is the model's choice (log 52). -/
def Obligations.WaterOrdersAVolume : Prop :=
  ∀ (src sel n : Nat) (s : State), Settled s → s.hearsOrder src → s.sl.station.passes .water = true → 1 ≤ n → n ≤ 2000 →
    let raised := fun b : BedId => if (s.bed b).urgency = .severe then Urgency.severe else .dry
    let watered := fun (b : BedId) (t : State) =>
      ((s.bed b).state = .idle → (s.bed b).run = none → (t.bed b).ordered = true ∧ (t.bed b).skip = false
          ∧ (t.bed b).need = 10 * n ∧ (t.bed b).urgency = .dry ∧ (t.bed b).waitAge = 0
          ∧ ((t.bed b).state = .waiting ∨ (t.bed b).state = .claiming))
      ∧ ((s.bed b).state = .waiting → (s.bed b).run = none → (t.bed b).ordered = true ∧ (t.bed b).skip = false
          ∧ (t.bed b).need = 10 * n ∧ (t.bed b).urgency = raised b
          ∧ ((t.bed b).state = .waiting ∨ (t.bed b).state = .claiming))
      ∧ (∀ r, (s.bed b).run = some r → (s.bed b).state = .waiting → (t.bed b).ordered = true ∧ (t.bed b).skip = false
          ∧ (t.bed b).run = some { r with need := r.delivered + 10 * n } ∧ (t.bed b).urgency = raised b
          ∧ ((t.bed b).state = .waiting ∨ (t.bed b).state = .claiming))
      ∧ (∀ r, (s.bed b).run = some r → (s.bed b).state = .soaking →
          (t.bed b).ordered = true ∧ (t.bed b).skip = false ∧ (t.bed b).state = .soaking
            ∧ (t.bed b).run = some { r with need := r.delivered + 10 * n } ∧ (t.bed b).urgency = raised b)
      ∧ (∀ r, (s.bed b).run = some r → (s.bed b).state = .closing →
          t.bed b = { s.bed b with run := some { r with keptOrder := some n } })
    let cycling := fun (b : BedId) (t : State) => ∀ r, (s.bed b).run = some r → (s.bed b).state.cycling = true →
      (t.bed b).ordered = true ∧ (t.bed b).skip = false ∧ (t.bed b).state = (s.bed b).state
        ∧ (t.bed b).run = some { r with need := r.delivered + 10 * n } ∧ (t.bed b).urgency = raised b
    let claiming := fun (b : BedId) (t : State) => (s.bed b).state = .claiming →
      ((s.bed b).run = none ∧ (s.bed b).targets = none) ∨ t.sb.claim.phase = s.sb.claim.phase →
      (t.bed b).ordered = true ∧ (t.bed b).skip = false ∧ (t.bed b).urgency = raised b
        ∧ ((s.bed b).run = none → (t.bed b).need = 10 * n)
        ∧ (∀ r, (s.bed b).run = some r → (t.bed b).run = some { r with need := r.delivered + 10 * n })
        ∧ (t.sb.claim.phase = s.sb.claim.phase → (t.bed b).state = .claiming
            ∧ ∀ e, s.ownEntry b.val = some e → e.urgency = (s.bed b).urgency →
                t.ownEntry b.val = some { e with urgency := raised b })
    let claim := fun (b : BedId) (t : State) => (s.bed b).state = .claiming → s.sb.claim.live = true → s.sb.claim.bed = b →
      s.sb.claim.urgency = (s.bed b).urgency → t.sb.claim.urgency = raised b
    (∀ b, s.presentBed sel = some b → (s.bed b).state ≠ .off → (s.bed b).state ≠ .faulted →
      ∃ t, exec (.water src s.sl.own sel n) s = .next t ∧ t.li.answer = .waiting .ack
        ∧ FurtherWork (State.answer s.sl.own .ack (s.frameTaken src 4)) t
        ∧ watered b t ∧ cycling b t ∧ claiming b t ∧ claim b t)
    ∧ (∀ l, s.groupBeds sel = some l → ClaimSound s ∨ (∀ d ∈ l, (s.bed d).state ≠ .claiming) →
      let takes := fun b : BedId => (s.setupOf b).present = true ∧ (s.bed b).state ≠ .off ∧ (s.bed b).state ≠ .faulted
      ∃ t, exec (.water src 0 sel n) s = .next t ∧ t.li.answer = .none ∧ FurtherWork (s.frameTaken src 4) t
        ∧ (∀ b ∈ l, takes b → watered b t ∧ claiming b t)
        ∧ (∀ b ∈ l, takes b → (∀ d ∈ l, (s.bed d).state = .claiming → d = b) → claim b t)
        ∧ ((∀ d ∈ l, (s.bed d).state ≠ .claiming)
              ∨ (overEntries s.sb.budget 0 s.sb.book = [] ∧ t.sb.claim.phase = s.sb.claim.phase) →
            (∀ b ∈ l, takes b → cycling b t)
            ∧ ∀ b, b ∉ l ∨ ¬ takes b →
                (t.bed b).need = (s.bed b).need ∧ (t.bed b).ordered = (s.bed b).ordered ∧ (t.bed b).run = (s.bed b).run))

/-- SKIP accepted by number: ACK, the skip mark; outside a cycle the need, the ordered mark and the run go, a claim with
them; in CLOSING the end cause becomes SKIP unless it is a fault's; a cycle ends, at once where its valve can be CLOSED at
once, else by CLOSING (R106, R120, R123, R130, R133, R134). By group: the same for every bed of the set that is not OFF,
without an answer (R180). That the run's need goes with it is the model's reading (log 35). -/
def Obligations.SkipStopsTheBedForTheDay : Prop :=
  ∀ (src sel : Nat) (s : State), Settled s → s.hearsOrder src → s.sl.station.passes .skip = true →
    let skipped := fun (b : BedId) (t : State) =>
      ((s.bed b).state = .faulted → t.bed b = { s.bed b with skip := true })
      ∧ ((s.bed b).state = .idle → t.bed b = { s.bed b with skip := true, need := 0, ordered := false })
      ∧ ((s.bed b).state = .waiting ∨ (s.bed b).state = .soaking → s.brokenProbe b = false →
          (t.bed b).state = .idle ∧ (t.bed b).need = 0 ∧ (t.bed b).ordered = false ∧ (t.bed b).run = none
            ∧ (t.bed b).skip = true)
      ∧ (∀ r, (s.bed b).state = .closing → (s.bed b).run = some r → t.bed b = { s.bed b with
          skip := true, ordered := false, run := some { r with
            need := r.delivered, keptOrder := none,
            endCause := if r.endCause = some .leak ∨ r.endCause = some .noflow then r.endCause else some .skip } })
    (∀ b, s.presentBed sel = some b → (s.bed b).state ≠ .off →
      ∃ t, exec (.skip src s.sl.own sel) s = .next t ∧ t.li.answer = .waiting .ack
        ∧ (s.bed b).core = (t.bed b).core
        ∧ ((s.bed b).state.cycling = false → (t.bed b).skip = true)
        ∧ skipped b t
        ∧ ((s.bed b).state = .claiming → s.brokenProbe b = false → ClaimSound s →
            (t.bed b).state = .idle ∧ (t.bed b).need = 0 ∧ (t.bed b).ordered = false ∧ (t.bed b).run = none
              ∧ (s.sb.claim.bed = b → t.sb.claim.live = true → t.sb.claim.bed ≠ b))
        ∧ (∀ r, (s.bed b).state.cycling = true → (s.bed b).run = some r → s.valve b = .opened → (s.setupOf b).kind = .latch →
            (t.bed b).state = .closing ∧ (t.bed b).skip = true ∧ (t.bed b).ordered = false ∧ t.valve b = .closing
              ∧ (t.bed b).run = some { r with endCause := some .skip, need := r.delivered })
        ∧ (∀ r, (s.bed b).state.cycling = true → (s.bed b).run = some r → r.keptOrder = none → s.brokenProbe b = false →
            ClaimSound s →
            let shut := s.valve b = .closed ∨ ((s.setupOf b).kind = .held ∧ s.valve b = .opened)
              ∨ ((s.setupOf b).kind = .latch ∧ s.valve b = .opening ∧ s.queued b = true ∧ s.pulsing b = false)
              ∨ ((s.setupOf b).kind = .held ∧ s.valve b = .opening
                  ∧ ∀ c x y, s.channelOf b = some c → c.phase ≠ .pullIn x y)
            (shut → (t.bed b).state = .idle ∧ (t.bed b).skip = true ∧ (t.bed b).need = 0 ∧ (t.bed b).ordered = false
                ∧ (t.bed b).run = none ∧ t.valve b = .closed ∧ t.hasEntry s.sl.own b.val = false
                ∧ ∃ q ∈ t.tq.queue, q.notice = .free b.val)
            ∧ (¬ shut → (t.bed b).state = .closing ∧ (t.bed b).skip = true ∧ (t.bed b).ordered = false
                ∧ (t.bed b).run = some { r with endCause := some .skip, need := r.delivered }
                ∧ t.valve b = if s.valve b = .opened then .closing else s.valve b)))
    ∧ (∀ l, s.groupBeds sel = some l → ClaimSound s →
      ∃ t, exec (.skip src 0 sel) s = .next t ∧ t.li.answer = .none
        ∧ (∀ b ∈ l, (s.setupOf b).present = true → (s.bed b).state ≠ .off →
            skipped b t ∧ (t.bed b).core = (s.bed b).core ∧ (t.bed b).state.cycling = false
              ∧ ((s.bed b).state = .claiming → s.brokenProbe b = false →
                  (t.bed b).state = .idle ∧ (t.bed b).need = 0 ∧ (t.bed b).ordered = false ∧ (t.bed b).run = none))
        ∧ (∀ b, (s.bed b).state = .off → t.bed b = s.bed b))

/-- PAUSE and RESUME accepted by number or by group: the PAUSE hold joins and leaves (R108). Where PAUSE was not there, every
cycle is cut with cause HOLD, its need kept: a bed whose valve is still to close is in CLOSING with its run; no bed is then in a
cycle that could be cut or in CLAIMING, and no claim may commit (R80, R81, R100, R120). -/
def Obligations.PauseAndResumeSetTheHold : Prop :=
  ∀ (src sel : Nat) (s : State), s.hearsOrder src → s.sl.station.passes .pause = true →
    let stopped := fun t : State => s.bc.holds.pause = false →
      (∀ b, (t.bed b).state ≠ .confirming ∧ (t.bed b).state ≠ .running ∧ (t.bed b).state ≠ .claiming)
        ∧ (ClaimSound s → t.sb.claim.live = false ∧ (∀ b, (t.bed b).state.cycling = false) ∧ AllCut .hold s t)
    (∃ t, exec (.pause src s.sl.own sel) s = .next t ∧ t.li.answer = .waiting .ack ∧ stopped t
      ∧ FurtherWork { State.answer s.sl.own .ack (s.frameTaken src 2) with bc.holds := s.bc.holds.put .pause true } t)
    ∧ (∃ t, exec (.resume src s.sl.own sel) s = .next t ∧ t.li.answer = .waiting .ack
      ∧ FurtherWork { State.answer s.sl.own .ack (s.frameTaken src 2) with bc.holds := s.bc.holds.put .pause false } t)
    ∧ (s.groupBeds sel ≠ none →
      (∃ t, exec (.pause src 0 sel) s = .next t ∧ stopped t
        ∧ FurtherWork { s.frameTaken src 2 with bc.holds := s.bc.holds.put .pause true } t)
      ∧ ∃ t, exec (.resume src 0 sel) s = .next t
        ∧ FurtherWork { s.frameTaken src 2 with bc.holds := s.bc.holds.put .pause false } t)

/-- TARGET accepted by number: in force at once for a bed in IDLE, WAITING, OFF or FAULTED, pending in any other state
(R107). By group: the same for every present bed of the set, without an answer (R180). -/
def Obligations.TargetSetsTheThresholds : Prop :=
  ∀ (src sel a z : Nat) (s : State), Settled s → s.hearsOrder src → s.sl.station.passes .target = true →
    a ≤ 100 → z ≤ 100 → a < z →
    let targeted := fun (b : BedId) (t : State) =>
      ((s.bed b).state = .idle ∨ (s.bed b).state = .waiting ∨ (s.bed b).state = .off ∨ (s.bed b).state = .faulted →
          (t.bed b).start = a ∧ (t.bed b).stop = z ∧ (t.bed b).targets = none)
      ∧ ((s.bed b).state = .claiming ∨ (s.bed b).state.cycling = true ∨ (s.bed b).state = .closing
          ∨ (s.bed b).state = .soaking → t.bed b = { s.bed b with targets := some (a, z) })
    (∀ b, s.presentBed sel = some b →
      ∃ t, exec (.target src s.sl.own sel a z) s = .next t ∧ t.li.answer = .waiting .ack
        ∧ (∀ d, d ≠ b → (t.bed d).targets = (s.bed d).targets) ∧ targeted b t)
    ∧ (∀ l, s.groupBeds sel = some l →
      ∃ t, exec (.target src 0 sel a z) s = .next t ∧ t.li.answer = .none
        ∧ (∀ b ∈ l, (s.setupOf b).present = true → targeted b t)
        ∧ (∀ b, b ∉ l ∨ (s.setupOf b).present = false →
            (t.bed b).targets = (s.bed b).targets ∧ (t.bed b).start = (s.bed b).start ∧ (t.bed b).stop = (s.bed b).stop))

/-- CLEAR accepted by number, or by group without an answer (R180). Of COIL, LEAK, NOFLOW, NOANSWER or SETUP: the cause is
no longer pending and is armed again, and no bed stays FAULTED with it. Of PROBE: a bed FAULTED with it returns, but one
whose probe is still failed at area 0 faults anew, with PROBE pending again (R88, log 28 for a skipped bed). Of STUCK,
SUPPLY, LINE, SATURATED or STALE: pending again exactly where its condition holds, with that moment's value (R173, R175,
R176). Of DISCARD: no longer pending and armed again, unless an ALERT is refused for room in the same event, which sets it
anew with the kind ALERT (R29, R174, R176). ALL does all of this, and empties and unlocks the fault record (R176, R177), last
by the model's choice (log 13). A record's age above 30 min, strictly, is stale by the model's reading (log 23); values of
sixteen bits are its choice (log 29). -/
def Obligations.ClearRearmsAndReturnsBeds : Prop :=
  ∀ (src tgt sel : Nat) (s : State), Settled s → s.hearsOrder src → s.sl.station.passes .clear = true →
    tgt = s.sl.own ∨ (tgt = 0 ∧ s.groupBeds sel ≠ none) →
    let answered := fun t : State => t.li.answer = if tgt = 0 then .none else .waiting .ack
    let stale := match s.pw.weather with
      | some r => 30 * 720000 < s.frameEnd 3 - r.receipt
      | none => s.sl.loadingEnd + 30 * 720000 ≤ s.frameEnd 3
    let pendingAgain := fun (c : Cause) (t : State) =>
      (c = .stuck → ((t.latch c).pending = true ↔ s.fm.drawing = true))
      ∧ (c = .supply → ((t.latch c).pending = true ↔ s.vd.supply = .lost))
      ∧ (c = .line → ((t.latch c).pending = true ↔ 8 ≤ s.tq.headRun ∨ s.bc.holds.line = true))
      ∧ (c = .saturated → ((t.latch c).pending = true ↔ s.sb.saturated = true))
      ∧ (c = .stale → ((t.latch c).pending = true ↔ stale))
    (∀ c : Cause, c = .coil ∨ c = .leak ∨ c = .noflow ∨ c = .noanswer ∨ c = .setup →
      ∃ t, exec (.clear src tgt sel c.number) s = .next t ∧ answered t
        ∧ (t.latch c).pending = false ∧ (t.latch c).armed = true
        ∧ (∀ b, (s.bed b).fault.map BedFault.cause = some c → (s.bed b).state = .faulted →
            (t.bed b).fault.map BedFault.cause ≠ some c)
        ∧ ∀ f, s.au.record = some f → t.au.record = some f)
    ∧ (∀ c : Cause, c = .stuck ∨ c = .supply ∨ c = .line ∨ c = .saturated ∨ c = .stale →
      ∃ t, exec (.clear src tgt sel c.number) s = .next t ∧ answered t ∧ pendingAgain c t
        ∧ ((t.latch c).pending = false → (t.latch c).armed = true)
        ∧ ((t.latch c).pending = true → (t.latch c).bed = (if c = .stuck then 8 else 15))
        ∧ (c = .stuck → (t.latch c).pending = true →
            (t.latch c).value = word16 (instantRate s.fm.lastInterval s.sl.setup.pulsesPerLitre))
        ∧ (c = .supply → (t.latch c).pending = true → (t.latch c).value = word16 s.vd.coilVolts)
        ∧ (c = .line → (t.latch c).pending = true → (t.latch c).value = word16 s.tq.headRun)
        ∧ (c = .saturated → (t.latch c).pending = true → (t.latch c).value = word16 s.sb.book.length)
        ∧ (c = .stale → (t.latch c).pending = true → (t.latch c).value = word16 (match s.pw.weather with
            | some r => (t.now - r.receipt) / 720000
            | none => 65535))
        ∧ t.bc.beds = s.bc.beds ∧ ∀ f, s.au.record = some f → t.au.record = some f)
    ∧ (∃ t, exec (.clear src tgt sel 11) s = .next t ∧ answered t
        ∧ ((∀ c, c ≠ .discard → (s.latch c).pending = true → (s.latch c).armed = false) →
            (t.latch .discard).pending = false ∧ (t.latch .discard).armed = true)
        ∧ ((t.latch .discard).pending = true → (t.latch .discard).bed = 15 ∧ (t.latch .discard).value = 8)
        ∧ t.bc.beds = s.bc.beds ∧ t.sb.book = s.sb.book ∧ t.au.record = s.au.record ∧ t.au.more = s.au.more)
    ∧ ((∀ b, (s.bed b).state = .faulted → (s.bed b).run = none) →
      let anew := fun b : BedId => s.brokenProbe b = true ∧ (s.bed b).skip = false
      (∃ t, exec (.clear src tgt sel 2) s = .next t ∧ answered t
        ∧ ((t.latch .probe).pending = true ↔ ∃ b, (s.bed b).state = .faulted ∧ (s.bed b).fault = some .probe ∧ anew b)
        ∧ ((t.latch .probe).pending = false → (t.latch .probe).armed = true)
        ∧ (∀ b, (s.bed b).state = .faulted → (s.bed b).fault = some .probe →
            (anew b → (t.bed b).state = .faulted ∧ (t.bed b).fault = some .probe)
              ∧ (¬ anew b → (t.bed b).state ≠ .faulted)))
      ∧ ∃ t, exec (.clear src tgt sel 0) s = .next t
        ∧ (∀ b f, (s.bed b).state = .faulted → (s.bed b).fault = some f →
            (anew b → (t.bed b).state = .faulted ∧ (t.bed b).fault = some .probe ∧ (t.latch .probe).pending = true)
              ∧ (¬ anew b → (t.bed b).state ≠ .faulted)))
    ∧ ∃ t, exec (.clear src tgt sel 0) s = .next t ∧ answered t
        ∧ t.au.record = none ∧ t.au.more = false
        ∧ (∀ c : Cause, c = .coil ∨ c = .leak ∨ c = .noflow ∨ c = .noanswer ∨ c = .setup → (t.latch c).pending = false)
        ∧ ((t.latch .discard).pending = true → (t.latch .discard).bed = 15 ∧ (t.latch .discard).value = 8)
        ∧ ∀ c, pendingAgain c t

/-- QUERY accepted by number: ACK, and a REPLY with the station's or the bed's content of that moment joins the queue where
it holds fewer than 6 notices; refused for room, DISCARD is pending (R26, R29, R181). By group: without an answer, one
station form, or a bed form of each bed of the set in bed order (R180). The fields of both forms (section 2.1, R109, R112,
R181); the mark of a probe not read yet is the model's reading (log 15), sixteen bits of a sum the model's choice (log 29), as is
the urgency of a bed without a need (log 14). -/
def Obligations.QueryQueuesAReply : Prop :=
  (∀ (src sel : Nat) (s : State), Settled s → s.hearsOrder src →
    (∃ t, exec (.query src s.sl.own sel 0) s = .next t ∧ t.li.answer = .waiting .ack
      ∧ (s.tq.queue.length < 6 →
          AfterAlerts (State.answer s.sl.own .ack
            { s.frameTaken src 3 with tq.queue := s.tq.queue ++ [⟨.stationReply s.stationReply, 0, false⟩] }) t)
      ∧ (6 ≤ s.tq.queue.length → (t.latch .discard).pending = true ∧ t.bc = s.bc ∧ t.sb.book = s.sb.book))
    ∧ (∀ b, s.presentBed sel = some b → ∃ t, exec (.query src s.sl.own sel 1) s = .next t ∧ t.li.answer = .waiting .ack
      ∧ (s.tq.queue.length < 6 →
          AfterAlerts (State.answer s.sl.own .ack
            { s.frameTaken src 3 with tq.queue := s.tq.queue ++ [⟨.bedReply (s.bedReply b), 0, false⟩] }) t))
    ∧ (∀ l, s.groupBeds sel = some l →
      (∃ t, exec (.query src 0 sel 0) s = .next t ∧ t.li.answer = .none
        ∧ (s.tq.queue.length < 6 → AfterAlerts
            { s.frameTaken src 3 with tq.queue := s.tq.queue ++ [⟨.stationReply s.stationReply, 0, false⟩] } t))
      ∧ ∃ t, exec (.query src 0 sel 1) s = .next t ∧ t.li.answer = .none
        ∧ ((∀ b ∈ l, (s.setupOf b).present = true) → s.tq.queue.length + l.length ≤ 6 → AfterAlerts
            { s.frameTaken src 3 with
              tq.queue := s.tq.queue ++ l.map fun b => ⟨.bedReply (s.bedReply b), 0, false⟩ } t)))
  ∧
  (∀ s : State,
    let r := s.stationReply
    let one := fun (b : Bool) (n : Nat) => if b then n else 0
    r.station = (match s.sl.station with
        | .loading => 0 | .checking => 1 | .listening => 2 | .active => 3 | .unconfigured => 4 | .barred => 5)
      ∧ r.holds = one s.bc.holds.rain 1 + one s.bc.holds.defer 2 + one s.bc.holds.freeze 4 + one s.bc.holds.pause 8
          + one s.bc.holds.supply 16 + one s.bc.holds.line 32
      ∧ r.budget = s.sb.budget ∧ r.entries = s.sb.book.length
      ∧ r.committed = min ((s.sb.book.filter fun e => e.committed).map fun e => e.flow).sum 65535
      ∧ r.pending = one (s.latch .coil).pending 1 + one (s.latch .probe).pending 2 + one (s.latch .leak).pending 4
          + one (s.latch .noflow).pending 8 + one (s.latch .stuck).pending 16 + one (s.latch .supply).pending 32
          + one (s.latch .line).pending 64 + one (s.latch .noanswer).pending 128 + one (s.latch .saturated).pending 256
          + one (s.latch .setup).pending 512 + one (s.latch .discard).pending 1024 + one (s.latch .stale).pending 2048
      ∧ (∀ f, s.au.record = some f → r.faultCause = f.cause.number ∧ r.faultBed = f.bed ∧ r.faultPeer = f.peer
          ∧ r.faultKind = f.kind ∧ r.faultOne = f.one ∧ r.faultTwo = f.two ∧ r.faultMinute = f.minute)
      ∧ (s.au.record = none → r.faultCause = 0 ∧ r.faultBed = 15 ∧ r.faultPeer = 0 ∧ r.faultKind = 0 ∧ r.faultOne = 0
          ∧ r.faultTwo = 0 ∧ r.faultMinute = 65535)
      ∧ r.marks = one s.au.record.isSome 1 + one s.au.more 2 ∧ r.rxErrors = s.au.rxErrors ∧ r.collisions = s.au.collisions
      ∧ (∀ k x, s.au.refused = some (k, x) → r.refusedKind = k.code ∧ r.refusedReason = x.code)
      ∧ (s.au.refused = none → r.refusedKind = 0 ∧ r.refusedReason = 0))
  ∧
  (∀ (b : BedId) (s : State),
    let r := s.bedReply b
    let x := s.bed b
    let one := fun (b : Bool) (n : Nat) => if b then n else 0
    r.bed = b.val
      ∧ r.state = (match x.state with
        | .off => 0 | .idle => 1 | .waiting => 2 | .claiming => 3 | .opening => 4 | .confirming => 5 | .running => 6
        | .closing => 7 | .soaking => 8 | .faulted => 9)
      ∧ r.faultCause = (match x.fault with | none => 0 | some .probe => 2 | some .leak => 3 | some .noflow => 4)
      ∧ r.valve = (match s.valve b with | .closed => 0 | .opening => 1 | .opened => 2 | .closing => 3 | .unknown => 4)
      ∧ r.marks = one (decide ((s.setupOf b).mode = .debt)) 1 + one x.skip 2 + one x.targets.isSome 4
          + 8 * (if (s.setupOf b).mode = .debt then 0 else if x.probeFailed = true then 3 else if x.wetness = none then 2 else 1)
      ∧ (∀ w, x.wetness = some w → r.wetness = w) ∧ (x.wetness = none → r.wetness = 255)
      ∧ (∀ y, x.run = some y → r.need = y.need - y.delivered) ∧ (x.run = none → r.need = x.need)
      ∧ r.urgency = (match x.urgency with | .normal => 0 | .dry => 1 | .severe => 2)
      ∧ r.delivered = x.delivered ∧ r.debt = x.debt ∧ r.start = x.start ∧ r.stop = x.stop
      ∧ r.floor = (s.setupOf b).floor)

/-! ### Timers of the book, the claim and the beds -/

/-- PEER_EXPIRY: the peer's row and all its entries leave, and the budget is what the rest gives (R42, R50). PENDING_LAPSE:
a peer's PENDING entry leaves (R52). Where the own claim waits for that entry alone, as the last senior in RESOLVING or as the
victim in AWAITING or ASKING, the claim is resolved, on the book and budget that are left, where the overdraw check cuts nothing
before; a SHED in transmission holds the resolution until it has left (R58, R68, R69, R76, R77). -/
def Obligations.PeersAndPendingEntriesExpire : Prop :=
  ∀ (st bd : Nat) (s : State), s.live = true → st ≠ s.sl.own →
    let goes := fun after t : State => ClaimSound s → s.hasEntry st bd = true → s.awaits st bd →
      (s.sb.claim.phase ≠ .asking ∨ s.sendingOf Notice.isShed = false →
        t.pastResolving ∧ (after.cutsNothing → Resolved after t))
      ∧ (s.sb.claim.phase = .asking → s.sendingOf Notice.isShed = true →
          t.sb.claim.phase = .asking ∧ t.sb.claim.outcome = some .reResolve
            ∧ ∃ h q l, s.tq.queue = h :: q ∧ t.tq.queue = { h with cancelled := true } :: (q ++ l))
    (∀ r, s.row st = some r → ∃ t, exec (.peerExpiry st) s = .next t
      ∧ t.now = max s.now (r.heard + 30 * 12000) ∧ t.row st = none ∧ t.peers = (s.peers.filter fun e => e.station != st)
      ∧ t.sb.presence = (s.sb.presence.filter fun r => r.station != st)
      ∧ t.sb.budget = effectiveBudget s.sl.setup.budget t.sb.presence ∧ t.li = s.li ∧ t.pw = s.pw ∧ t.sl = s.sl
      ∧ goes { s with
          now := t.now, sb.book := s.sb.book.filter (fun e => e.station != st), sb.budget := t.sb.budget } t)
    ∧ (∀ e, s.entry st bd = some e → e.committed = false → ∃ t, exec (.pendingLapse st bd) s = .next t
      ∧ t.now = max s.now (e.heard + 25 * 12000) ∧ t.peers = (s.peers.filter fun e => !e.named st bd)
      ∧ t.sb.presence = s.sb.presence ∧ t.sb.budget = s.sb.budget ∧ t.li = s.li ∧ t.pw = s.pw ∧ t.sl = s.sl
      ∧ goes { s with now := t.now, sb.book := removeEntry st bd s.sb.book } t)

/-- RESOLUTION_TIMER_EXPIRY resolves the claim 2 s after it came on the line, by the fits test: COMMITTED flows, seniors'
flows and its own against the budget. A claim that fits commits: its entry COMMITTED and heard then, its COMMIT queued, its bed
in OPENING with its run begun or carried into the next cycle, its open request admitted, and line-loss closure where the line is
lost. One that does not drops, or where it is SEVERE and has made no shed chooses its victim: none, it drops; a peer's, a SHED to
that station names the victim's bed; an own one, its cycle is cut and the claim waits for the entry to leave (R18, R36, R67 to
R71, R73 to R75, R111, R114, R130). VICTIM_TIMER_EXPIRY drops it (R77). -/
def Obligations.ClaimTimersResolveTheClaim : Prop :=
  ∀ (since : Nat) (s : State), s.sl.station = .active →
    (s.sb.claim.phase = .resolving → s.sb.claim.resolveSince = some since →
      ∃ t, exec .resolutionTimerExpiry s = .next t ∧ t.now = max s.now (since + 2 * 12000) ∧ Resolved s t
        ∧ t.peers = s.peers ∧ t.pw = s.pw ∧ t.sl = s.sl)
    ∧ (s.sb.claim.phase = .awaiting → s.sb.claim.victimSince = some since →
      ∃ t, exec .victimTimerExpiry s = .next t ∧ t.now = max s.now (since + 20 * 12000) ∧ Dropped s t
        ∧ t.peers = s.peers ∧ t.pw = s.pw ∧ t.sl = s.sl)

/-- COURTESY_DELAY_END and BACKOFF_END are offer occasions: the first bed of the wait queue that passes every test is
offered, and nothing changes where none does (R63, R65, R66, R98). The tests are R64's twelve, with the window of R101. -/
def Obligations.OccasionsOfferTheFirstEligibleBed : Prop :=
  (∀ (b : BedId) (s : State),
    let x := s.bed b
    let active := allBeds.filter fun d => s.valve d == .opening || s.valve d == .opened || s.valve d == .closing
    let m := s.pw.minute
    let opens := s.sl.setup.windowStart
    let closes := s.sl.setup.windowEnd
    s.eligible b = true ↔
      s.sl.station = .active ∧ s.sb.saturated = false
        ∧ (∀ y, x.backoffEnd = some y → y ≤ s.now)
        ∧ (∀ y, s.sb.lastFree = some y →
            y + (match x.urgency with | .normal => 24000 | .dry => 12000 | .severe => 0) ≤ s.now)
        ∧ (s.bc.holds.rain = false ∧ s.bc.holds.freeze = false ∧ s.bc.holds.pause = false ∧ s.bc.holds.supply = false
            ∧ s.bc.holds.line = false ∧ (s.bc.holds.defer = false ∨ x.urgency = .severe))
        ∧ (s.pw.clockSet = false ∨ opens = closes ∨ (opens < closes ∧ opens ≤ m ∧ m < closes)
            ∨ (closes < opens ∧ (opens ≤ m ∨ m < closes)) ∨ x.ordered = true ∨ x.urgency = .severe)
        ∧ active.length < 4
        ∧ ((s.setupOf b).kind = .held → (active.filter fun d => (s.setupOf d).kind == .held).length < 2)
        ∧ ((s.setupOf b).kind = .latch → s.vd.ready = true)
        ∧ s.vd.marks.get b = false
        ∧ s.sb.book.length < 32
        ∧ ((s.setupOf b).flow + (s.sb.book.map fun e => e.flow).sum ≤ s.sb.budget ∨ x.urgency = .severe))
  ∧
  ∀ (i : Instr) (s after : State), Settled s → s.sl.station = .active → s.sb.claim.phase = .none →
    ((∃ u x, u ≠ Urgency.severe ∧ s.sb.lastFree = some x ∧ i = .courtesyDelayEnd u
        ∧ after = { s with now := max s.now (x + if u = .normal then 24000 else 12000) })
      ∨ ∃ (b : BedId) (x : Nat), (s.bed b).state = .waiting ∧ (s.bed b).backoffEnd = some x ∧ i = .backoffEnd b
        ∧ after = State.modBed b (fun y => { y with backoffEnd := none }) { s with now := max s.now x }) →
    ∃ t, exec i s = .next t
      ∧ (after.waitQueue.find? (fun b => after.eligible b) = none → AfterAlerts after t)
      ∧ (∀ b, after.waitQueue.find? (fun b => after.eligible b) = some b →
          (t.bed b).state = .claiming ∧ (∀ d, d ≠ b → t.bed d = after.bed d) ∧ t.sb.claim.phase = .sending ∧ t.sb.claim.bed = b
            ∧ t.sb.claim.flow = (after.setupOf b).flow ∧ t.sb.claim.urgency = (after.bed b).urgency
            ∧ t.sb.claim.age = (after.bed b).waitAge
            ∧ (∃ l, t.tq.queue = after.tq.queue
                ++ ⟨.claim b (after.setupOf b).flow (after.bed b).urgency (after.bed b).waitAge, 0, false⟩ :: l)
            ∧ t.sb.book = s.sb.book ∧ t.bc.holds = s.bc.holds ∧ t.vd = s.vd)

/-- WAIT_AGE_TICK adds a minute, up to 255 (R97). SOAK_END takes a bed with its run back to WAITING, and RUN_DAY_LIMIT and
a soak that ends on the limit end the run (R125, R126). The model's choice: a soak's minutes count from its beginning and
the run clock's from the end of LOADING, with no phase of the one-second tick (log 43). -/
def Obligations.BedTimersRunOut : Prop :=
  ∀ (b : BedId) (x : Nat) (s : State), Settled s → s.live = true →
    ((s.bed b).ageSince = some x → ∃ t, exec (.waitAgeTick b) s = .next t
      ∧ AfterAlerts (State.modBed b (fun y => { y with
          waitAge := min (y.waitAge + 1) 255, ageSince := some (max s.now (x + 720000)) })
        { s with now := max s.now (x + 720000) }) t)
    ∧ (∀ r, (s.bed b).state = .soaking → (s.bed b).soakSince = some x → (s.bed b).run = some r →
      ∃ t, exec (.soakEnd b) s = .next t ∧ t.now = max s.now (x + (s.setupOf b).soak * 720000)
        ∧ (t.runClock - r.startMinute < 1440 → (t.bed b).run = some r ∧ (t.bed b).soakSince = none
            ∧ ((t.bed b).state = .waiting ∨ (t.bed b).state = .claiming) ∧ (t.bed b).backoffEnd = none)
        ∧ (1440 ≤ t.runClock - r.startMinute → (t.bed b).run = none)
        ∧ (∀ d, (t.bed d).core = (s.bed d).core) ∧ t.pw = s.pw ∧ t.peers = s.peers)
    ∧ (∀ r, (s.bed b).state = .waiting → (s.bed b).run = some r → ∃ t, exec (.runDayLimit b) s = .next t
        ∧ t.now = max s.now (s.sl.loadingEnd + (r.startMinute + 1440) * 720000) ∧ (t.bed b).run = none
        ∧ (∀ d, (t.bed d).core = (s.bed d).core) ∧ t.pw = s.pw ∧ t.peers = s.peers)

/-! ### The clock, boundaries and the weather -/

/-- DAY_CLOCK_TICK: the minute rises by one, 1439 to 0, in every station state, and what it makes due is a day
boundary at minute 0 and an hour boundary at every multiple of 60, the day's first (R92, R170). CLOCK accepted by
number, or by group without an answer, sets the clock and starts its seconds (R170, R180). The list of due boundaries is the model's
own (log 11), and a tick exactly 60 s after the setting or the tick before its choice (log 43). -/
def Obligations.DayClockIsSetAndTicks : Prop :=
  (∀ s : State, s.pw.clockSet = true → s.pw.minute < 1440 → ∃ t, exec .dayClockTick s = .next t
     ∧ t.now = max s.now (s.pw.secondSince + 720000)
     ∧ t.pw = { s.pw with minute := (s.pw.minute + 1) % 1440, secondSince := t.now }
     ∧ t.bc.due = s.bc.due ++ (if (s.pw.minute + 1) % 1440 = 0 then [.day, .hour 0]
         else if (s.pw.minute + 1) % 60 = 0 then [.hour (s.pw.minute + 1)] else [])
     ∧ t.peers = s.peers ∧ (∀ b, (t.bed b).core = (s.bed b).core) ∧ t.li = s.li ∧ t.sl = s.sl)
  ∧
  (∀ (src tgt sel m : Nat) (s : State), s.hearsOrder src → s.sl.station.passes .clock = true → m ≤ 1439 →
     tgt = s.sl.own ∨ (tgt = 0 ∧ s.groupBeds sel ≠ none) →
     ∃ t, exec (.clock src tgt sel m) s = .next t ∧ (t.li.answer = if tgt = 0 then .none else .waiting .ack)
       ∧ t.now = s.frameEnd 4
       ∧ t.pw = { s.pw with minute := m, clockSet := true, secondSince := t.now }
       ∧ FurtherWork { State.answer tgt .ack (s.frameTaken src 4) with
           pw := { s.pw with minute := m, clockSet := true, secondSince := t.now } } t)

/-- HOUR_BOUNDARY: every present bed that is not OFF gains area × class, loses the fresh record's hour of rain × area
once for each index, and is held at 4000.0 L; a weather source's buckets move on (R93, R166). DAY_ROLLOVER: delivered
today and the skip mark of every present bed go; the debts stay (R102). After an hour's update every bed under debt rules, not
skipped and not in BARRED, is evaluated by its new debt; after a day rollover every present bed in IDLE or WAITING by its rules,
with the whole cap as room (R89, R90, R94, R102). An hour's command takes a day boundary that stands
before it; while the clock is unset the hours and days are counted from the end of LOADING, each day before its hour (R92).
The model's own: which row takes a boundary (log 11), that the buckets of a station that is no weather source stand still
(log 45), and that a record is fresh up to 30 min (log 23). -/
def Obligations.BoundariesMoveDebtsAndDay : Prop :=
  let hour := fun (index : Nat) (s t : State) =>
    (∀ b, (s.setupOf b).present = true → (s.bed b).state ≠ .off →
        (t.bed b).debt = min ((s.bed b).debt + (s.setupOf b).area * s.evapClass
          - ((s.hourRain.map (·.hourRain)).getD 0) * (s.setupOf b).area) 40000)
      ∧ (∀ b, (s.setupOf b).present = false ∨ (s.bed b).state = .off → (t.bed b).debt = (s.bed b).debt)
      ∧ (∀ k, s.hourRain = some k → t.bc.rainApplied = some k.hourIndex)
      ∧ (s.hourRain = none → t.bc.rainApplied = s.bc.rainApplied)
      ∧ (s.sl.setup.weatherSource = true → t.pw = { s.pw with
          complete := (s.pw.current :: s.pw.complete).take 23, current := 0, lastHourIndex := index })
      ∧ (s.sl.setup.weatherSource = false → t.pw = s.pw)
  let day := fun s t : State =>
    (∀ b, (s.setupOf b).present = true → (t.bed b).delivered = 0 ∧ (t.bed b).skip = false)
      ∧ ∀ b, (s.setupOf b).present = false → (t.bed b).delivered = (s.bed b).delivered
  let noDay := fun s t : State => ∀ b, (t.bed b).delivered = (s.bed b).delivered
  let debts := fun s t : State => ClaimSound s → s.sl.station ≠ .barred →
    ∀ b, s.probeRules b = false → s.brokenProbe b = false → (s.bed b).skip = false →
      Evaluated b (debtNeed (s.setupOf b).threshold (t.bed b).debt (10 * (s.setupOf b).cap - (s.bed b).delivered)) s t
  (∀ (m : Nat) (rest : List Boundary) (s : State), s.live = true →
     (s.bc.due = .hour m :: rest → ∃ t, exec .hourBoundary s = .next t ∧ t.bc.due = rest ∧ t.now = s.now
       ∧ hour ((m / 60 + 23) % 24) s t ∧ noDay s t ∧ debts s t)
     ∧ (s.bc.due = .day :: .hour m :: rest → ∃ t, exec .hourBoundary s = .next t ∧ t.bc.due = rest ∧ t.now = s.now
       ∧ hour ((m / 60 + 23) % 24) s t ∧ day s t))
  ∧
  (∀ s : State, s.live = true → s.bc.due = [] → s.pw.clockSet = false →
     let hours := s.bc.hours + 1
     ∃ t, exec .hourBoundary s = .next t ∧ t.bc.due = [] ∧ t.bc.hours = hours
       ∧ t.now = max s.now (s.sl.loadingEnd + hours * (60 * 720000))
       ∧ hour (s.bc.hours % 24) { s with now := t.now } t
       ∧ (hours % 24 = 0 → s.bc.days < hours / 24 → t.bc.days = s.bc.days + 1 ∧ day s t)
       ∧ (hours % 24 ≠ 0 ∨ hours / 24 ≤ s.bc.days → t.bc.days = s.bc.days ∧ noDay s t ∧ debts { s with now := t.now } t))
  ∧
  (∀ (s : State), Settled s → s.live = true →
     (∃ rest, s.bc.due = .day :: rest) ∨ (s.bc.due = [] ∧ s.pw.clockSet = false) →
     ∃ t, exec .dayRollover s = .next t ∧ day s t
       ∧ (ClaimSound s → s.sl.station ≠ .barred → ∀ b, (s.setupOf b).present = true → s.brokenProbe b = false →
           (s.bed b).state = .idle ∨ (s.bed b).state = .waiting →
           Evaluated b (if s.probeRules b = true then (s.bed b).wetness.bind fun w =>
               probeNeed (s.setupOf b) (s.bed b) (State.evapClass { s with now := t.now }) (10 * (s.setupOf b).cap) w
             else debtNeed (s.setupOf b).threshold (s.bed b).debt (10 * (s.setupOf b).cap)) s t)
       ∧ (∀ b, (s.setupOf b).present = false → (t.bed b).skip = (s.bed b).skip)
       ∧ (∀ rest, s.bc.due = .day :: rest → t.now = s.now ∧ t.bc.due = rest ∧ t.bc.days = s.bc.days)
       ∧ (s.bc.due = [] → t.now = max s.now (s.sl.loadingEnd + (s.bc.days + 1) * (1440 * 720000))
           ∧ t.bc.due = [] ∧ t.bc.days = s.bc.days + 1)
       ∧ (∀ b, (t.bed b).debt = (s.bed b).debt) ∧ t.pw = s.pw ∧ t.peers = s.peers ∧ t.li = s.li)

/-- RAIN_TIP adds 0.2 mm to the current bucket of a weather source, and makes a SKY fall due, with the tip in it, unless one
was admitted in the 60 s before; the filtered level's return is no tip (R165, R166, R167). SKY_TIMER_EXPIRY makes a SKY fall due:
the station adopts its own values, sent where the queue has room, and the timer starts again (R24, R167). What a SKY that
falls due carries: the temperature and its class, the rain sums, the last complete hour, the minute (R24, R164, R166).
WEATHER_RECORD_STALE: RAIN, DEFER and FREEZE leave and STALE is pending (R99, R169, R175), at an age strictly above 30
min by the model's reading (log 23); the input filters are inside the rows (log 25). -/
def Obligations.RainSkyAndStaleRecord : Prop :=
  (∀ s : State, s.live = true → s.sl.setup.weatherSource = true →
     (s.pw.rainLevel = true → ∃ t, exec .rainTip s = .next t ∧ t.now = max s.now (s.pw.rainSince + 50 * 12)
       ∧ t.pw.current = min (s.pw.current + 2) 65535 ∧ t.pw.rainLevel = false ∧ t.pw.rainSince = t.now
       ∧ t.pw.complete = s.pw.complete
       ∧ (∀ x, s.pw.lastSky = some x → t.now < x + 60 * 12000 → t.pw.weather = s.pw.weather)
       ∧ (∀ x, s.pw.temperature = some x → s.pw.lastSky = none ∨ (∃ y, s.pw.lastSky = some y ∧ y + 60 * 12000 ≤ t.now) →
           t.pw.weather = some ⟨State.skyNow x { s with now := t.now, pw.current := t.pw.current }, s.sl.own, t.now⟩
             ∧ (State.skyNow x { s with now := t.now, pw.current := t.pw.current }).temperature = x
             ∧ (s.tq.queue.length < 6 → s.sl.station = .active → Settled s → t.pw.lastSky = some t.now
                 ∧ ∃ q ∈ t.tq.queue, q.notice = .sky (State.skyNow x { s with now := t.now, pw.current := t.pw.current })))
       ∧ (s.pw.temperature = none → t.pw.weather = s.pw.weather ∧ t.pw.lastSky = s.pw.lastSky))
     ∧ (Settled s → s.pw.rainLevel = false → ∃ t, exec .rainFilteredLevelChange s = .next t
       ∧ AfterAlerts { s with
           now := max s.now (s.pw.rainSince + 50 * 12), pw.rainLevel := true,
           pw.rainSince := max s.now (s.pw.rainSince + 50 * 12) } t))
  ∧
  (∀ s : State, s.live = true →
     (∀ x k, s.pw.skySince = some x → s.pw.temperature = some k → ∃ t, exec .skyTimerExpiry s = .next t
       ∧ t.now = max s.now (x + 5 * 720000) ∧ t.pw.skySince = some t.now
       ∧ t.pw.weather = some ⟨State.skyNow k { s with now := t.now }, s.sl.own, t.now⟩
       ∧ (s.tq.queue.length < 6 → s.sl.station = .active → Settled s →
           ∃ q ∈ t.tq.queue, q.notice = .sky (State.skyNow k { s with now := t.now })))
     ∧ (s.pw.staleNoted = false → ∃ t, exec .weatherRecordStale s = .next t
       ∧ t.now = max s.now (match s.pw.weather with
           | some r => r.receipt + 30 * 720000 + 1
           | none => s.sl.loadingEnd + 30 * 720000)
       ∧ t.pw = { s.pw with staleNoted := true } ∧ (t.latch .stale).pending = true
       ∧ t.bc.holds.rain = false ∧ t.bc.holds.defer = false ∧ t.bc.holds.freeze = false
       ∧ t.bc.holds.pause = s.bc.holds.pause ∧ t.bc.holds.supply = s.bc.holds.supply))
  ∧
  (∀ (x : Int) (s : State),
     let k := State.skyNow x s
     k.temperature = x ∧ k.recentRain = min (s.pw.current + s.pw.complete.headD 0) 65535
       ∧ k.dayRain = min (s.pw.current + s.pw.complete.sum) 65535 ∧ k.hourRain = s.pw.complete.headD 0
       ∧ k.hourIndex = s.pw.lastHourIndex
       ∧ k.evapClass = (if x < 20 then 0 else if x < 40 then 1 else if x < 60 then 2 else 3)
       ∧ k.minute = (if s.pw.clockSet = true then s.pw.minute else 65535))

/-! ### The probe scanner -/

/-- SCAN_START and PROBE_SETTLE_END: the first channel visited is selected, and measured 20 ms later (R159).
PROBE_MEASUREMENT_END, with the rising edges of PFRQ: the period counter runs from the first edge across sixteen periods; the
measurement ends with the count at the sixteenth edge below 65,535, with an overrange at 65,535, or with a timeout 50 ms after
the settle wait or any edge; the next channel is visited then, and the counter holds no value for it (R159, R160).

Of a bed: a good count is appended to the ring of four and its mean becomes the last wetness; the third bad read in a row fails
the probe, with PROBE pending and its fault, and the ring is emptied; a failed probe takes its good reads into the ring alone
until the third in a row clears the mark and hands over their mean (R161, R162, R163). The wetness handed over is weighed: at or
above the active stop it ends a cycle with cause WET, a soak, or a waiting run; a bed in IDLE, WAITING or CLAIMING, not skipped
and not in BARRED, is evaluated by it, with the need and urgency of ProbeUrgencyFollowsTheWetness and NeedsFollowWetnessAndDebt
(R89, R90, R91, R117, R126). A failure evaluates by debt rules, or at area 0 without a run takes the bed to FAULTED (R89, R94,
R95).

Of the temperature channel: a good count gives the temperature in 0.5 degree steps, a half rounded down, and makes a SKY fall
due where it was unknown; the third bad read in a row fails it, the third good one brings it back (R164, R167).

The model's own: the edges come as gaps in whole microseconds, the moment is rounded up, an edge at 50 ms is in time, and the
overrange goes before a timeout at one moment (log 56); a value or bound above 65535 is carried as 65535 (log 29); a FAULTED bed
whose probe fails loses its last wetness too (log 48); a bed at rest of area 0 is FAULTED in BARRED too (log 53); a new value
alone ends a waiting run (log 16); evaluations are passed over while the skip mark is set (log 28). -/
def Obligations.ScannerVisitsAndReadsProbes : Prop :=
  let failed := fun (b : BedId) (s t : State) =>
    let lost := State.modBed b (fun y => { y with wetness := none, probeFailed := true }) { s with now := t.now }
    ((s.bed b).state.cycling = true ∨ (s.bed b).state = .closing ∨ (s.bed b).state = .soaking ∨ (s.bed b).state = .faulted →
        t.bed b = lost.bed b)
      ∧ ((s.setupOf b).area = 0 → (s.bed b).run = none →
          (s.bed b).state = .idle ∨ (s.bed b).state = .waiting ∨ (s.bed b).state = .claiming →
          (t.bed b).state = .faulted ∧ (t.bed b).fault = some .probe ∧ (t.bed b).need = 0 ∧ (t.bed b).ordered = false
            ∧ ((s.bed b).state = .claiming → s.sb.claim.bed = b → t.sb.claim.live = true → t.sb.claim.bed ≠ b))
      ∧ (s.sl.station ≠ .barred → (s.bed b).skip = false →
          0 < (s.setupOf b).area ∨ ((s.bed b).run ≠ none ∧ (s.bed b).state ≠ .idle) →
          Evaluated b (debtNeed (s.setupOf b).threshold (s.bed b).debt (10 * (s.setupOf b).cap - (s.bed b).delivered)) lost t)
  (∀ s : State, Settled s → s.live = true →
     (s.pw.scan = .idle → ∃ t, exec .scanStart s = .next t ∧ t.now = max s.now s.pw.scanDue
       ∧ t.pw.scanDue = t.now + 60 * 12000
       ∧ (∀ c, s.visits c = true → (∀ d, d < c → s.visits d = false) → t.pw.scan = .settle c t.now ∧ t.pw.psel = c
           ∧ t.pw.counter = 0)
       ∧ ((∀ c, s.visits c = false) → t.pw.scan = .idle ∧ t.pw.psel = s.pw.psel ∧ t.pw.counter = s.pw.counter)
       ∧ AfterAlerts { s with now := t.now, pw := { s.pw with
           scan := t.pw.scan, scanDue := t.pw.scanDue, psel := t.pw.psel, counter := t.pw.counter } } t)
     ∧ (∀ ch x, s.pw.scan = .settle ch x → ∃ t, exec .probeSettleEnd s = .next t
       ∧ AfterAlerts { s with now := max s.now (x + 20 * 12), pw.scan := .measure ch (max s.now (x + 20 * 12)) } t)
     ∧ (∀ ch x gaps, s.pw.scan = .measure ch x → ∃ t, exec (.probeMeasurementEnd gaps) s = .next t
       ∧ t.now = max s.now (x + measureTime (measurePeriods gaps))
       ∧ (∀ c, ch < c → s.visits c = true → (∀ d, ch < d → d < c → s.visits d = false) →
           t.pw.scan = .settle c t.now ∧ t.pw.psel = c ∧ t.pw.counter = 0)
       ∧ ((∀ c, ch < c → s.visits c = false) →
           t.pw.scan = .idle ∧ t.pw.psel = s.pw.psel ∧ t.pw.counter = (measurePeriods gaps).counter)))
  ∧
  ((∀ m : Measurement, measureTime m = ((m.wait + m.counter) * 12 + 999) / 1000)
     ∧ measurePeriods [] = ⟨.timeout, 50000, 0⟩
     ∧ (∀ first rest, 50000 < first → measurePeriods (first :: rest) = ⟨.timeout, 50000, 0⟩)
     ∧ (∀ (first : Nat) (periods rest : List Nat), first ≤ 50000 → (∀ g ∈ periods, g ≤ 50000) → periods.sum < 65535 →
       let v := periods.sum
       let m := measurePeriods (first :: (periods ++ rest))
       (periods.length = 16 → m = ⟨.count v, first, v⟩)
         ∧ (∀ g, periods.length < 16 → rest.head? = some g → g ≤ 50000 → 65535 ≤ v + g → m = ⟨.overrange, first, 65535⟩)
         ∧ (periods.length < 16 → (∀ g, rest.head? = some g → 50000 < g) →
             m = (if v + 50000 < 65535 then ⟨.timeout, first, v + 50000⟩ else ⟨.overrange, first, 65535⟩))))
  ∧
  (∀ (b : BedId) (x : Nat) (s : State), s.live = true → s.pw.scan = .measure b.val x → (s.bed b).state ≠ .off →
     (s.pw.probes.get b).failed = false →
     (∀ gaps c, (measurePeriods gaps).ending = .count c → ¬ c < (s.setupOf b).wet / 2 → ¬ 2 * (s.setupOf b).dry < c →
       ∃ t, exec (.probeMeasurementEnd gaps) s = .next t
         ∧ (let w := min 100 (((s.setupOf b).dry - c) * 100 / ((s.setupOf b).dry - (s.setupOf b).wet))
           let ring := ((s.pw.probes.get b).ring ++ [w]).drop ((s.pw.probes.get b).ring.length - 3)
           (t.pw.probes.get b).ring = ring ∧ (t.bed b).wetness = some (ring.sum / ring.length))
         ∧ (t.pw.probes.get b).bad = 0 ∧ (∀ d, d ≠ b → t.pw.probes.get d = s.pw.probes.get d)
         ∧ t.now = max s.now (x + measureTime (measurePeriods gaps)) ∧ t.peers = s.peers
         ∧ (∀ w, Settled s → ClaimSound s → (s.setupOf b).mode = .probe → (s.bed b).probeFailed = false →
             (t.bed b).wetness = some w →
             Weighed b w (State.modBed b (fun y => { y with wetness := some w }) { s with now := t.now }) t))
     ∧ (∀ gaps r, (measurePeriods gaps).ending = r → boundCrossed (s.setupOf b).dry (s.setupOf b).wet r ≠ none →
       ∃ t, exec (.probeMeasurementEnd gaps) s = .next t
         ∧ ((s.pw.probes.get b).bad < 2 → (t.pw.probes.get b).ring = (s.pw.probes.get b).ring
             ∧ (t.pw.probes.get b).bad = (s.pw.probes.get b).bad + 1 ∧ (t.bed b).wetness = (s.bed b).wetness)
         ∧ (2 ≤ (s.pw.probes.get b).bad → (t.pw.probes.get b).failed = true ∧ (t.pw.probes.get b).ring = []
             ∧ (t.latch .probe).pending = true ∧ (t.latch .probe).bed = b.val ∧ (t.bed b).probeFailed = true
             ∧ (t.bed b).wetness = none ∧ (Settled s → ClaimSound s → (s.setupOf b).mode = .probe → failed b s t)
             ∧ (let fields : Nat × Nat := match r with
                 | .count c => (word16 c, word16 (if c < (s.setupOf b).wet / 2 then (s.setupOf b).wet / 2
                     else 2 * (s.setupOf b).dry))
                 | .overrange => (65535, 65535)
                 | .timeout => (0, 0)
               (t.latch .probe).value = fields.1
                 ∧ (s.au.record = none → t.au.record = some ⟨.probe, b.val, 0, 0, fields.1, fields.2, s.clockMinute⟩)
                 ∧ (s.au.record ≠ none → t.au.record = s.au.record ∧ t.au.more = true)))))
  ∧
  (∀ (b : BedId) (x : Nat) (s : State), Settled s → s.live = true → s.pw.scan = .measure b.val x →
     (s.bed b).state ≠ .off → (s.pw.probes.get b).failed = true →
     let p := s.pw.probes.get b
     (∀ gaps c, (measurePeriods gaps).ending = .count c → ¬ c < (s.setupOf b).wet / 2 → ¬ 2 * (s.setupOf b).dry < c →
       ∃ t, exec (.probeMeasurementEnd gaps) s = .next t
         ∧ (let w := min 100 (((s.setupOf b).dry - c) * 100 / ((s.setupOf b).dry - (s.setupOf b).wet))
           let ring := (p.ring ++ [w]).drop (p.ring.length - 3)
           (t.pw.probes.get b).ring = ring ∧ (t.pw.probes.get b).bad = 0
             ∧ (p.good < 2 → (t.pw.probes.get b).failed = true ∧ (t.pw.probes.get b).good = p.good + 1
                 ∧ AfterAlerts { s with now := t.now, pw := t.pw } t)
             ∧ (2 ≤ p.good → (t.pw.probes.get b).failed = false ∧ (t.bed b).probeFailed = false
                 ∧ (t.bed b).wetness = some (ring.sum / ring.length)
                 ∧ (ClaimSound s → (s.setupOf b).mode = .probe → Weighed b (ring.sum / ring.length)
                     (State.modBed b (fun y => { y with wetness := some (ring.sum / ring.length), probeFailed := false })
                       { s with now := t.now }) t)))
         ∧ (∀ d, d ≠ b → t.pw.probes.get d = s.pw.probes.get d) ∧ t.peers = s.peers)
     ∧ (∀ gaps r, (measurePeriods gaps).ending = r → boundCrossed (s.setupOf b).dry (s.setupOf b).wet r ≠ none →
       ∃ t, exec (.probeMeasurementEnd gaps) s = .next t
         ∧ t.pw.probes = s.pw.probes.set b { p with bad := p.bad + 1, good := 0 } ∧ AfterAlerts { s with now := t.now, pw := t.pw } t))
  ∧
  (∀ (x : Nat) (s : State), Settled s → s.live = true → s.pw.scan = .measure 8 x →
     s.sl.setup.c0 ≠ s.sl.setup.c40 →
     (∀ gaps c, (measurePeriods gaps).ending = .count c → ∃ t, exec (.probeMeasurementEnd gaps) s = .next t
       ∧ t.now = max s.now (x + measureTime (measurePeriods gaps)) ∧ t.pw.scan = .idle
       ∧ t.pw.tempBad = 0 ∧ t.pw.tempGood = s.pw.tempGood + 1 ∧ t.peers = s.peers
       ∧ (s.pw.tempFailed = true → s.pw.tempGood < 2 → t.pw.tempFailed = true ∧ AfterAlerts { s with now := t.now, pw := t.pw } t
           ∧ t.pw.temperature = s.pw.temperature ∧ t.pw.skySince = s.pw.skySince ∧ t.pw.weather = s.pw.weather)
       ∧ (s.pw.tempFailed = false ∨ 2 ≤ s.pw.tempGood → t.pw.tempFailed = false ∧ ∃ v : Int, t.pw.temperature = some v
           ∧ (let n : Int :=
                if s.sl.setup.c0 < s.sl.setup.c40 then 80 * ((c : Int) - s.sl.setup.c0)
                else 80 * ((s.sl.setup.c0 : Int) - c)
              let d : Int := ((s.sl.setup.c40 - s.sl.setup.c0) + (s.sl.setup.c0 - s.sl.setup.c40) : Nat)
              v ≤ 127 ∧ -128 ≤ v ∧ (v < 127 → 2 * n - d ≤ 2 * v * d) ∧ (-128 < v → 2 * v * d < 2 * n + d))
           ∧ (s.pw.temperature ≠ none → t.pw.weather = s.pw.weather ∧ t.pw.skySince = s.pw.skySince
               ∧ t.pw.lastSky = s.pw.lastSky ∧ AfterAlerts { s with now := t.now, pw := t.pw } t)
           ∧ (s.pw.temperature = none → t.pw.skySince = some t.now
               ∧ ∃ k, t.pw.weather = some ⟨k, s.sl.own, t.now⟩ ∧ k.temperature = v
                 ∧ k.evapClass = (if v < 20 then 0 else if v < 40 then 1 else if v < 60 then 2 else 3)
                 ∧ (s.sl.station.admits (.sky k) = true → s.tq.queue.length < 6 →
                     t.pw.lastSky = some t.now ∧ ∃ q ∈ t.tq.queue, q.notice = .sky k))))
     ∧ (∀ gaps r, (measurePeriods gaps).ending = r → (r = .overrange ∨ r = .timeout) →
       ∃ t, exec (.probeMeasurementEnd gaps) s = .next t
       ∧ t.now = max s.now (x + measureTime (measurePeriods gaps)) ∧ t.pw.scan = .idle ∧ t.pw.tempGood = 0 ∧ t.pw.tempBad = s.pw.tempBad + 1
       ∧ (s.pw.tempFailed = true ∨ s.pw.tempBad < 2 → AfterAlerts { s with now := t.now, pw := t.pw } t
           ∧ t.pw.tempFailed = s.pw.tempFailed ∧ t.pw.temperature = s.pw.temperature ∧ t.pw.skySince = s.pw.skySince)
       ∧ (s.pw.tempFailed = false → 2 ≤ s.pw.tempBad →
           t.pw.tempFailed = true ∧ t.pw.temperature = none ∧ t.pw.skySince = none
             ∧ (t.latch .probe).pending = true ∧ (t.latch .probe).bed = 15
             ∧ (t.latch .probe).value = (if r = .overrange then 65535 else 0)
             ∧ (s.au.record = none → t.au.record = some (if r = .overrange
                 then ⟨.probe, 15, 0, 0, 65535, 65535, s.clockMinute⟩ else ⟨.probe, 15, 0, 0, 0, 0, s.clockMinute⟩))
             ∧ (s.au.record ≠ none → t.au.record = s.au.record ∧ t.au.more = true))))

/-! ### The valve drive -/

/-- PULSE_END of an open pulse: the valve is OPEN, the generator rests, and a bed in OPENING goes on to CONFIRMING, or
to RUNNING under IMMEDIATE (R114, R115, R131, R149). A close pulse leaves its valve CLOSED; a bed in CLOSING goes where
its close leads, with its FREE queued and its entry gone (R56, R124). The last close pulse of the start-up closure ends
CHECKING: LISTENING with its timer, the tally timer and a TALLY, or BARRED where a clash was noted (R142, R184, R186). Which
pulse is the last, wherever pulses came from, is the model's reading (log 18).
RECOVERY_END: 100 ms later the generator takes the next valve of the reserve closure, else the queue's head while the
supply is GOOD, else it is IDLE (R131, R139). -/
def Obligations.PulsesMoveTheirValve : Prop :=
  (∀ (b : BedId) (rsv : Bool) (x : Nat) (s : State), Settled s → s.live = true → s.vd.check ≠ .closure →
     let ends := max s.now (x + s.sl.setup.pulseWidth * 120)
     (s.vd.generator = .pulse ⟨b, .opens⟩ rsv x → (s.bed b).state = .opening → s.queued b = false →
       ∃ t, exec .pulseEnd s = .next t ∧ t.now = ends ∧ t.valve b = .opened ∧ t.vd.generator = .recovery ends
         ∧ (t.bed b).state = (if (s.setupOf b).confirm = .immediate then .running else .confirming)
         ∧ (t.bed b).run = (s.bed b).run ∧ ((s.setupOf b).confirm ≠ .immediate → t.fm.confirms.get b = some ends)
         ∧ (∀ d, d ≠ b → t.bed d = s.bed d ∧ t.valve d = s.valve d) ∧ t.sb = s.sb ∧ t.pw = s.pw ∧ t.bc.holds = s.bc.holds)
     ∧ (s.vd.generator = .pulse ⟨b, .closes⟩ rsv x → (s.bed b).state ≠ .closing →
       ∃ t, exec .pulseEnd s = .next t ∧ t.now = ends ∧ t.valve b = .closed ∧ t.vd.generator = .recovery ends
         ∧ t.bc = s.bc ∧ t.sb = s.sb ∧ t.pw = s.pw ∧ ∀ d, d ≠ b → t.valve d = s.valve d)
     ∧ (s.vd.generator = .pulse ⟨b, .closes⟩ rsv x → (s.bed b).state = .closing → s.sl.station ≠ .unconfigured →
       s.sb.claim.phase = .none ∨ s.sb.claim.bed ≠ b →
       let u := State.bedClosed b { s with
         now := ends, vd.generator := .recovery ends, vd.valves := s.vd.valves.set b .closed }
       ∃ t, exec .pulseEnd s = .next t ∧ FurtherWork u t ∧ t.now = ends ∧ t.valve b = .closed
         ∧ t.vd.generator = .recovery ends ∧ t.hasEntry s.sl.own b.val = false
         ∧ (∃ q ∈ t.tq.queue, q.notice = .free b.val)
         ∧ ((u.bed b).state ≠ .waiting → t.bed b = u.bed b)
         ∧ ((u.bed b).state = .waiting → ((t.bed b).state = .waiting ∨ (t.bed b).state = .claiming)
             ∧ (t.bed b).run = (u.bed b).run)))
  ∧
  (∀ (b : BedId) (rsv : Bool) (x : Nat) (s : State), Settled s → s.sl.station = .checking → s.vd.check = .closure →
     s.vd.generator = .pulse ⟨b, .closes⟩ rsv x → (s.bed b).state ≠ .closing → s.sb.claim.phase = .none →
     let ends := max s.now (x + s.sl.setup.pulseWidth * 120)
     let last := s.queued b = false ∧ ∀ d, d ≠ b → s.latching d = true → s.valve d ≠ .unknown ∧ s.queued d = false
     ∃ t, exec .pulseEnd s = .next t ∧ t.now = ends ∧ t.valve b = .closed ∧ t.pw = s.pw
       ∧ (s.sl.clashNoted = false → t.bc = s.bc)
       ∧ (s.latching b = true → ¬ last → t.sl = s.sl ∧ t.vd.check = .closure ∧ t.tq.tallySince = s.tq.tallySince)
       ∧ (last → t.vd.check = .done ∧ t.sl.listenSince = ends ∧ t.tq.tallySince = some ends
           ∧ t.sl.station = (if s.sl.clashNoted = true then .barred else .listening)
           ∧ (s.tq.queue.length < 6 → ∃ q ∈ t.tq.queue, q.notice = .tally)))
  ∧
  (∀ (x : Nat) (s : State), Settled s → s.live = true → s.vd.generator = .recovery x →
     let ends := max s.now (x + 100 * 12)
     ∃ t, exec .recoveryEnd s = .next t
       ∧ (∀ b l, s.vd.closures = b :: l → AfterAlerts { s with
           now := ends, vd.closures := l, vd.generator := .pulse ⟨b, .closes⟩ true ends } t)
       ∧ (∀ r l, s.vd.closures = [] → s.vd.supply = .good → s.vd.queue = r :: l → AfterAlerts { s with
           now := ends, vd.queue := l, vd.generator := .pulse r false ends } t)
       ∧ (s.vd.closures = [] → s.vd.supply ≠ .good ∨ s.vd.queue = [] →
           AfterAlerts { s with now := ends, vd.generator := .idle } t))

/-- PULL_IN_END without a close waiting: the valve is OPEN and its channel holds, with the scaled duty pending (R134,
R135). PWM_PERIOD_BOUNDARY makes pending duties active; COIL_SUPPLY_MEASUREMENT writes new pending ones (R135). The
hold duty lies from 20 to 100 percent, gives at least the setup's share of 24.0 V wherever it is below 100, and is the
least whole percent above 20 that does (R135). That a channel in pull-in takes a pending duty is the model's reading (log
24); that a period boundary moves no time (log 41) and that measurements come exactly 1 s apart (log 43) are its choices. -/
def Obligations.HeldValvesPullInAndHold : Prop :=
  (∀ (b : BedId) (x volts : Nat) (s : State), Settled s → s.live = true →
     (∀ c, s.channelOf b = some c → c.phase = .pullIn x false → (s.bed b).state = .opening →
       ∃ t, exec (.pullInEnd b) s = .next t ∧ t.now = max s.now (x + s.sl.setup.pullIn * 120) ∧ t.valve b = .opened
         ∧ t.channelOf b = some { c with
             phase := .hold, active := none, pending := some (dutyAt (s.setupOf b).duty s.vd.coilVolts) }
         ∧ (t.bed b).state = (if (s.setupOf b).confirm = .immediate then .running else .confirming)
         ∧ (∀ d, d ≠ b → t.bed d = s.bed d ∧ t.valve d = s.valve d) ∧ t.sb = s.sb ∧ t.pw = s.pw)
     ∧ (∃ t, exec (.coilSupplyMeasurement volts) s = .next t
       ∧ AfterAlerts { s with
           now := max s.now (s.vd.measureSince + 12000), vd.coilVolts := volts,
           vd.measureSince := max s.now (s.vd.measureSince + 12000),
           vd.channelA := s.vd.channelA.map fun c => { c with pending := some (dutyAt (s.setupOf c.bed).duty volts) },
           vd.channelB := s.vd.channelB.map fun c => { c with pending := some (dutyAt (s.setupOf c.bed).duty volts) } } t)
     ∧ (∃ t, exec .pwmPeriodBoundary s = .next t
       ∧ AfterAlerts { s with
           vd.channelA := s.vd.channelA.map Channel.boundary, vd.channelB := s.vd.channelB.map Channel.boundary } t))
  ∧
  (∀ duty volts : Nat, 0 < volts →
     20 ≤ dutyAt duty volts ∧ dutyAt duty volts ≤ 100
       ∧ (dutyAt duty volts < 100 → duty * 240 ≤ dutyAt duty volts * volts)
       ∧ (20 < dutyAt duty volts → (dutyAt duty volts - 1) * volts < duty * 240))

/-- CLOSED for a bed in CLOSING: a FREE is queued, the own entry leaves, and the end cause chooses the next state (R124),
for a run within the limits of R125 with no order kept, no targets pending and no broken probe. The run clock's phase is the
model's choice (log 43). -/
def Obligations.ClosedBedGoesWhereItsCauseSays : Prop :=
  ∀ (b : BedId) (r : Run) (c : EndCause) (s : State), (s.bed b).state = .closing → (s.bed b).run = some r →
    r.endCause = some c → r.keptOrder = none → (s.bed b).targets = none → s.brokenProbe b = false → r.cycle < 12 →
    s.runClock - r.startMinute < 1440 → s.sl.station = .active →
    let t := s.bedClosed b
    t.hasEntry s.sl.own b.val = false ∧ t.tq.queue = s.tq.queue ++ [⟨.free b.val, 0, false⟩] ∧ t.peers = s.peers
      ∧ (∀ d, d ≠ b → t.bed d = s.bed d)
      ∧ (c = .cycleDone → 0 < (s.setupOf b).soak → (t.bed b).state = .soaking ∧ (t.bed b).run = some r)
      ∧ (c = .cycleDone → (s.setupOf b).soak = 0 →
          (t.bed b).state = .waiting ∧ (t.bed b).backoffEnd = none ∧ (t.bed b).run = some r)
      ∧ (c = .needMet ∨ c = .wet ∨ c = .cap ∨ c = .skip ∨ c = .barred →
          (t.bed b).state = .idle ∧ (t.bed b).run = none ∧ (t.bed b).need = 0 ∧ (t.bed b).ordered = false
            ∧ (t.bed b).waitAge = 0)
      ∧ (c = .hold ∨ c = .line ∨ c = .overdraw ∨ c = .shed ∨ c = .supply →
          (t.bed b).state = .waiting ∧ (t.bed b).backoffEnd = some (s.now + 30 * 12000) ∧ (t.bed b).run = some r)
      ∧ (c = .leak → (t.bed b).state = .faulted ∧ (t.bed b).fault = some .leak ∧ (t.bed b).run = none)
      ∧ (c = .noflow → (t.bed b).state = .faulted ∧ (t.bed b).fault = some .noflow ∧ (t.bed b).run = none)

/-! ### The flow monitor -/

/-- FLOW_EDGE adds a pulse, captures a running counter's interval and starts it again; FLOW_FILTERED_LEVEL_CHANGE is no
edge; EDGE_COUNTER_OVERFLOW stops the counter and discards the interval (R145, R146). The filter is inside the rows (log
25). The model's choice: whole milliseconds count from the edge, and the overflow comes 65535 ms after it (log 42). -/
def Obligations.FlowEdgesCountAndTime : Prop :=
  ∀ (x : Nat) (s : State), Settled s → s.live = true → 0 < s.sl.setup.pulsesPerLitre →
    let at' := max s.now (s.fm.levelSince + 2 * 12)
    (s.fm.level = s.sl.setup.fallingEdge → s.fm.edge = .running x → (at' - x) / 12 < 65535 →
      ∃ t, exec .flowEdge s = .next t ∧ AfterAlerts { s with
        now := at', fm.level := !s.fm.level, fm.levelSince := at', fm.pulses := s.fm.pulses + 1,
        fm.edge := .running at', fm.lastInterval := some ((at' - x) / 12) } t)
    ∧ (s.fm.level = s.sl.setup.fallingEdge → s.fm.edge = .stopped x →
      ∃ t, exec .flowEdge s = .next t ∧ AfterAlerts { s with
        now := at', fm.level := !s.fm.level, fm.levelSince := at', fm.pulses := s.fm.pulses + 1,
        fm.edge := .running at' } t)
    ∧ (s.fm.level ≠ s.sl.setup.fallingEdge →
      ∃ t, exec .flowFilteredLevelChange s = .next t ∧ AfterAlerts { s with
        now := at', fm.level := !s.fm.level, fm.levelSince := at' } t)
    ∧ (s.fm.edge = .running x → ∃ t, exec .edgeCounterOverflow s = .next t ∧ AfterAlerts { s with
        now := max s.now (x + 65535 * 12), fm.edge := .stopped 65535, fm.lastInterval := none } t)

/-- RATE_WINDOW_END: the next window begins, and the window's volume, ten steps a pulse and the carry, shared by
pulses per litre, is shared among the beds that take credits by their nominal flows, the rest to the lowest-numbered
(R118, R147, R148); an unmetered bed takes its nominal flow of 5 s, with its carry of twelfths (R148). A credit raises delivered
today, held at 2000.0 L, delivered this run and cycle delivered, and lowers the debt, no further than 0 (R118). The cycle ends
with the first end test that holds of the bed so credited: its bed is in CLOSING while the valve is still to close, a held valve
is CLOSED at once with its FREE; where none holds, or the credit is 0, the bed goes on with its run so credited, or the same
event ends its cycle by a branch check or a cut (R116, R118, R120, R122). The
metered shares of a volume add up to it, each bed has at least its whole part, and all but the first exactly that (R148).

The branch checks and the draw entry, with the window's pulses p, the pulses per litre k and the flow E that the RUNNING
beds make expected, in 0.5 L/min steps. A check counts a steady window that meets its condition, goes back to 0 at any
other, and fires at the third in a row: LEAK above 1.25 times E and 1.0 L/min, NOFLOW below half of E, each with its
pending cause, its fault and every RUNNING bed's cycle at its end; STUCK from 1.0 L/min on with no valve active, with its
pending cause and the draw entry (R57, R152 to R155). In DRAWING the entry is refreshed, kept, or after three quiet
windows removed with a FREE for bed 8 (R57, R156). The model's own: the NOFLOW check's value is rounded down (log 44), a
carried value stops at 65535 (log 29), a window that places the entry does not refresh it (log 21), a refresh leaves the
entry's heard time (log 38), and a window ends exactly 5 s after it began (log 43). -/
def Obligations.RateWindowCreditsItsVolume : Prop :=
  (∀ (s : State), BedsSound s → s.live = true →
     let k := s.sl.setup.pulsesPerLitre
     let volume := (10 * s.fm.pulses + s.fm.carry) / k
     let part := fun b : BedId => volume * (s.setupOf b).flow / (s.creditedBeds.map fun d => (s.setupOf d).flow).sum
     let credit := fun b : BedId =>
       if k = 0 then (5 * (s.setupOf b).flow + s.fm.bedCarry.get b) / 12
       else if s.creditedBeds.head? = some b then volume - (s.creditedBeds.tail.map part).sum else part b
     ∃ t, exec .rateWindowEnd s = .next t
     ∧ t.now = max s.now (s.fm.windowSince + 5 * 12000) ∧ t.fm.pulses = 0 ∧ t.fm.lastWindow = some (s.fm.pulses, t.now)
     ∧ t.fm.windowSince = t.now ∧ t.pw = s.pw ∧ t.peers = s.peers ∧ t.li = s.li ∧ t.sl = s.sl
     ∧ (∀ b ∈ s.creditedBeds, (t.bed b).delivered = min ((s.bed b).delivered + credit b) 20000
         ∧ (t.bed b).debt = (s.bed b).debt - credit b)
     ∧ (∀ d, (s.bed d).state.credited = false →
         (t.bed d).delivered = (s.bed d).delivered ∧ (t.bed d).debt = (s.bed d).debt)
     ∧ (0 < k → t.fm.carry = if s.creditedBeds = [] then 0 else (10 * s.fm.pulses + s.fm.carry) % k)
     ∧ (k = 0 → ∀ b ∈ s.creditedBeds, (t.bed b).state.credited = true →
         t.fm.bedCarry.get b = (5 * (s.setupOf b).flow + s.fm.bedCarry.get b) % 12)
     ∧ (Settled s → ClaimSound s → ∀ b ∈ s.creditedBeds, ∀ r, (s.bed b).run = some r →
         let r' := { r with delivered := r.delivered + credit b, cycleDelivered := r.cycleDelivered + credit b }
         let x := { s.bed b with
           delivered := min ((s.bed b).delivered + credit b) 20000, debt := (s.bed b).debt - credit b, run := some r' }
         (∀ c, 0 < credit b → endTest (s.setupOf b) x r' = some c →
             (t.bed b).state ≠ .confirming ∧ (t.bed b).state ≠ .running
               ∧ (s.valve b = .opened → (s.setupOf b).kind = .latch → CycleEnded b r' c s t)
               ∧ (s.valve b = .opened → (s.setupOf b).kind = .held → s.sl.station ≠ .unconfigured →
                   t.valve b = .closed ∧ t.hasEntry s.sl.own b.val = false ∧ ∃ q ∈ t.tq.queue, q.notice = .free b.val))
           ∧ (credit b = 0 ∨ endTest (s.setupOf b) x r' = none →
               ((t.bed b).state.credited = true → (t.bed b).run = some r')
               ∧ (s.valve b = .opened → (s.setupOf b).kind = .latch → (t.bed b).state.credited = true
                   ∨ ∃ c, (c = .leak ∨ c = .noflow ∨ c = .overdraw ∨ c = .line ∨ c = .shed) ∧ CycleEnded b r' c s t))))
  ∧
  (∀ (v f : Nat) (flows : List Nat), 0 < f →
     let total := (f :: flows).sum
     (shares v total (f :: flows)).sum = v ∧ (shares v total (f :: flows)).length = flows.length + 1
       ∧ (shares v total (f :: flows)).tail = (flows.map fun g => v * g / total)
       ∧ ∀ x ∈ (shares v total (f :: flows)).head?, v * f / total ≤ x)
  ∧
  (∀ s : State, Settled s → s.live = true → ClaimSound s →
     let ends := max s.now (s.fm.windowSince + 5 * 12000)
     let p := s.fm.pulses
     let k := s.sl.setup.pulsesPerLitre
     let runs := allBeds.filter fun b => decide ((s.bed b).state = .running)
     let expected := (runs.map fun b => (s.setupOf b).flow).sum
     let steady := 0 < k ∧ s.fm.lastTransient + 10 * 12000 ≤ ends ∧ ∀ b,
       (s.bed b).state ≠ .opening ∧ (s.bed b).state ≠ .confirming ∧ (s.bed b).state ≠ .closing
         ∧ ((s.bed b).state ≠ .off → s.valve b ≠ .unknown)
     let active := ∃ b, s.valve b = .opening ∨ s.valve b = .opened ∨ s.valve b = .closing
     let leaks := steady ∧ runs ≠ [] ∧ (5 * expected + 8) * k < 96 * p
     let starves := steady ∧ runs ≠ [] ∧ 48 * p < expected * k
     let flows := steady ∧ ¬ active ∧ k ≤ 12 * p ∧ s.fm.drawing = false ∧ s.sl.station ≠ .barred
     ∃ t, exec .rateWindowEnd s = .next t ∧ t.now = ends
       ∧ (0 < k →
           (¬ leaks ∨ 2 ≤ s.fm.leakRun → t.fm.leakRun = 0)
           ∧ (leaks → s.fm.leakRun < 2 → t.fm.leakRun = s.fm.leakRun + 1)
           ∧ (¬ starves ∨ 2 ≤ s.fm.noflowRun → t.fm.noflowRun = 0)
           ∧ (starves → s.fm.noflowRun < 2 → t.fm.noflowRun = s.fm.noflowRun + 1)
           ∧ (¬ flows ∨ 2 ≤ s.fm.stuckRun → t.fm.stuckRun = 0)
           ∧ (flows → s.fm.stuckRun < 2 → t.fm.stuckRun = s.fm.stuckRun + 1 ∧ t.fm.drawing = false))
       ∧ (k = 0 → t.fm.leakRun = s.fm.leakRun ∧ t.fm.noflowRun = s.fm.noflowRun ∧ t.fm.stuckRun = s.fm.stuckRun
           ∧ t.fm.drawing = s.fm.drawing ∧ t.fm.quiet = s.fm.quiet)
       ∧ (∀ (f : BedFault) (c : EndCause), (f = BedFault.leak ∧ c = EndCause.leak ∧ leaks ∧ 2 ≤ s.fm.leakRun)
             ∨ (f = .noflow ∧ c = .noflow ∧ starves ∧ 2 ≤ s.fm.noflowRun) →
           (t.latch f.cause).pending = true ∧ (t.latch f.cause).value = word16 (24 * p / k)
           ∧ (∀ b rest, runs = b :: rest → (t.latch f.cause).bed = b.val
               ∧ (s.au.record = none → t.au.record
                   = some ⟨f.cause, b.val, 0, 0, word16 (24 * p / k), word16 expected, s.clockMinute⟩))
           ∧ (s.au.record ≠ none → t.au.record = s.au.record ∧ t.au.more = true)
           ∧ ∀ b ∈ runs, (t.bed b).state ≠ .running ∧ (t.bed b).state ≠ .confirming
               ∧ ∀ r, (s.bed b).run = some r → r.delivered + (10 * p + s.fm.carry) / k < r.need →
                   r.cycleDelivered + (10 * p + s.fm.carry) / k < 10 * (s.setupOf b).cycle →
                   (s.bed b).delivered + (10 * p + s.fm.carry) / k < 10 * (s.setupOf b).cap → s.valve b = .opened →
                   ((s.setupOf b).kind = .latch → (t.bed b).state = .closing ∧ t.valve b = .closing
                     ∧ (t.bed b).run.map (·.endCause) = some (some c))
                   ∧ ((s.setupOf b).kind = .held → (t.bed b).state = .faulted ∧ t.valve b = .closed
                     ∧ (t.bed b).fault = some f))
       ∧ (flows → 2 ≤ s.fm.stuckRun → t.fm.drawing = true ∧ t.fm.quiet = 0
           ∧ (t.latch .stuck).pending = true ∧ (t.latch .stuck).bed = 8
           ∧ (t.latch .stuck).value = word16 (match s.fm.lastInterval with | none => 0 | some i => 120000 / (i * k))
           ∧ (runs = [] → ends < s.li.lossSince + 25 * 12000 ∨ s.bc.holds.line = true →
               t.au.record = s.au.record ∧ t.au.more = s.au.more))
       ∧ ((flows ∧ 2 ≤ s.fm.stuckRun) ∨ (0 < k ∧ s.fm.drawing = true ∧ ¬ active ∧ k ≤ 24 * p) →
           t.fm.drawing = true ∧ t.fm.quiet = 0
           ∧ (∀ e, s.ownEntry 8 = some e → t.ownEntry 8 = some { e with flow := (24 * p + k - 1) / k })
           ∧ (s.ownEntry 8 = none → s.sb.book.length < 32 →
               t.ownEntry 8 = some ⟨s.sl.own, 8, (24 * p + k - 1) / k, .normal, true, 0, ends⟩)
           ∧ (s.ownEntry 8 = none → s.sb.book.length = 32 → s.creditedBeds = [] →
               t.ownEntry 8 = none ∧ (t.latch .saturated).pending = true ∧ (t.latch .saturated).value = 32))
       ∧ (0 < k → s.fm.drawing = true → active →
           t.fm.drawing = true ∧ t.fm.quiet = s.fm.quiet ∧ t.ownEntry 8 = s.ownEntry 8)
       ∧ (0 < k → s.fm.drawing = true → ¬ active → 24 * p < k →
           (s.fm.quiet < 2 → t.fm.drawing = true ∧ t.fm.quiet = s.fm.quiet + 1 ∧ t.ownEntry 8 = s.ownEntry 8)
           ∧ (2 ≤ s.fm.quiet → t.fm.drawing = false ∧ t.fm.quiet = 0 ∧ t.ownEntry 8 = none
               ∧ (s.ownEntry 8 ≠ none → s.sl.station ≠ .unconfigured → ∃ q ∈ t.tq.queue, q.notice = .free 8))))

/-- A credit's end tests, in order: NEED MET, CAP unless ordered, CYCLE DONE (R116). RateWindowCreditsItsVolume says what a
credit does by them. -/
def Obligations.EndTestsInOrder : Prop :=
  ∀ (u : BedSetup) (x : Bed) (r : Run),
    (endTest u x r = some .needMet ↔ r.need ≤ r.delivered)
    ∧ (endTest u x r = some .cap ↔ r.delivered < r.need ∧ x.ordered = false ∧ 10 * u.cap ≤ x.delivered)
    ∧ (endTest u x r = some .cycleDone ↔ r.delivered < r.need ∧ (x.ordered = true ∨ x.delivered < 10 * u.cap)
        ∧ 10 * u.cycle ≤ r.cycleDelivered)
    ∧ (endTest u x r = none ↔ r.delivered < r.need ∧ (x.ordered = true ∨ x.delivered < 10 * u.cap)
        ∧ r.cycleDelivered < 10 * u.cycle)

/-- CONFIRM_TIMER_EXPIRY takes a bed in CONFIRMING to RUNNING; CONFIRM_LIMIT at 60 s takes it out of both, with NOFLOW
pending and its fault (R115, R149, R151). RATE_WINDOW_END confirms a bed in CONFIRMING under a flow-based mode where this
window and the one before qualify for it and their rates agree, and leaves it in CONFIRMING where not (R150). The model's
choices: a window that ends at the moment of OPEN does not qualify (log 49), windows end exactly 5 s apart (log 43), and
values have sixteen bits (log 29). -/
def Obligations.ConfirmTimersDecide : Prop :=
  (∀ (b : BedId) (x : Nat) (s : State), Settled s → s.live = true → s.fm.confirms.get b = some x →
     (s.bed b).state = .confirming →
     (∀ d, settleConfirm (s.setupOf b).confirm s.metered = some d → ∃ t, exec (.confirmTimerExpiry b) s = .next t
       ∧ t.now = max s.now (x + d) ∧ (t.bed b).state = .running ∧ (t.bed b).run = (s.bed b).run
       ∧ t.fm.confirms.get b = none ∧ (∀ e, e ≠ b → t.bed e = s.bed e) ∧ t.sb = s.sb ∧ t.vd = s.vd ∧ t.pw = s.pw)
     ∧ (s.flowMode b = true → ∃ t, exec (.confirmLimit b) s = .next t ∧ t.now = max s.now (x + 60 * 12000)
       ∧ (t.bed b).state ≠ .confirming ∧ (t.bed b).state ≠ .running
       ∧ (t.latch .noflow).pending = true ∧ (t.latch .noflow).bed = b.val ∧ (t.latch .noflow).value = word16 s.lastRate
       ∧ (s.au.record = none → t.au.record
           = some ⟨.noflow, b.val, 0, 0, word16 s.lastRate, word16 (s.setupOf b).flow, s.clockMinute⟩)
       ∧ t.pw = s.pw ∧ t.peers = s.peers))
  ∧
  (∀ (b : BedId) (r : Run) (opened q e : Nat) (s : State), Settled s → s.live = true → 0 < s.sl.setup.pulsesPerLitre →
     s.creditedBeds = [b] → (s.bed b).state = .confirming → s.fm.confirms.get b = some opened →
     s.fm.lastWindow = some (q, e) → s.fm.drawing = false → (s.bed b).run = some r →
     let k := s.sl.setup.pulsesPerLitre
     let p := s.fm.pulses
     let volume := (10 * p + s.fm.carry) / k
     r.delivered + volume < r.need → r.cycleDelivered + volume < 10 * (s.setupOf b).cycle →
     (s.bed b).delivered + volume < 10 * (s.setupOf b).cap →
     let ends := max s.now (s.fm.windowSince + 5 * 12000)
     let after := match (s.setupOf b).confirm with
       | .flowOnly => opened < e ∧ opened < ends
       | .settleThenFlow => opened + 5 * 12000 ≤ e ∧ opened + 5 * 12000 ≤ ends
       | .immediate | .oneSettle | .twoSettle => False
     let stable := 10 * (max q p - min q p) ≤ min q p ∧ k ≤ 24 * p
     ∃ t, exec .rateWindowEnd s = .next t
       ∧ (after → stable → (t.bed b).state = .running)
       ∧ (¬ (after ∧ stable) → (t.bed b).state = .confirming ∧ t.fm.confirms.get b = some opened))

/-! ### Needs, the wait queue, the book's checks -/

/-- Under probe rules the urgency of a need follows the wetness: SEVERE at or below the floor, DRY at or below the active
start less 10, NORMAL otherwise; with a room of 0 there is no need and no urgency (R91). -/
def Obligations.ProbeUrgencyFollowsTheWetness : Prop :=
  ∀ (u : BedSetup) (x : Bed) (cls room w : Nat),
    (∀ n v, probeNeed u x cls room w = some (n, v) →
      (w ≤ u.floor → v = .severe)
      ∧ (u.floor < w → (w : Int) ≤ (x.start : Int) - 10 → v = .dry)
      ∧ (u.floor < w → (x.start : Int) - 10 < (w : Int) → v = .normal))
    ∧ probeNeed u x cls 0 w = none

/-- Under probe rules the effective start is the active start plus twice the class, at most one below the stop; the
need is the smaller of (stop − w) × litres per point and the room, none above the effective start and none at 0.0 L
(R90). Under debt rules a need stands at a debt at or above the run threshold; it is the smaller of debt and room, DRY
at twice the threshold, NORMAL below, never SEVERE (R94). -/
def Obligations.NeedsFollowWetnessAndDebt : Prop :=
  (∀ (u : BedSetup) (x : Bed) (cls room w : Nat), 0 < x.stop →
     (w > min (x.start + 2 * cls) (x.stop - 1) → probeNeed u x cls room w = none)
     ∧ (w ≤ min (x.start + 2 * cls) (x.stop - 1) →
         (min ((x.stop - w) * u.litresPerPoint) room = 0 → probeNeed u x cls room w = none)
         ∧ (0 < min ((x.stop - w) * u.litresPerPoint) room →
             ∃ v, probeNeed u x cls room w = some (min ((x.stop - w) * u.litresPerPoint) room, v))))
  ∧
  (∀ threshold debt room : Nat,
     (debt < 10 * threshold → debtNeed threshold debt room = none)
     ∧ (min debt room = 0 → debtNeed threshold debt room = none)
     ∧ (10 * threshold ≤ debt → 0 < min debt room → 20 * threshold ≤ debt →
         debtNeed threshold debt room = some (min debt room, .dry))
     ∧ (10 * threshold ≤ debt → 0 < min debt room → debt < 20 * threshold →
         debtNeed threshold debt room = some (min debt room, .normal)))

/-- The wait queue holds each bed in WAITING once and no other, ordered by urgency, then wait age, then number (R96). -/
def Obligations.WaitQueueIsOrdered : Prop :=
  ∀ s : State, s.waitQueue.Nodup ∧ (∀ b, b ∈ s.waitQueue ↔ (s.bed b).state = .waiting)
    ∧ s.waitQueue.Pairwise fun a b =>
        Urgency.rank (s.bed b).urgency < Urgency.rank (s.bed a).urgency
          ∨ (s.bed a).urgency = (s.bed b).urgency
            ∧ ((s.bed b).waitAge < (s.bed a).waitAge ∨ (s.bed a).waitAge = (s.bed b).waitAge ∧ a < b)

/-- The overdraw walk: no entry is over while the COMMITTED flows fit the budget; else the first COMMITTED entry that takes
their running sum above it, and every COMMITTED entry after it, are over. The cuts are made on entries so decided (R53). Another
station's entry, the draw entry and one whose bed is in no cycle are not cut. An own one's cycle ends with cause OVERDRAW, its
need kept, its entry still in the book until the valve closes; a bed whose valve shuts at once loses its entry then, its FREE
queued, and goes back to WAITING with a 30 s backoff, said for a run within the limits, on the first day after LOADING (R54, R55,
R56, R120, R124, R125). -/
def Obligations.OverdrawFindsTheFirstOverEntry : Prop :=
  ∀ (budget : Nat) (book : List Entry) (s : State),
    (overEntries budget 0 book = [] ↔ ((book.filter (·.committed)).map (·.flow)).sum ≤ budget ∨ ∀ e ∈ book, e.committed = false)
    ∧ (∀ before e after, book = before ++ e :: after → e.committed = true →
        ((before.filter (·.committed)).map (·.flow)).sum ≤ budget ∨ (∀ d ∈ before, d.committed = false) →
        budget < ((before.filter (·.committed)).map (·.flow)).sum + e.flow →
        overEntries budget 0 book = (e :: after).filter (·.committed))
    ∧ s.overdraw = (overEntries s.sb.budget 0 s.sb.book).foldl (fun t e => t.cutOver e) s
    ∧ (∀ e, e.station ≠ s.sl.own ∨ bedOf e.bed = none → s.cutOver e = s)
    ∧ (∀ e b, e.station = s.sl.own → bedOf e.bed = some b →
        ((s.bed b).state.cycling = false → s.cutOver e = s)
        ∧ ((s.bed b).state.cycling = true →
            ((s.cutOver e).bed b).state.cycling = false ∧ (∀ d, d ≠ b → (s.cutOver e).bed d = s.bed d)
              ∧ (s.cutOver e).peers = s.peers
              ∧ (¬ s.shutsAtOnce b → (s.cutOver e).sb.book = s.sb.book ∧ (s.cutOver e).tq = s.tq
                  ∧ ∀ r, (s.bed b).run = some r → CycleEnded b r .overdraw s (s.cutOver e))
              ∧ (s.shutsAtOnce b → (s.cutOver e).hasEntry s.sl.own b.val = false ∧ (s.cutOver e).valve b = .closed
                  ∧ (s.sl.station = .active → s.brokenProbe b = false →
                      ∀ r, (s.bed b).run = some r → r.keptOrder = none → (s.bed b).targets = none → r.cycle < 12 →
                        s.now < s.sl.loadingEnd + 1439 * 720000 →
                      ((s.cutOver e).bed b).state = .waiting
                        ∧ ((s.cutOver e).bed b).backoffEnd = some (s.now + 30 * 12000)
                        ∧ ((s.cutOver e).bed b).run = some { r with endCause := some .overdraw }
                        ∧ (s.cutOver e).tq.queue = s.tq.queue ++ [⟨.free b.val, 0, false⟩]))))

/-- The victim of a shed is the latest entry in book order that is COMMITTED, NORMAL, of a valve bed, of a flow at least
the shortfall and of an age at most the claim's (R73). -/
def Obligations.VictimIsTheLatestThatQualifies : Prop :=
  ∀ (shortfall age : Nat) (book : List Entry),
    let good := fun e : Entry =>
      e.committed = true ∧ e.urgency = .normal ∧ e.bed ≤ 7 ∧ shortfall ≤ e.flow ∧ e.age ≤ age
    (victimOf shortfall age book = none ↔ ∀ e ∈ book, ¬ good e)
    ∧ ∀ e, victimOf shortfall age book = some e ↔
        ∃ before after, book = before ++ e :: after ∧ good e ∧ ∀ d ∈ after, ¬ good d

/-! ### The line's bits -/

/-- The check of R4 as one fold over the bits, least significant first in each byte, in a register of 16 bits, and its
place in a frame: low byte, then high byte, after the covered bytes; the receiver compares the same. -/
def Obligations.FramesCarryTheirCheck : Prop :=
  let shift := fun (r : Nat) (bit : Bool) =>
    if (r.testBit 15) = bit then 2 * r % 65536 else (2 * r % 65536) ^^^ 0x1021
  let register := fun covered : List Byte =>
    (covered.flatMap fun x => [0, 1, 2, 3, 4, 5, 6, 7].map fun i => x.getLsbD i).foldl shift 0xFFFF
  (∀ covered : List Byte, (check covered).toNat = register covered)
  ∧ ∀ (src tgt kind : Nat) (p : List Byte), p.length ≤ 24 →
      let covered := byte kind :: byte src :: byte tgt :: byte p.length :: p
      frameBytes src tgt kind p = byte 0x6B :: covered ++ [byte (register covered % 256), byte (register covered / 256)]
        ∧ checkMatches (frameBytes src tgt kind p) = true

/-- A frame of a peer or a panel, laid out from any well-formed command of theirs, is read back to that command by every
station it is addressed to that does not bear the sender's number: no bit of a payload is dropped (section 2.1, R16, R20).
A malformed notice's payload is read back too. Which budgets are well-formed in a TALLY is in part the model's choice (log
47). -/
def Obligations.FramesReadBackToTheirCommand : Prop :=
  ∀ (own : Nat) (i : Instr) (f : List Byte), i.wf = true → i.frame = some f → i.route.1 ≠ own →
    i.route.2 = 0 ∨ i.route.2 = own → frameCommand own f = i

/-! ### What every step keeps -/

/-- The bounds of the manual hold after reset, and no event is half done (log 8). -/
def Obligations.ResetIsSoundAndSettled : Prop := Sound State.reset ∧ Settled State.reset

/-- Every step keeps these bounds: no two entries of one name and at most 32, one TALLY and six general notices, the beds'
volumes and wait ages, one pulse request a bed and four valves still to close, the two counts, the effective budget, one
presence row a station, the period counter, the clock's minute, the buckets and the rings, the branch checks' counts and
carries. Every step ends with no book change and no offer occasion left over (the model's own marks, log 8). -/
def Obligations.EveryStepKeepsTheBounds : Prop :=
  (∀ s t : State, Sound s → step s = .next t → Sound t)
  ∧
  (∀ s t : State, Settled s → step s = .next t → Settled t)

/-- A locked fault record changes only by CLEAR ALL or a cold start (R177). A pending cause stays pending until a
CLEAR or a cold start (R173, R176, R188). -/
def Obligations.LockedRecordAndPendingCausesStay : Prop :=
  (∀ (i : Instr) (f : FaultInfo) (s t : State), s.au.record = some f → i ≠ .coldStart →
     (∀ src tgt sel, i ≠ .clear src tgt sel 0) → exec i s = .next t → t.au.record = some f)
  ∧
  (∀ (i : Instr) (c : Cause) (s t : State), (s.latch c).pending = true → i ≠ .coldStart →
     (∀ src tgt sel n, i ≠ .clear src tgt sel n) → exec i s = .next t → (t.latch c).pending = true)

/-- The setup and the station number in use change at a start alone (R84, R188). The station state changes by the
table of R184 alone: COLD_START and WARM_START lead to LOADING, and no other command does. -/
def Obligations.StationStateAndSetupChangeByTheTable : Prop :=
  (∀ (i : Instr) (s t : State), Instr.isStart i = false → exec i s = .next t →
     t.sl.setup = s.sl.setup ∧ t.sl.own = s.sl.own)
  ∧
  (∀ (i : Instr) (s t : State), i ≠ .coldStart → i ≠ .warmStart → exec i s = .next t →
     s.sl.station.mayBecome t.sl.station = true)
  ∧
  (∀ (i : Instr) (s t : State), i = .coldStart ∨ i = .warmStart → exec i s = .next t → t.sl.station = .loading)

/-- Delivered today falls at a day boundary and at a cold start alone (R92, R102). -/
def Obligations.DeliveredFallsAtADayBoundaryAlone : Prop :=
  ∀ (i : Instr) (s t : State), i ≠ .coldStart → i ≠ .dayRollover → i ≠ .hourBoundary →
    (∀ image f r, i ≠ .setupImageRead image f r) → exec i s = .next t →
    ∀ b, min (s.bed b).delivered 20000 ≤ (t.bed b).delivered

/-- ATTN follows the latches: the square wave while a cause is pending, driven while only the record is locked, released
otherwise and while RSTN is low; RSTN_RETURNS_HIGH and ATTN_TOGGLE (R178, R188). -/
def Obligations.AttnFollowsTheLatches : Prop :=
  ∀ s : State,
    (s.sl.rstnLow = true → s.attn = false ∧ exec .rstnReturnsHigh s
      = .next { s with sl.rstnLow := false, au.half := s.anyPending, au.halfSince := s.now })
    ∧ (s.sl.rstnLow = false → s.anyPending = false → s.attn = s.au.record.isSome)
    ∧ (s.sl.rstnLow = false → s.anyPending = true → ∃ t, exec .attnToggle s
        = .next { s with au.half := !s.au.half, now := t, au.halfSince := t } ∧ t = max s.now (s.au.halfSince + 250 * 12)
        ∧ State.attn { s with au.half := !s.au.half, now := t, au.halfSince := t } = !s.attn)

/-- Every step keeps at most four valves in OPENING, OPEN or CLOSING and at most two of them held, each with its own
COMMITTED entry in the book and with its bed in a cycle or in CLOSING (R56, R114, R130). What carries this from step to step
is kept with it: the claim exchange's phases and notices, and what the valve drive's requests, pulses and channels may
move. It holds after reset. That an open request is refused while a close of its bed runs is the model's choice (log 46). -/
def Obligations.EveryStepKeepsTheValveBounds : Prop :=
  (∀ s t : State, ValvesSound s → step s = .next t → ValvesSound t)
  ∧
  ValvesSound State.reset
end

