-- ==== Sys2Proof/Laws/State.lean ====
section
/-! SUPPORT. Reading back what was just written: per-bed values, latches, and one lemma per field for each named update,
so that no proof unfolds a record update. -/

namespace Sys2Proof.Machine

/-! ### Per-bed values and latches -/

@[simp] theorem PerBed.get_set_same {α : Type} (p : PerBed α) (b : BedId) (a : α) : (p.set b a).get b = a := by
  fin_cases b <;> rfl

theorem PerBed.get_set {α : Type} (p : PerBed α) (b c : BedId) (a : α) :
    (p.set b a).get c = if c = b then a else p.get c := by
  fin_cases b <;> fin_cases c <;> rfl

@[simp] theorem PerBed.get_set_ne {α : Type} (p : PerBed α) {b c : BedId} (a : α) (h : c ≠ b) :
    (p.set b a).get c = p.get c := by
  simp [PerBed.get_set, h]

@[simp] theorem PerBed.get_const {α : Type} (a : α) (b : BedId) : (PerBed.const a).get b = a := by
  fin_cases b <;> rfl

@[simp] theorem PerBed.get_map {α β : Type} (f : BedId → α → β) (p : PerBed α) (b : BedId) :
    (p.map f).get b = f b (p.get b) := by
  fin_cases b <;> rfl

theorem Latches.get_set (l : Latches) (c d : Cause) (x : Latch) :
    (l.set c x).get d = if d = c then x else l.get d := by
  cases c <;> cases d <;> rfl

@[simp] theorem Latches.get_set_same (l : Latches) (c : Cause) (x : Latch) : (l.set c x).get c = x := by
  simp [Latches.get_set]

theorem Cause.mem_all (c : Cause) : c ∈ Cause.all := by cases c <;> decide

theorem mem_allBeds (b : BedId) : b ∈ allBeds := by fin_cases b <;> decide

/-! ### A bed's record is changed -/

@[simp] theorem State.bed_modBed_same (b : BedId) (f : Bed → Bed) (s : State) : (s.modBed b f).bed b = f (s.bed b) := by
  simp [State.modBed, State.putBed, State.bed]

theorem State.bed_modBed (b c : BedId) (f : Bed → Bed) (s : State) :
    (s.modBed b f).bed c = if c = b then f (s.bed b) else s.bed c := by
  simp [State.modBed, State.putBed, State.bed, PerBed.get_set]

@[simp] theorem State.modBed_now (b : BedId) (f : Bed → Bed) (s : State) : (s.modBed b f).now = s.now := rfl
@[simp] theorem State.modBed_sl (b : BedId) (f : Bed → Bed) (s : State) : (s.modBed b f).sl = s.sl := rfl
@[simp] theorem State.modBed_li (b : BedId) (f : Bed → Bed) (s : State) : (s.modBed b f).li = s.li := rfl
@[simp] theorem State.modBed_tq (b : BedId) (f : Bed → Bed) (s : State) : (s.modBed b f).tq = s.tq := rfl
@[simp] theorem State.modBed_sb (b : BedId) (f : Bed → Bed) (s : State) : (s.modBed b f).sb = s.sb := rfl
@[simp] theorem State.modBed_vd (b : BedId) (f : Bed → Bed) (s : State) : (s.modBed b f).vd = s.vd := rfl
@[simp] theorem State.modBed_fm (b : BedId) (f : Bed → Bed) (s : State) : (s.modBed b f).fm = s.fm := rfl
@[simp] theorem State.modBed_pw (b : BedId) (f : Bed → Bed) (s : State) : (s.modBed b f).pw = s.pw := rfl
@[simp] theorem State.modBed_au (b : BedId) (f : Bed → Bed) (s : State) : (s.modBed b f).au = s.au := rfl
@[simp] theorem State.modBed_holds (b : BedId) (f : Bed → Bed) (s : State) : (s.modBed b f).bc.holds = s.bc.holds := rfl
@[simp] theorem State.modBed_free (b : BedId) (f : Bed → Bed) (s : State) : (s.modBed b f).free = s.free := rfl
@[simp] theorem State.modBed_pending (b : BedId) (f : Bed → Bed) (s : State) : (s.modBed b f).pending = s.pending := rfl

/-! ### Time passes -/

@[simp] theorem State.advanceTo_now (t : Nat) (s : State) : (s.advanceTo t).now = max s.now t := rfl
@[simp] theorem State.advanceTo_sl (t : Nat) (s : State) : (s.advanceTo t).sl = s.sl := rfl
@[simp] theorem State.advanceTo_li (t : Nat) (s : State) : (s.advanceTo t).li = s.li := rfl
@[simp] theorem State.advanceTo_tq (t : Nat) (s : State) : (s.advanceTo t).tq = s.tq := rfl
@[simp] theorem State.advanceTo_sb (t : Nat) (s : State) : (s.advanceTo t).sb = s.sb := rfl
@[simp] theorem State.advanceTo_bc (t : Nat) (s : State) : (s.advanceTo t).bc = s.bc := rfl
@[simp] theorem State.advanceTo_vd (t : Nat) (s : State) : (s.advanceTo t).vd = s.vd := rfl
@[simp] theorem State.advanceTo_fm (t : Nat) (s : State) : (s.advanceTo t).fm = s.fm := rfl
@[simp] theorem State.advanceTo_pw (t : Nat) (s : State) : (s.advanceTo t).pw = s.pw := rfl
@[simp] theorem State.advanceTo_au (t : Nat) (s : State) : (s.advanceTo t).au = s.au := rfl
@[simp] theorem State.advanceTo_free (t : Nat) (s : State) : (s.advanceTo t).free = s.free := rfl
@[simp] theorem State.advanceTo_pending (t : Nat) (s : State) : (s.advanceTo t).pending = s.pending := rfl

/-! ### The book is changed; an offer occasion arises -/

@[simp] theorem State.putBook_book (l : List Entry) (s : State) : (s.putBook l).sb.book = l := rfl
@[simp] theorem State.putBook_dirty (l : List Entry) (s : State) : (s.putBook l).sb.dirty = true := rfl
@[simp] theorem State.putBook_presence (l : List Entry) (s : State) : (s.putBook l).sb.presence = s.sb.presence := rfl
@[simp] theorem State.putBook_budget (l : List Entry) (s : State) : (s.putBook l).sb.budget = s.sb.budget := rfl
@[simp] theorem State.putBook_claim (l : List Entry) (s : State) : (s.putBook l).sb.claim = s.sb.claim := rfl
@[simp] theorem State.putBook_bc (l : List Entry) (s : State) : (s.putBook l).bc = s.bc := rfl
@[simp] theorem State.putBook_tq (l : List Entry) (s : State) : (s.putBook l).tq = s.tq := rfl
@[simp] theorem State.putBook_sl (l : List Entry) (s : State) : (s.putBook l).sl = s.sl := rfl
@[simp] theorem State.putBook_au (l : List Entry) (s : State) : (s.putBook l).au = s.au := rfl

@[simp] theorem State.noteOccasion_occasion (s : State) : s.noteOccasion.bc.occasion = true := rfl
@[simp] theorem State.noteOccasion_beds (s : State) : s.noteOccasion.bc.beds = s.bc.beds := rfl
@[simp] theorem State.noteOccasion_sb (s : State) : s.noteOccasion.sb = s.sb := rfl
@[simp] theorem State.noteOccasion_tq (s : State) : s.noteOccasion.tq = s.tq := rfl
@[simp] theorem State.noteOccasion_sl (s : State) : s.noteOccasion.sl = s.sl := rfl
@[simp] theorem State.noteOccasion_au (s : State) : s.noteOccasion.au = s.au := rfl

/-! ### The alert unit -/

@[simp] theorem State.latch_setPending_same (c : Cause) (bed value : Nat) (s : State) :
    (s.setPending c bed value).latch c = ⟨true, (s.latch c).armed, bed, word16 value⟩ := by
  unfold State.setPending; split <;> simp [State.latch]

theorem State.latch_setPending (c d : Cause) (bed value : Nat) (s : State) :
    (s.setPending c bed value).latch d
      = if d = c then ⟨true, (s.latch c).armed, bed, word16 value⟩ else s.latch d := by
  unfold State.setPending; split <;> simp [State.latch, Latches.get_set]

@[simp] theorem State.setPending_record (c : Cause) (bed value : Nat) (s : State) :
    (s.setPending c bed value).au.record = s.au.record := by
  unfold State.setPending; split <;> rfl

theorem State.setPending_rest (c : Cause) (bed value : Nat) (s : State) :
    s.setPending c bed value = { s with au := (s.setPending c bed value).au } := by
  unfold State.setPending; split <;> rfl

theorem State.takeFault_rest (c : Cause) (bed peer kind one two : Nat) (s : State) :
    s.takeFault c bed peer kind one two = { s with au := (s.takeFault c bed peer kind one two).au } := by
  unfold State.takeFault; split <;> rfl

/-- A locked record keeps its fields (R177). -/
theorem State.takeFault_locked (c : Cause) (bed peer kind one two : Nat) (s : State) (f : FaultInfo)
    (h : s.au.record = some f) : (s.takeFault c bed peer kind one two).au.record = some f := by
  simp [State.takeFault, h]

/-- An unlocked record takes the fault's fields and locks (R177). -/
theorem State.takeFault_unlocked (c : Cause) (bed peer kind one two : Nat) (s : State) (h : s.au.record = none) :
    (s.takeFault c bed peer kind one two).au.record
      = some ⟨c, bed, peer, kind, word16 one, word16 two, s.clockMinute⟩ := by
  simp [State.takeFault, h]

theorem State.disarm_rest (c : Cause) (s : State) : s.disarm c = { s with au := (s.disarm c).au } := rfl

end Sys2Proof.Machine
end

