-- ==== Sys2Proof/Laws/Inside.lean ====
section
/-! SUPPORT. What the operations inside one event leave alone: `Inside s t` says everything that holds of a state `t`
reached from `s` by the bed, valve, claim and alert operations, and each of those operations has one lemma that says so. -/

namespace Sys2Proof.Machine

/-- Station and bed of every entry. -/
def names (book : List Entry) : List (Nat × Nat) := book.map fun e => (e.station, e.bed)

/-- `t` comes from `s` by inner operations. -/
structure Inside (s t : State) : Prop where
  outer : t.outer = s.outer
  core : ∀ b, (t.bed b).core = (s.bed b).core
  age : ∀ b, (t.bed b).waitAge ≤ (s.bed b).waitAge
  holds : t.bc.holds = s.bc.holds ∨ t.bc.holds = s.bc.holds.put .line true
  peers : t.peers = s.peers
  names : (names t.sb.book).Sublist (names s.sb.book)
  record : ∀ f, s.au.record = some f → t.au.record = some f
  latched : ∀ c, (s.latch c).pending = true → (t.latch c).pending = true
  queue : QueueSound s → QueueSound t
  drive : DriveSound s → DriveSound t
  carry : ∀ b, t.fm.bedCarry.get b ≤ s.fm.bedCarry.get b

theorem Inside.refl (s : State) : Inside s s :=
  ⟨rfl, fun _ => rfl, fun _ => le_rfl, .inl rfl, rfl, .refl _, fun _ h => h, fun _ h => h, id, id, fun _ => le_rfl⟩

theorem Inside.trans {s t u : State} (h : Inside s t) (k : Inside t u) : Inside s u where
  outer := k.outer.trans h.outer
  core b := (k.core b).trans (h.core b)
  age b := (k.age b).trans (h.age b)
  holds := by
    rcases h.holds with a | a <;> rcases k.holds with b | b <;> rw [b, a]
    · exact .inl rfl
    · exact .inr rfl
    · exact .inr rfl
    · exact .inr rfl
  peers := k.peers.trans h.peers
  names := k.names.trans h.names
  record f e := k.record f (h.record f e)
  latched c e := k.latched c (h.latched c e)
  queue e := k.queue (h.queue e)
  drive e := k.drive (h.drive e)
  carry b := (k.carry b).trans (h.carry b)

/-! ### What an inner operation leaves, field by field -/

namespace Inside

variable {s t : State} (h : Inside s t)
include h

theorem field {α : Type} (f : State → α) : f t.outer = f s.outer := congrArg f h.outer

theorem now : t.now = s.now := h.field fun x => x.now
theorem sl : t.sl = s.sl := h.field fun x => x.sl
theorem li : t.li = s.li := h.field fun x => x.li
theorem pw : t.pw = s.pw := h.field fun x => x.pw
theorem free : t.free = s.free := h.field fun x => x.free
theorem pending : t.pending = s.pending := h.field fun x => x.pending
theorem tallySince : t.tq.tallySince = s.tq.tallySince := h.field fun x => x.tq.tallySince
theorem presence : t.sb.presence = s.sb.presence := h.field fun x => x.sb.presence
theorem budget : t.sb.budget = s.sb.budget := h.field fun x => x.sb.budget
theorem lastFree : t.sb.lastFree = s.sb.lastFree := h.field fun x => x.sb.lastFree
theorem rainApplied : t.bc.rainApplied = s.bc.rainApplied := h.field fun x => x.bc.rainApplied
theorem hours : t.bc.hours = s.bc.hours := h.field fun x => x.bc.hours
theorem days : t.bc.days = s.bc.days := h.field fun x => x.bc.days
theorem due : t.bc.due = s.bc.due := h.field fun x => x.bc.due
theorem supply : t.vd.supply = s.vd.supply := h.field fun x => x.vd.supply
theorem ready : t.vd.ready = s.vd.ready := h.field fun x => x.vd.ready
theorem chargeSince : t.vd.chargeSince = s.vd.chargeSince := h.field fun x => x.vd.chargeSince
theorem coilVolts : t.vd.coilVolts = s.vd.coilVolts := h.field fun x => x.vd.coilVolts
theorem measureSince : t.vd.measureSince = s.vd.measureSince := h.field fun x => x.vd.measureSince
theorem marks : t.vd.marks = s.vd.marks := h.field fun x => x.vd.marks
theorem checkPhase : t.vd.check = s.vd.check := h.field fun x => x.vd.check
theorem level : t.fm.level = s.fm.level := h.field fun x => x.fm.level
theorem levelSince : t.fm.levelSince = s.fm.levelSince := h.field fun x => x.fm.levelSince
theorem pulses : t.fm.pulses = s.fm.pulses := h.field fun x => x.fm.pulses
theorem meterCarry : t.fm.carry = s.fm.carry := h.field fun x => x.fm.carry
theorem edge : t.fm.edge = s.fm.edge := h.field fun x => x.fm.edge
theorem lastInterval : t.fm.lastInterval = s.fm.lastInterval := h.field fun x => x.fm.lastInterval
theorem windowSince : t.fm.windowSince = s.fm.windowSince := h.field fun x => x.fm.windowSince
theorem lastWindow : t.fm.lastWindow = s.fm.lastWindow := h.field fun x => x.fm.lastWindow
theorem leakRun : t.fm.leakRun = s.fm.leakRun := h.field fun x => x.fm.leakRun
theorem noflowRun : t.fm.noflowRun = s.fm.noflowRun := h.field fun x => x.fm.noflowRun
theorem stuckRun : t.fm.stuckRun = s.fm.stuckRun := h.field fun x => x.fm.stuckRun
theorem drawing : t.fm.drawing = s.fm.drawing := h.field fun x => x.fm.drawing
theorem quiet : t.fm.quiet = s.fm.quiet := h.field fun x => x.fm.quiet
theorem rxErrors : t.au.rxErrors = s.au.rxErrors := h.field fun x => x.au.rxErrors
theorem collisions : t.au.collisions = s.au.collisions := h.field fun x => x.au.collisions

theorem setupOf (b : BedId) : t.setupOf b = s.setupOf b := by unfold State.setupOf; rw [h.sl]
theorem delivered (b : BedId) : (t.bed b).delivered = (s.bed b).delivered := congrArg (fun x => x.1) (h.core b)
theorem debt (b : BedId) : (t.bed b).debt = (s.bed b).debt := congrArg (fun x => x.2.1) (h.core b)
theorem wetness (b : BedId) : (t.bed b).wetness = (s.bed b).wetness := congrArg (fun x => x.2.2.1) (h.core b)
theorem probeFailed (b : BedId) : (t.bed b).probeFailed = (s.bed b).probeFailed := congrArg (fun x => x.2.2.2) (h.core b)

/-- No other hold reason than LINE comes or goes. -/
theorem hold (r : HoldReason) (hr : r ≠ .line) : t.bc.holds.has r = s.bc.holds.has r := by
  rcases h.holds with e | e <;> rw [e]
  cases r <;> first | rfl | exact absurd rfl hr

/-- An entry of another station is in the book exactly as before. -/
theorem peerEntry {e : Entry} (hs : e.station ≠ s.sl.own) : e ∈ t.sb.book ↔ e ∈ s.sb.book := by
  have hp := h.peers
  simp only [State.peers, h.sl] at hp
  have := congrArg (fun l => e ∈ l) hp
  simpa [List.mem_filter, hs] using this

/-- What a statement says of an event's further work. -/
theorem further : FurtherWork s t := ⟨h.outer, h.core, h.holds, h.peers, h.record, h.latched⟩

/-- The bounds that an inner operation can touch stay. -/
theorem sound (k : Sound s) : Sound t where
  book := ⟨h.names.nodup k.book.1, by simpa [Machine.names] using h.names.length_le.trans (by simpa [Machine.names] using k.book.2)⟩
  queue := h.queue k.queue
  beds b := ⟨h.delivered b ▸ (k.beds b).1, h.debt b ▸ (k.beds b).2.1, (h.age b).trans (k.beds b).2.2⟩
  drive := h.drive k.drive
  counts := ⟨h.rxErrors ▸ k.counts.1, h.collisions ▸ k.counts.2⟩
  budget := by unfold BudgetSound; rw [h.budget, h.sl, h.presence]; exact k.budget
  presence := by unfold PresenceSound; rw [h.presence]; exact k.presence
  weather := by unfold WeatherSound; rw [h.pw]; exact k.weather
  flow := by
    unfold FlowSound
    rw [h.leakRun, h.noflowRun, h.stuckRun, h.quiet]
    exact ⟨k.flow.1, k.flow.2.1, k.flow.2.2.1, k.flow.2.2.2.1, fun b => (h.carry b).trans_lt (k.flow.2.2.2.2 b)⟩

end Inside

end Sys2Proof.Machine
end

