-- ==== Sys2Proof/Laws/InsideOps.lean ====
section
/-! SUPPORT. Every operation of the beds, the valve drive, the claim exchange and the alert unit that runs inside an event
is `Inside`: one lemma each. -/

namespace Sys2Proof.Machine

variable {s t : State}

/-! ### The smallest changes -/

theorem inside_modBed (b : BedId) (f : Bed → Bed) (s : State) (hc : (f (s.bed b)).core = (s.bed b).core)
    (ha : (f (s.bed b)).waitAge ≤ (s.bed b).waitAge) : Inside s (s.modBed b f) where
  outer := rfl
  core c := by rw [State.bed_modBed]; split <;> simp_all
  age c := by rw [State.bed_modBed]; split <;> simp_all
  holds := .inl rfl
  peers := rfl
  names := .refl _
  record _ h := h
  latched _ h := h
  queue := id
  drive := id
  carry _ := le_rfl

theorem inside_noteOccasion (s : State) : Inside s s.noteOccasion :=
  ⟨rfl, fun _ => rfl, fun _ => le_rfl, .inl rfl, rfl, .refl _, fun _ h => h, fun _ h => h, id, id, fun _ => le_rfl⟩

theorem inside_claim (c : Claim) (s : State) : Inside s { s with sb.claim := c } :=
  ⟨rfl, fun _ => rfl, fun _ => le_rfl, .inl rfl, rfl, .refl _, fun _ h => h, fun _ h => h, id, id, fun _ => le_rfl⟩

theorem inside_saturated (x : Bool) (s : State) : Inside s { s with sb.saturated := x } :=
  ⟨rfl, fun _ => rfl, fun _ => le_rfl, .inl rfl, rfl, .refl _, fun _ h => h, fun _ h => h, id, id, fun _ => le_rfl⟩

theorem inside_marks (d o : Bool) (s : State) : Inside s { s with sb.dirty := d, bc.occasion := o } :=
  ⟨rfl, fun _ => rfl, fun _ => le_rfl, .inl rfl, rfl, .refl _, fun _ h => h, fun _ h => h, id, id, fun _ => le_rfl⟩

theorem inside_dirty (d : Bool) (s : State) : Inside s { s with sb.dirty := d } :=
  ⟨rfl, fun _ => rfl, fun _ => le_rfl, .inl rfl, rfl, .refl _, fun _ h => h, fun _ h => h, id, id, fun _ => le_rfl⟩

theorem inside_noteRefusal (k : OrderKind) (r : RefusalReason) (s : State) : Inside s (s.noteRefusal k r) :=
  ⟨rfl, fun _ => rfl, fun _ => le_rfl, .inl rfl, rfl, .refl _, fun _ h => h, fun _ h => h, id, id, fun _ => le_rfl⟩

theorem inside_setPending (c : Cause) (bed value : Nat) (s : State) : Inside s (s.setPending c bed value) := by
  have hl : ∀ d, (s.latch d).pending = true → ((s.setPending c bed value).latch d).pending = true := by
    intro d h
    rw [State.latch_setPending]
    split <;> simp_all
  have hr := State.setPending_record c bed value s
  rw [State.setPending_rest] at hl hr ⊢
  refine ⟨?_, fun _ => rfl, fun _ => le_rfl, .inl rfl, rfl, .refl _, fun _ h => hr.trans h, hl, id, id, fun _ => le_rfl⟩
  unfold State.setPending
  split <;> rfl

theorem inside_takeFault (c : Cause) (bed peer kind one two : Nat) (s : State) :
    Inside s (s.takeFault c bed peer kind one two) := by
  unfold State.takeFault
  split
  · rename_i hn
    exact ⟨rfl, fun _ => rfl, fun _ => le_rfl, .inl rfl, rfl, .refl _, fun _ h => absurd (hn.symm.trans h) (by simp),
      fun _ h => h, id, id, fun _ => le_rfl⟩
  · exact ⟨rfl, fun _ => rfl, fun _ => le_rfl, .inl rfl, rfl, .refl _, fun _ h => h, fun _ h => h, id, id, fun _ => le_rfl⟩

theorem inside_raise (c : Cause) (bed value peer kind one two : Nat) (s : State) :
    Inside s (s.raise c bed value peer kind one two) :=
  (inside_setPending ..).trans (inside_takeFault ..)

theorem inside_disarm (c : Cause) (s : State) : Inside s (s.disarm c) := by
  refine ⟨rfl, fun _ => rfl, fun _ => le_rfl, .inl rfl, rfl, .refl _, fun _ h => h, fun d h => ?_, id, id, fun _ => le_rfl⟩
  simp only [State.disarm, State.latch, Latches.get_set] at h ⊢
  split <;> simp_all

/-! ### The transmit queue -/

/-- A queue that loses notices, and gains none but of the essential class, keeps its bounds. -/
theorem inside_queue (q : List Queued) (r : Nat) (s : State) (hq : QueueSound s → QueueSound { s with tq.queue := q, tq.headRun := r }) :
    Inside s { s with tq.queue := q, tq.headRun := r } :=
  ⟨rfl, fun _ => rfl, fun _ => le_rfl, .inl rfl, rfl, .refl _, fun _ h => h, fun _ h => h, hq, id, fun _ => le_rfl⟩

theorem queueSound_offer (n : Notice) (hn : n.isTally = false) (h : QueueSound s) : QueueSound (s.offer n) := by
  unfold State.offer
  split
  · rename_i ha
    simp only [State.admits, Bool.and_eq_true, Bool.or_eq_true, decide_eq_true_eq] at ha
    refine ⟨?_, ?_⟩
    · simpa [List.countP_append, hn] using h.1
    · rcases ha.2 with he | hr
      · simpa [List.countP_append, he] using h.2
      · simp only [List.countP_append]
        have := List.countP_le_length (p := fun q : Queued => !q.notice.essential) (l := s.tq.queue)
        have : List.countP (fun q : Queued => !q.notice.essential) [⟨n, 0, false⟩] ≤ 1 := List.countP_le_length
        unfold Config.generalRoom at *
        omega
  · split
    · rw [State.setPending_rest]; exact h
    · exact h

theorem inside_offer (n : Notice) (hn : n.isTally = false) (s : State) : Inside s (s.offer n) := by
  have hq : QueueSound s → QueueSound (s.offer n) := queueSound_offer n hn
  unfold State.offer at hq ⊢
  split
  · rename_i ha
    simp only [ha, if_true] at hq
    exact ⟨rfl, fun _ => rfl, fun _ => le_rfl, .inl rfl, rfl, .refl _, fun _ h => h, fun _ h => h, hq, id, fun _ => le_rfl⟩
  · split
    · exact inside_setPending ..
    · exact .refl _

theorem queueSound_sublist {s t : State} (h : t.tq.queue.Sublist s.tq.queue) (k : QueueSound s) : QueueSound t :=
  ⟨(h.countP_le ..).trans k.1, (h.countP_le ..).trans k.2⟩

theorem inside_popHead (s : State) : Inside s s.popHead :=
  inside_queue _ _ s fun h => queueSound_sublist (List.drop_sublist ..) h

theorem queueSound_modHead (f : Queued → Queued) (hf : ∀ q, (f q).notice = q.notice) (h : QueueSound s) :
    QueueSound (s.modHead f) := by
  unfold State.modHead
  split
  · rename_i x l e
    unfold QueueSound at h ⊢
    simp only [e, List.countP_cons, hf] at h ⊢
    exact h
  · exact h

theorem inside_modHead (f : Queued → Queued) (hf : ∀ q, (f q).notice = q.notice) (s : State) : Inside s (s.modHead f) := by
  have hq : QueueSound s → QueueSound (s.modHead f) := queueSound_modHead f hf
  unfold State.modHead at hq ⊢
  split
  · rename_i e
    simp only [e] at hq
    exact ⟨rfl, fun _ => rfl, fun _ => le_rfl, .inl rfl, rfl, .refl _, fun _ h => h, fun _ h => h, hq, id, fun _ => le_rfl⟩
  · exact .refl _

theorem inside_cancel (p : Notice → Bool) (s : State) : Inside s (s.cancel p) := by
  unfold State.cancel
  split
  · exact inside_modHead (fun q => { q with cancelled := true }) (fun _ => rfl) s
  · split
    · rename_i x l e
      split
      · exact inside_popHead s
      · refine inside_queue _ s.tq.headRun s (queueSound_sublist ?_)
        rw [e]
        exact (List.eraseP_sublist ..).cons_cons _
    · exact .refl _

/-! ### The book -/

theorem inside_updateOwn (bd : Nat) (f : Entry → Entry) (hf : ∀ e, (f e).station = e.station ∧ (f e).bed = e.bed) (s : State) :
    Inside s (s.putBook (updateEntry s.sl.own bd f s.sb.book)) where
  outer := rfl
  core _ := rfl
  age _ := le_rfl
  holds := .inl rfl
  peers := by
    show List.filter _ (updateEntry s.sl.own bd f s.sb.book) = List.filter _ s.sb.book
    unfold updateEntry
    induction s.sb.book with
    | nil => rfl
    | cons e l ih =>
      simp only [List.map_cons, List.filter_cons]
      by_cases hn : e.named s.sl.own bd
      · have : e.station = s.sl.own := by simp [Entry.named] at hn; exact hn.1
        simp only [hn, if_true, (hf e).1, this]
        simpa using ih
      · simp only [hn, if_false, Bool.false_eq_true]
        simp only [State.putBook]
        split <;> simp_all
  names := by
    have : names (updateEntry s.sl.own bd f s.sb.book) = names s.sb.book := by
      unfold names updateEntry
      rw [List.map_map]
      refine List.map_congr_left fun e _ => ?_
      simp only [Function.comp]
      split <;> simp [hf e]
    show List.Sublist (names (updateEntry s.sl.own bd f s.sb.book)) _
    rw [this]
  record _ h := h
  latched _ h := h
  queue := id
  drive := id
  carry _ := le_rfl

theorem inside_removeOwn (bd : Nat) (s : State) : Inside s (s.remove s.sl.own bd) := by
  unfold State.remove
  split
  · refine ⟨rfl, fun _ => rfl, fun _ => le_rfl, .inl rfl, ?_, ?_, fun _ h => h, fun _ h => h, id, id, fun _ => le_rfl⟩
    · show List.filter _ (removeEntry s.sl.own bd s.sb.book) = List.filter _ s.sb.book
      unfold removeEntry
      rw [List.filter_filter]
      refine List.filter_congr fun e _ => ?_
      simp only [State.putBook, Entry.named]
      by_cases h : e.station = s.sl.own <;> simp [h]
    · exact (List.filter_sublist ..).map _
  · exact .refl _

/-! ### Bed records -/

theorem inside_moveBed (b : BedId) (st : BedState) (s : State) : Inside s (s.moveBed b st) := by
  refine (inside_modBed b _ s rfl le_rfl).trans
    ⟨rfl, fun _ => rfl, fun _ => le_rfl, .inl rfl, rfl, .refl _, fun _ h => h, fun _ h => h, id, id, fun c => ?_⟩
  show (if _ then _ else _ : PerBed Nat).get c ≤ _
  split
  · exact le_rfl
  · rw [PerBed.get_set]; split
    · exact Nat.zero_le _
    · exact le_rfl

theorem inside_setFaulted (b : BedId) (f : BedFault) (s : State) : Inside s (s.setFaulted b f) :=
  (inside_moveBed ..).trans (inside_modBed _ _ _ rfl le_rfl)

theorem inside_setIdle (b : BedId) (s : State) : Inside s (s.setIdle b) := by
  unfold State.setIdle
  split
  · exact inside_setFaulted ..
  · exact (inside_moveBed ..).trans (inside_modBed _ _ _ rfl (Nat.zero_le _))

theorem inside_setOff (b : BedId) (s : State) : Inside s (s.setOff b) :=
  (inside_moveBed ..).trans (inside_modBed _ _ _ rfl (Nat.zero_le _))

theorem inside_setWaiting (b : BedId) (d : Nat) (s : State) : Inside s (s.setWaiting b d) := by
  refine ((inside_moveBed ..).trans (inside_modBed _ _ _ rfl ?_)).trans (inside_noteOccasion _)
  dsimp only
  split <;> simp

theorem inside_setUrgency (b : BedId) (u : Urgency) (s : State) : Inside s (s.setUrgency b u) := by
  unfold State.setUrgency
  dsimp only
  have h := inside_modBed b (fun x => { x with urgency := u }) s rfl le_rfl
  split
  · exact .refl _
  · split
    · exact h.trans (inside_noteOccasion _)
    · refine h.trans ((inside_claim { s.sb.claim with urgency := u } (s.modBed b fun x => { x with urgency := u })).trans ?_)
      split
      · exact inside_updateOwn b.val (fun e => { e with urgency := u }) (fun _ => ⟨rfl, rfl⟩)
          { s.modBed b fun x => { x with urgency := u } with sb.claim := { s.sb.claim with urgency := u } }
      · exact .refl _
    · exact h

theorem inside_takeUrgency (b : BedId) (r : Option (Nat × Urgency)) (s : State) : Inside s (s.takeUrgency b r) := by
  unfold State.takeUrgency
  split
  · exact inside_setUrgency ..
  · split
    · exact inside_setUrgency ..
    · exact .refl _

theorem inside_takeNeed (b : BedId) (r : Option (Nat × Urgency)) (s : State) : Inside s (s.takeNeed b r) := by
  unfold State.takeNeed
  split
  · split
    · exact .refl _
    · exact inside_modBed _ _ _ rfl le_rfl
  · exact .refl _

theorem inside_evaluate (b : BedId) (fresh : Bool) (s : State) : Inside s (s.evaluate b fresh) := by
  unfold State.evaluate
  dsimp only
  split
  · exact .refl _
  · split
    · split
      · exact inside_setFaulted ..
      · split
        · exact (inside_setWaiting ..).trans (inside_modBed _ _ _ rfl le_rfl)
        · exact .refl _
    · split
      · exact inside_setIdle ..
      · split
        · exact inside_setIdle ..
        · split
          · exact inside_takeUrgency ..
          · exact (inside_takeNeed ..).trans (inside_takeUrgency ..)
    · split
      · exact inside_takeUrgency ..
      · exact (inside_takeNeed ..).trans (inside_takeUrgency ..)
    · exact .refl _

theorem inside_bringTargets (b : BedId) (s : State) : Inside s (s.bringTargets b) := by
  unfold State.bringTargets
  rcases (s.bed b).targets with _ | ⟨start, stop⟩
  · exact .refl _
  · have h := inside_modBed b (fun x => { x with start := start, stop := stop, targets := none }) s rfl le_rfl
    dsimp only
    split
    · exact h.trans (inside_evaluate ..)
    · exact h

theorem inside_toIdle (b : BedId) (s : State) : Inside s (s.toIdle b) := (inside_setIdle ..).trans (inside_bringTargets ..)
theorem inside_toWaiting (b : BedId) (d : Nat) (s : State) : Inside s (s.toWaiting b d) :=
  (inside_setWaiting ..).trans (inside_bringTargets ..)
theorem inside_toFaulted (b : BedId) (f : BedFault) (s : State) : Inside s (s.toFaulted b f) :=
  (inside_setFaulted ..).trans (inside_bringTargets ..)

theorem inside_applyWater (b : BedId) (n : Nat) (s : State) : Inside s (s.applyWater b n) := by
  unfold State.applyWater
  refine (inside_modBed b (fun x => { x with ordered := true, skip := false }) s rfl le_rfl).trans ?_
  dsimp only
  split
  · exact (inside_modBed _ _ _ rfl le_rfl).trans (inside_setUrgency ..)
  · split
    · exact (inside_setWaiting ..).trans (inside_modBed _ _ _ rfl le_rfl)
    · exact (inside_modBed _ _ _ rfl le_rfl).trans (inside_setUrgency ..)

/-! ### Runs -/

theorem inside_startCycle (b : BedId) (s : State) : Inside s (s.startCycle b) :=
  (inside_moveBed ..).trans (inside_modBed _ _ _ rfl le_rfl)

theorem inside_bedConfirmed (b : BedId) (s : State) : Inside s (s.bedConfirmed b) := by
  unfold State.bedConfirmed
  split
  · exact inside_moveBed ..
  · exact .refl _

theorem inside_confirms (c : PerBed (Option Nat)) (s : State) : Inside s { s with fm.confirms := c } :=
  ⟨rfl, fun _ => rfl, fun _ => le_rfl, .inl rfl, rfl, .refl _, fun _ h => h, fun _ h => h, id, id, fun _ => le_rfl⟩

theorem inside_bedOpened (b : BedId) (s : State) : Inside s (s.bedOpened b) := by
  unfold State.bedOpened
  split
  · refine (inside_moveBed b .confirming s).trans
      ((inside_confirms ((s.moveBed b .confirming).fm.confirms.set b (some s.now)) _).trans ?_)
    dsimp only
    split
    · exact inside_bedConfirmed ..
    · exact .refl _
  · exact .refl _

theorem inside_enterAfter (b : BedId) (a : After) (s : State) : Inside s (s.enterAfter b a) := by
  unfold State.enterAfter
  split
  · exact (inside_moveBed ..).trans (inside_modBed _ _ _ rfl le_rfl)
  · exact inside_toWaiting ..
  · exact inside_toIdle ..
  · exact inside_toFaulted ..

theorem inside_applyKept (b : BedId) (k : Option Nat) (s : State) : Inside s (s.applyKept b k) := by
  unfold State.applyKept
  split
  · exact .refl _
  · split
    · exact inside_noteRefusal ..
    · split
      · exact .refl _
      · exact (inside_modBed _ _ _ rfl le_rfl).trans (inside_applyWater ..)

theorem inside_freeBed (b : BedId) (s : State) : Inside s (s.freeBed b) := by
  have h := inside_offer (.free b.val) rfl s
  unfold State.freeBed
  rw [← h.sl]
  exact h.trans (inside_removeOwn ..)

theorem inside_bedClosed (b : BedId) (s : State) : Inside s (s.bedClosed b) := by
  unfold State.bedClosed
  split
  · refine ((inside_freeBed b s).trans (inside_bringTargets b _)).trans ?_
    dsimp only
    split
    · exact (inside_enterAfter ..).trans (inside_applyKept ..)
    · exact inside_toIdle ..
  · exact .refl _

/-! ### The valve drive -/

theorem inside_setValve (b : BedId) (v : ValveState) (s : State) : Inside s (s.setValve b v) :=
  ⟨rfl, fun _ => rfl, fun _ => le_rfl, .inl rfl, rfl, .refl _, fun _ h => h, fun _ h => h, id, id, fun _ => le_rfl⟩

theorem inside_valveClosed (b : BedId) (s : State) : Inside s (s.valveClosed b) :=
  (inside_setValve ..).trans (inside_bedClosed ..)

/-- The queue, the generator and the closure list change within their bounds. -/
theorem inside_drive (q : List Request) (g : Generator) (l : List BedId) (s : State)
    (h : DriveSound s → (q.map fun r => r.bed).Nodup ∧ l.length ≤ 4) :
    Inside s { s with vd.queue := q, vd.generator := g, vd.closures := l } :=
  ⟨rfl, fun _ => rfl, fun _ => le_rfl, .inl rfl, rfl, .refl _, fun _ h => h, fun _ h => h, id, h, fun _ => le_rfl⟩

theorem inside_kick (s : State) : Inside s s.kick := by
  unfold State.kick
  split
  · split
    · rename_i b l e
      refine inside_drive s.vd.queue _ l s fun h => ⟨h.1, ?_⟩
      have := h.2
      rw [e] at this
      simp at this
      omega
    · split
      · split
        · rename_i r l e
          refine inside_drive l _ s.vd.closures s fun h => ⟨?_, h.2⟩
          have := h.1
          rw [e] at this
          exact (List.nodup_cons.mp this).2
        · exact .refl _
      · exact .refl _
  · exact .refl _
  · exact .refl _

theorem inside_queueRequest (b : BedId) (d : Direction) (s : State) : Inside s (s.queueRequest b d) := by
  unfold State.queueRequest
  split
  · exact .refl _
  · rename_i hq
    refine .trans (inside_drive _ s.vd.generator s.vd.closures s fun h => ⟨?_, h.2⟩) (inside_kick _)
    rw [List.map_append, List.nodup_append]
    refine ⟨h.1, by simp, ?_⟩
    intro x hx y hy
    simp only [List.map_cons, List.map_nil, List.mem_singleton] at hy
    subst hy
    rintro rfl
    simp only [List.mem_map] at hx
    obtain ⟨r, hr, rfl⟩ := hx
    exact hq (by simp only [State.queued, List.any_eq_true]; exact ⟨r, hr, by simp⟩)

theorem inside_channels (a b : Option Channel) (s : State) : Inside s { s with vd.channelA := a, vd.channelB := b } :=
  ⟨rfl, fun _ => rfl, fun _ => le_rfl, .inl rfl, rfl, .refl _, fun _ h => h, fun _ h => h, id, id, fun _ => le_rfl⟩

theorem inside_mapChannels (f : Channel → Channel) (s : State) : Inside s (s.mapChannels f) := inside_channels ..
theorem inside_modChannel (b : BedId) (f : Channel → Channel) (s : State) : Inside s (s.modChannel b f) := inside_channels ..
theorem inside_freeChannel (b : BedId) (s : State) : Inside s (s.freeChannel b) := inside_channels ..

theorem inside_takeChannel (b : BedId) (s : State) : Inside s (s.takeChannel b) := by
  unfold State.takeChannel
  dsimp only
  split
  · exact (inside_channels _ s.vd.channelB s).trans (inside_setValve ..)
  · exact (inside_channels s.vd.channelA _ s).trans (inside_setValve ..)
  · exact .refl _

theorem inside_openRequest (b : BedId) (s : State) : Inside s (s.openRequest b) := by
  unfold State.openRequest
  split
  · split
    · exact (inside_setValve ..).trans (inside_queueRequest ..)
    · exact inside_takeChannel ..
  · exact .refl _

theorem inside_closeOpening (b : BedId) (s : State) : Inside s (s.closeOpening b) := by
  unfold State.closeOpening
  split
  · refine .trans (inside_drive _ s.vd.generator s.vd.closures s fun h => ⟨?_, h.2⟩) (inside_valveClosed ..)
    exact h.1.sublist ((List.filter_sublist ..).map _)
  · exact inside_queueRequest ..

theorem inside_closeHeldOpening (b : BedId) (s : State) : Inside s (s.closeHeldOpening b) := by
  unfold State.closeHeldOpening
  split
  · exact inside_modChannel ..
  · exact (inside_freeChannel ..).trans (inside_valveClosed ..)
  · exact (inside_freeChannel ..).trans (inside_valveClosed ..)
  · exact (inside_freeChannel ..).trans (inside_valveClosed ..)

theorem inside_closeRequest (b : BedId) (s : State) : Inside s (s.closeRequest b) := by
  unfold State.closeRequest
  split
  · exact inside_bedClosed ..
  · exact inside_closeOpening ..
  · exact (inside_setValve ..).trans (inside_queueRequest ..)
  · exact .refl _
  · exact inside_queueRequest ..
  · exact inside_closeHeldOpening ..
  · exact (inside_freeChannel ..).trans (inside_valveClosed ..)
  · exact .refl _
  · exact .refl _

/-! ### Cycle ends and withdrawals -/

theorem inside_endCycle (b : BedId) (c : EndCause) (s : State) : Inside s (s.endCycle b c) := by
  have h := (inside_moveBed b .closing s).trans (inside_modBed b (fun x =>
    { x with run := x.run.map fun r => { r with
        endCause := some c
        need := if c = .skip ∨ c = .barred then r.delivered else r.need } }) _ rfl le_rfl)
  unfold State.endCycle
  extract_lets u
  split
  · exact h
  · exact h.trans (inside_closeRequest ..)

theorem inside_cut (b : BedId) (c : EndCause) (s : State) : Inside s (s.cut b c) := by
  unfold State.cut
  split
  · exact inside_endCycle ..
  · exact .refl _

theorem inside_faultBed (b : BedId) (c : EndCause) (s : State) : Inside s (s.faultBed b c) := by
  unfold State.faultBed
  split
  · exact inside_endCycle ..
  · exact .refl _

theorem inside_weighWetness (b : BedId) (s : State) : Inside s (s.weighWetness b) := by
  unfold State.weighWetness
  split
  · split
    · exact inside_endCycle ..
    · exact .refl _
  · split
    · exact inside_endCycle ..
    · exact .refl _
  · split
    · exact inside_toIdle ..
    · exact .refl _
  all_goals first | exact inside_evaluate .. | exact .refl _

theorem inside_endClaim (s : State) : Inside s s.endClaim := by
  have h := inside_offer (.drop s.sb.claim.bed) rfl s
  unfold State.endClaim
  dsimp only
  rw [← h.sl]
  exact (h.trans (inside_removeOwn ..)).trans (inside_claim ..)

theorem inside_dropClaim (s : State) : Inside s s.dropClaim := by
  unfold State.dropClaim
  refine (inside_endClaim s).trans ?_
  dsimp only
  split
  · exact inside_toWaiting ..
  · exact .refl _

theorem inside_clearClaim (s : State) : Inside s s.clearClaim := (inside_claim ..).trans (inside_noteOccasion ..)

theorem inside_withdraw (s : State) : Inside s s.withdraw := by
  unfold State.withdraw
  split
  · exact .refl _
  · exact .refl _
  · refine (inside_cancel Notice.isClaim s).trans ?_
    dsimp only
    split
    · exact inside_claim ..
    · exact inside_clearClaim ..
  · exact inside_endClaim ..
  · exact inside_endClaim ..
  · have h := (inside_claim { s.sb.claim with outcome := some .drop } s).trans (inside_cancel Notice.isShed _)
    extract_lets u
    split
    · exact h
    · exact h.trans (inside_endClaim ..)

theorem inside_withdrawToWaiting (b : BedId) (s : State) : Inside s (s.withdrawToWaiting b) :=
  (inside_withdraw ..).trans (inside_toWaiting ..)

/-! ### Holds -/

/-- An action on every bed. -/
theorem inside_foldl {α : Type} (f : State → α → State) (hf : ∀ s a, Inside s (f s a)) (l : List α) (s : State) :
    Inside s (l.foldl f s) := by
  induction l generalizing s with
  | nil => exact .refl _
  | cons a l ih => exact (hf s a).trans (ih _)

theorem inside_forBeds (f : BedId → State → State) (hf : ∀ b s, Inside s (f b s)) (s : State) : Inside s (s.forBeds f) :=
  inside_foldl _ (fun s b => hf b s) _ s

theorem inside_holdBed (r : HoldReason) (b : BedId) (s : State) : Inside s (s.holdBed r b) := by
  unfold State.holdBed
  split
  case h_4 => split <;> first | exact .refl _ | exact inside_withdrawToWaiting ..
  all_goals first
    | exact .refl _
    | (split <;> first | exact inside_endCycle .. | exact .refl _)

/-- A join of a reason is its entry into the set, then inner work. -/
theorem inside_joinHold (r : HoldReason) (s : State) (h : s.bc.holds.has r = false) :
    Inside { s with bc.holds := s.bc.holds.put r true } (s.joinHold r) := by
  unfold State.joinHold
  simp only [h, Bool.false_eq_true, if_false]
  exact (inside_forBeds _ (inside_holdBed r) _).trans (inside_noteOccasion _)

theorem inside_putLine (s : State) : Inside s { s with bc.holds := s.bc.holds.put .line true } :=
  ⟨rfl, fun _ => rfl, fun _ => le_rfl, .inr rfl, rfl, .refl _, fun _ h => h, fun _ h => h, id, id, fun _ => le_rfl⟩

theorem inside_joinLine (s : State) : Inside s (s.joinHold .line) := by
  by_cases h : s.bc.holds.has .line
  · unfold State.joinHold
    simp only [h, if_true]
    exact .refl _
  · exact (inside_putLine s).trans (inside_joinHold .line s (by simpa using h))

theorem inside_closeLine (s : State) : Inside s s.closeLine := (inside_joinLine s).trans (inside_raise ..)

theorem inside_ownCommitted (s : State) : Inside s s.ownCommitted := by
  unfold State.ownCommitted
  split
  · exact inside_closeLine ..
  · exact .refl _

/-! ### The claim exchange -/

theorem inside_commitClaim (s : State) : Inside s s.commitClaim := by
  unfold State.commitClaim
  exact ((inside_updateOwn _ (fun e => { e with committed := true, heard := s.now }) (fun _ => ⟨rfl, rfl⟩) s).trans (inside_claim _ _)).trans
    ((((inside_offer (.commit _) rfl _).trans (inside_startCycle ..)).trans (inside_openRequest ..)).trans
      (inside_ownCommitted _))

theorem inside_shedOwn (e : Entry) (s : State) : Inside s (s.shedOwn e) := by
  unfold State.shedOwn
  extract_lets _ _ u
  have h : Inside s u := inside_claim _ s
  split
  · exact h.trans (inside_cut ..)
  · exact h

theorem inside_shedPeer (e : Entry) (s : State) : Inside s (s.shedPeer e) :=
  (inside_claim _ s).trans (inside_offer _ rfl _)

theorem inside_shedClaim (s : State) : Inside s s.shedClaim := by
  unfold State.shedClaim
  split
  · exact inside_dropClaim ..
  · split
    · exact inside_shedOwn ..
    · exact inside_shedPeer ..

theorem inside_resolve (s : State) : Inside s s.resolve := by
  unfold State.resolve
  split
  · exact inside_commitClaim ..
  · split
    · exact inside_shedClaim ..
    · exact inside_dropClaim ..

theorem inside_applyHeld (s : State) : Inside s s.applyHeld := by
  unfold State.applyHeld
  split
  · exact (inside_claim _ s).trans (inside_resolve _)
  · exact inside_endClaim ..
  · exact .refl _

theorem inside_victimLeaves (s : State) : Inside s s.victimLeaves := by
  unfold State.victimLeaves
  split
  · exact inside_resolve ..
  · have h := (inside_claim { s.sb.claim with outcome := some .reResolve } s).trans (inside_cancel Notice.isShed _)
    extract_lets u
    split
    · exact h
    · exact h.trans (inside_applyHeld ..)
  all_goals exact .refl _

theorem inside_offerBed (b : BedId) (s : State) : Inside s (s.offerBed b) :=
  ((inside_claim _ s).trans (inside_offer _ rfl _)).trans (inside_moveBed ..)

theorem inside_weighOccasion (s : State) : Inside s s.weighOccasion := by
  unfold State.weighOccasion
  split
  · split
    · exact inside_offerBed ..
    · exact .refl _
  · exact .refl _

theorem inside_cutOver (e : Entry) (s : State) : Inside s (s.cutOver e) := by
  unfold State.cutOver
  split
  · split
    · exact inside_cut ..
    · exact .refl _
  · exact .refl _

theorem inside_overdraw (s : State) : Inside s s.overdraw := inside_foldl _ (fun s e => inside_cutOver e s) _ s

theorem inside_clearSaturated (s : State) : Inside s s.clearSaturated := by
  unfold State.clearSaturated
  split
  · exact inside_saturated ..
  · exact .refl _

theorem inside_report (s : State) : Inside s s.report := by
  unfold State.report
  refine (inside_claim { s.sb.claim with seniors := s.liveSeniors } s).trans ?_
  dsimp only
  split
  · split
    · exact inside_resolve ..
    · exact .refl _
  · split
    · exact inside_victimLeaves ..
    · exact .refl _
  · split
    · exact inside_victimLeaves ..
    · exact .refl _
  all_goals exact .refl _

theorem inside_bookSteps (s : State) : Inside s s.bookSteps :=
  ((((inside_dirty false s).trans (inside_overdraw _)).trans (inside_clearSaturated _)).trans (inside_report _)).trans
    (inside_noteOccasion _)

theorem inside_settleBook (n : Nat) (s : State) : Inside s (s.settleBook n) := by
  induction n generalizing s with
  | zero => exact .refl _
  | succ n ih =>
    unfold State.settleBook
    split
    · exact (inside_bookSteps s).trans (ih _)
    · exact .refl _

theorem inside_settle (s : State) : Inside s s.settle := by
  unfold State.settle
  extract_lets u _ _ v
  have h : Inside s v := (inside_settleBook settleLaps s).trans (inside_marks false false _)
  split
  · exact h.trans (inside_weighOccasion ..)
  · exact h

theorem inside_offerAlert (c : Cause) (s : State) : Inside s (s.offerAlert c) := by
  unfold State.offerAlert
  dsimp only
  split
  · exact (inside_disarm ..).trans (inside_offer _ rfl _)
  · exact .refl _

theorem inside_offerAlerts (s : State) : Inside s s.offerAlerts := inside_foldl _ (fun s c => inside_offerAlert c s) _ s

/-- The end of an event. -/
theorem inside_finish (s : State) : Inside s s.finish := (inside_settle s).trans (inside_offerAlerts _)

end Sys2Proof.Machine
end

