-- ==== Sys2Proof/Laws/Within.lean ====
section
/-! SUPPORT. What an event other than a start leaves alone: `Within k s t` says that the bounds of the manual stay, the
setup and the station number stay, time does not run back, and (for `k = false`, every event but a CLEAR) that the locked
fault record and the pending causes stay. One lemma for each operation that a meaning calls. -/

namespace Sys2Proof.Machine

structure Within (k : Bool) (s t : State) : Prop where
  sound : Sound s → Sound t
  setup : t.sl.setup = s.sl.setup
  own : t.sl.own = s.sl.own
  time : s.now ≤ t.now
  pending : t.pending = s.pending
  record : k = false → ∀ f, s.au.record = some f → t.au.record = some f
  latched : k = false → ∀ c, (s.latch c).pending = true → (t.latch c).pending = true

variable {k : Bool}

theorem Within.refl (s : State) : Within k s s := ⟨id, rfl, rfl, le_rfl, rfl, fun _ _ h => h, fun _ _ h => h⟩

theorem Within.trans {s t u : State} (h : Within k s t) (g : Within k t u) : Within k s u :=
  ⟨g.sound ∘ h.sound, g.setup.trans h.setup, g.own.trans h.own, h.time.trans g.time, g.pending.trans h.pending,
    fun e f r => g.record e f (h.record e f r), fun e c r => g.latched e c (h.latched e c r)⟩

theorem Inside.within {s t : State} (h : Inside s t) : Within k s t :=
  ⟨h.sound, by rw [h.sl], by rw [h.sl], h.now.ge, h.pending, fun _ => h.record, fun _ => h.latched⟩

/-- A change that touches no bound, no setup, no record and no latch. -/
theorem within_same {s t : State} (hb : t.sb.book = s.sb.book) (hq : t.tq.queue = s.tq.queue) (he : t.bc.beds = s.bc.beds)
    (hd : t.vd.queue = s.vd.queue) (hl : t.vd.closures = s.vd.closures) (ha : t.au = s.au) (hs : t.sl.setup = s.sl.setup)
    (ho : t.sl.own = s.sl.own) (hp : t.sb.presence = s.sb.presence) (hu : t.sb.budget = s.sb.budget)
    (hw : WeatherSound s → WeatherSound t) (hf : FlowSound s → FlowSound t) (ht : s.now ≤ t.now)
    (hn : t.pending = s.pending) : Within k s t where
  sound h := ⟨by unfold BookSound; rw [hb]; exact h.book, by unfold QueueSound; rw [hq]; exact h.queue,
    by unfold BedsSound State.bed; rw [he]; exact h.beds, by unfold DriveSound; rw [hd, hl]; exact h.drive,
    by unfold CountsSound; rw [ha]; exact h.counts, by unfold BudgetSound; rw [hu, hs, hp]; exact h.budget,
    by unfold PresenceSound; rw [hp]; exact h.presence, hw h.weather, hf h.flow⟩
  setup := hs
  own := ho
  time := ht
  pending := hn
  record _ f h := by rw [ha]; exact h
  latched _ c h := by unfold State.latch; rw [ha]; exact h

theorem within_foldl {α : Type} (f : State → α → State) (hf : ∀ s a, Within k s (f s a)) (l : List α) (s : State) :
    Within k s (l.foldl f s) := by
  induction l generalizing s with
  | nil => exact .refl _
  | cons a l ih => exact (hf s a).trans (ih _)

theorem within_forBeds (f : BedId → State → State) (hf : ∀ b s, Within k s (f b s)) (s : State) : Within k s (s.forBeds f) :=
  within_foldl _ (fun s b => hf b s) _ s

theorem within_ite {s t u : State} {p : Prop} [Decidable p] (h : p → Within k s t) (g : ¬p → Within k s u) :
    Within k s (if p then t else u) := by
  split
  · exact h ‹_›
  · exact g ‹_›

/-! ### Time, marks and counts -/

theorem within_advanceTo (t : Nat) (s : State) : Within k s (s.advanceTo t) :=
  within_same rfl rfl rfl rfl rfl rfl rfl rfl rfl rfl id id (le_max_left ..) rfl

theorem within_li (l : LineInterface) (s : State) : Within k s { s with li := l } :=
  within_same rfl rfl rfl rfl rfl rfl rfl rfl rfl rfl id id le_rfl rfl

theorem within_station (x : StationState) (s : State) : Within k s { s with sl.station := x } :=
  within_same rfl rfl rfl rfl rfl rfl rfl rfl rfl rfl id id le_rfl rfl

theorem within_holds (h : Holds) (s : State) : Within k s { s with bc.holds := h } :=
  within_same rfl rfl rfl rfl rfl rfl rfl rfl rfl rfl id id le_rfl rfl

theorem within_pw (p : ProbesWeather) (s : State) (h : WeatherSound s → WeatherSound { s with pw := p }) :
    Within k s { s with pw := p } :=
  within_same rfl rfl rfl rfl rfl rfl rfl rfl rfl rfl h id le_rfl rfl

theorem within_fm (f : FlowMonitor) (s : State) (h : FlowSound s → FlowSound { s with fm := f }) :
    Within k s { s with fm := f } :=
  within_same rfl rfl rfl rfl rfl rfl rfl rfl rfl rfl id h le_rfl rfl

theorem within_finish (s : State) : Within k s s.finish := (inside_finish s).within

theorem within_take (f : State → State) (hf : ∀ s, Within k s (f s)) (s : State) : Within k s (s.take f) :=
  within_ite (fun _ => (hf s).trans (within_finish _)) fun _ => .refl _

theorem within_receiveError (s : State) : Within k s s.receiveError where
  sound h := ⟨h.1, h.2, h.3, h.4, ⟨min_le_right .., h.5.2⟩, h.6, h.7, h.8, h.9⟩
  setup := rfl
  own := rfl
  time := le_rfl
  pending := rfl
  record _ _ h := h
  latched _ _ h := h

theorem within_countCollision (s : State) : Within k s s.countCollision where
  sound h := ⟨h.1, h.2, h.3, h.4, ⟨h.5.1, min_le_right ..⟩, h.6, h.7, h.8, h.9⟩
  setup := rfl
  own := rfl
  time := le_rfl
  pending := rfl
  record _ _ h := h
  latched _ _ h := h

/-! ### Bed records -/

/-- A bed's record is changed within the ranges of its volumes. -/
theorem within_modBed (b : BedId) (f : Bed → Bed) (s : State)
    (hf : BedsSound s → (f (s.bed b)).delivered ≤ dayLimit ∧ (f (s.bed b)).debt ≤ 40000 ∧ (f (s.bed b)).waitAge ≤ 255) :
    Within k s (s.modBed b f) where
  sound h := ⟨h.1, h.2, fun c => by rw [State.bed_modBed]; split; exacts [hf h.beds, h.beds c], h.4, h.5, h.6, h.7, h.8, h.9⟩
  setup := rfl
  own := rfl
  time := le_rfl
  pending := rfl
  record _ _ h := h
  latched _ _ h := h

theorem within_addCredit (b : BedId) (v : Nat) (s : State) : Within k s (s.addCredit b v) :=
  within_modBed _ _ _ fun h => ⟨min_le_right .., (Nat.sub_le ..).trans (h b).2.1, (h b).2.2⟩

theorem within_credit (b : BedId) (v : Nat) (s : State) : Within k s (s.credit b v) := by
  unfold State.credit
  refine within_ite (fun _ => .refl _) fun _ => (within_addCredit b v s).trans ?_
  dsimp only
  split
  · exact .refl _
  · split
    · exact (inside_endCycle ..).within
    · exact .refl _

theorem within_handWetness (b : BedId) (w : Nat) (s : State) : Within k s (s.handWetness b w) :=
  within_ite (fun _ => .refl _) fun _ =>
    (within_modBed b (fun x => { x with wetness := some w }) s fun h => h b).trans (inside_weighWetness ..).within

/-! ### The transmit queue -/

/-- The queue changes within its bounds. -/
theorem within_tq (q : TransmitQueue) (s : State) (h : QueueSound s → QueueSound { s with tq := q }) :
    Within k s { s with tq := q } where
  sound x := ⟨x.1, h x.2, x.3, x.4, x.5, x.6, x.7, x.8, x.9⟩
  setup := rfl
  own := rfl
  time := le_rfl
  pending := rfl
  record _ _ h := h
  latched _ _ h := h

theorem queueSound_tallyDue {s : State} (h : QueueSound s) : QueueSound s.tallyDue := by
  unfold State.tallyDue
  split
  · exact h
  · rename_i hn
    unfold State.offer
    split
    · rename_i ha
      have hz : List.countP (fun q : Queued => q.notice.isTally) s.tq.queue = 0 := by
        rw [List.countP_eq_zero]
        simpa using hn
      have ha : s.tq.queue.length < 6 := by
        have := (Bool.and_eq_true_iff.mp ha).2
        exact of_decide_eq_true this
      have hl := List.countP_le_length (p := fun q : Queued => !q.notice.essential) (l := s.tq.queue)
      have h1 : List.countP (fun q : Queued => !q.notice.essential) [⟨.tally, 0, false⟩] ≤ 1 := List.countP_le_length
      have h2 : List.countP (fun q : Queued => q.notice.isTally) [⟨.tally, 0, false⟩] ≤ 1 := List.countP_le_length
      refine ⟨?_, ?_⟩ <;> simp only [List.countP_append, Config.generalRoom] <;> omega
    · split
      · rw [State.setPending_rest]; exact h
      · exact h

theorem within_tallyDue (s : State) : Within k s s.tallyDue := by
  have hq := @queueSound_tallyDue s
  unfold State.tallyDue State.offer at hq ⊢
  split
  · exact .refl _
  · rename_i h0
    split
    · rename_i h1
      exact within_tq _ _ (by simpa [h0, h1] using hq)
    · split
      · exact (inside_setPending ..).within
      · exact .refl _

theorem within_purge (s : State) : Within k s s.purge := by
  have key : ∀ (q : List Queued) (r : Nat), (q.map Queued.notice).Sublist (s.tq.queue.map Queued.notice) →
      Within k s { s with tq.queue := q, tq.headRun := r } := by
    intro q r h
    refine within_tq _ _ fun x => ⟨?_, ?_⟩
    · have := h.countP_le (p := fun n : Notice => n.isTally)
      simp only [List.countP_map] at this
      exact this.trans x.1
    · have := h.countP_le (p := fun n : Notice => !n.essential)
      simp only [List.countP_map] at this
      exact this.trans x.2
  unfold State.purge
  extract_lets keep
  refine within_ite (fun _ => key _ s.tq.headRun ?_) fun _ => within_ite (fun _ => key _ s.tq.headRun ?_) fun _ => key _ _ ?_
  · have : s.tq.queue.map Queued.notice = (s.tq.queue.take 1).map Queued.notice ++ (s.tq.queue.drop 1).map Queued.notice := by
      rw [← List.map_append, List.take_append_drop]
    rw [this, List.map_append, List.map_map]
    exact List.Sublist.append (.refl _) ((List.filter_sublist ..).map _)
  · exact (List.filter_sublist ..).map _
  · exact (List.filter_sublist ..).map _

theorem within_popHead (s : State) : Within k s s.popHead := (inside_popHead s).within

/-! ### The book and the presence table -/

/-- The book changes within its bounds. -/
theorem within_book (l : List Entry) (d : Bool) (s : State)
    (h : BookSound s → BookSound { s with sb.book := l }) : Within k s { s with sb.book := l, sb.dirty := d } where
  sound x := ⟨h x.1, x.2, x.3, x.4, x.5, x.6, x.7, x.8, x.9⟩
  setup := rfl
  own := rfl
  time := le_rfl
  pending := rfl
  record _ _ h := h
  latched _ _ h := h

theorem names_updateEntry (st bd : Nat) (f : Entry → Entry) (hf : ∀ e, e.named st bd → (f e).station = st ∧ (f e).bed = bd)
    (l : List Entry) : names (updateEntry st bd f l) = names l := by
  unfold names updateEntry
  rw [List.map_map]
  refine List.map_congr_left fun e _ => ?_
  simp only [Function.comp]
  split
  · rename_i h
    have h' := h
    simp only [Entry.named, Bool.and_eq_true, beq_iff_eq] at h'
    simp [hf e h, h'.1, h'.2]
  · rfl

theorem bookSound_names {s : State} {l : List Entry} (h : (names l).Sublist (names s.sb.book)) (x : BookSound s) :
    BookSound { s with sb.book := l } :=
  ⟨h.nodup x.1, by
    have := h.length_le
    simp only [names, List.length_map] at this
    exact this.trans x.2⟩

theorem within_updateEntry (st bd : Nat) (f : Entry → Entry) (d : Bool) (s : State)
    (hf : ∀ e, e.named st bd → (f e).station = st ∧ (f e).bed = bd) :
    Within k s { s with sb.book := updateEntry st bd f s.sb.book, sb.dirty := d } :=
  within_book _ _ _ (bookSound_names (by rw [names_updateEntry _ _ _ hf]))

theorem within_changeEntry (st bd : Nat) (f : Entry → Entry) (s : State)
    (hf : ∀ e, (f e).station = e.station ∧ (f e).bed = e.bed) : Within k s (s.changeEntry st bd f) := by
  have hf' : ∀ e, e.named st bd → (f e).station = st ∧ (f e).bed = bd := by
    intro e h
    simp only [Entry.named, Bool.and_eq_true, beq_iff_eq] at h
    rw [(hf e).1, (hf e).2]
    exact h
  exact within_ite (fun _ => within_updateEntry st bd f s.sb.dirty s hf') fun _ => within_updateEntry st bd f true s hf'

theorem within_filterBook (p : Entry → Bool) (s : State) : Within k s (s.putBook (s.sb.book.filter p)) :=
  within_book _ _ _ (bookSound_names ((List.filter_sublist ..).map _))

theorem within_remove (st bd : Nat) (s : State) : Within k s (s.remove st bd) :=
  within_ite (fun _ => within_filterBook _ s) fun _ => .refl _

theorem within_insert (e : Entry) (s : State) : Within k s (s.insert e) := by
  unfold State.insert
  refine within_ite (fun _ => within_updateEntry _ _ _ true s fun _ _ => ⟨rfl, rfl⟩) fun hn =>
    within_ite (fun hl => within_book _ true _ fun x => ⟨?_, ?_⟩) fun _ =>
      ((inside_saturated true s).trans (inside_setPending ..)).within
  · show List.Nodup ((s.sb.book ++ [e]).map _)
    rw [List.map_append, List.nodup_append]
    refine ⟨x.1, by simp, ?_⟩
    intro a ha b hb
    simp only [List.map_cons, List.map_nil, List.mem_singleton] at hb
    subst hb
    rintro rfl
    simp only [List.mem_map] at ha
    obtain ⟨d, hd, he⟩ := ha
    refine hn ?_
    simp only [State.hasEntry, List.any_eq_true]
    refine ⟨d, hd, ?_⟩
    simp only [Prod.mk.injEq] at he
    simp [Entry.named, he.1, he.2]
  · simpa using hl

/-- Presence rows and the budget change together within their rules. -/
theorem within_presence (l : List Row) (b : Nat) (d : Bool) (s : State)
    (h : BudgetSound s → PresenceSound s → b = effectiveBudget s.sl.setup.budget l ∧ (l.map fun r => r.station).Nodup) :
    Within k s { s with sb.presence := l, sb.budget := b, sb.dirty := d } where
  sound x := ⟨x.1, x.2, x.3, x.4, x.5, (h x.6 x.7).1, (h x.6 x.7).2, x.8, x.9⟩
  setup := rfl
  own := rfl
  time := le_rfl
  pending := rfl
  record _ _ h := h
  latched _ _ h := h

theorem within_lastFree (t : Option Nat) (s : State) : Within k s { s with sb.lastFree := t } :=
  within_same rfl rfl rfl rfl rfl rfl rfl rfl rfl rfl id id le_rfl rfl

theorem stations_modRow (src : Nat) (f : Row → Row) (hf : ∀ r, (f r).station = r.station) (l : List Row) :
    (l.map fun r => if r.station == src then f r else r).map (fun r => r.station) = l.map fun r => r.station := by
  rw [List.map_map]
  refine List.map_congr_left fun r _ => ?_
  simp only [Function.comp]
  split <;> simp [hf]

theorem budget_modRow (src : Nat) (f : Row → Row) (hf : ∀ r, (f r).counted = r.counted) (own : Nat) (l : List Row) :
    effectiveBudget own (l.map fun r => if r.station == src then f r else r) = effectiveBudget own l := by
  unfold effectiveBudget
  rw [List.filterMap_map]
  congr 1
  refine List.filterMap_congr fun r _ => ?_
  simp only [Function.comp]
  split <;> simp [hf]

/-- A row is changed in what does not count for the budget. -/
theorem within_modRow (src : Nat) (f : Row → Row) (hs : ∀ r, (f r).station = r.station) (hc : ∀ r, (f r).counted = r.counted)
    (s : State) : Within k s (s.modRow src f) :=
  within_presence _ s.sb.budget s.sb.dirty s fun hb hp =>
    ⟨by rw [budget_modRow _ _ hc]; exact hb, by rw [stations_modRow _ _ hs]; exact hp⟩

theorem within_refresh (src : Nat) (s : State) : Within k s (s.refresh src) := by
  unfold State.refresh
  refine within_ite (fun _ => within_modRow src (fun r => { r with heard := s.now }) (fun _ => rfl) (fun _ => rfl) s)
    fun hn => within_presence _ s.sb.budget s.sb.dirty s fun hb hp => ⟨?_, ?_⟩
  · have he : effectiveBudget s.sl.setup.budget (s.sb.presence ++ [⟨src, s.now, none, false, none⟩])
        = effectiveBudget s.sl.setup.budget s.sb.presence := by
      simp only [effectiveBudget, List.filterMap_append, List.foldl_append]
      rfl
    exact hb.trans he.symm
  · rw [List.map_append, List.nodup_append]
    refine ⟨hp, by simp, ?_⟩
    intro a ha b hb
    simp only [List.map_cons, List.map_nil, List.mem_singleton] at hb
    subst hb
    rintro rfl
    simp only [List.mem_map] at ha
    obtain ⟨r, hr, he⟩ := ha
    exact hn (by simp only [List.any_eq_true]; exact ⟨r, hr, by simpa using he⟩)

/-- Rows change, and the effective budget follows (R50). -/
theorem within_recompute (l : List Row) (s : State) (h : PresenceSound s → (l.map fun r => r.station).Nodup) :
    Within k s (State.recomputeBudget { s with sb.presence := l }) := by
  unfold State.recomputeBudget
  refine within_ite (fun he => ?_) fun _ => within_presence l _ true s fun _ hp => ⟨rfl, h hp⟩
  exact within_presence l s.sb.budget s.sb.dirty s fun _ hp => ⟨he.symm, h hp⟩

/-! ### Holds and the weather -/

theorem within_joinHold (r : HoldReason) (s : State) : Within k s (s.joinHold r) := by
  by_cases h : s.bc.holds.has r
  · unfold State.joinHold
    simp only [h, if_true]
    exact .refl _
  · exact (within_holds _ s).trans (inside_joinHold r s (by simpa using h)).within

theorem within_leaveHold (r : HoldReason) (s : State) : Within k s (s.leaveHold r) :=
  within_ite (fun _ => (within_holds _ s).trans (inside_noteOccasion _).within) fun _ => .refl _

theorem within_setHold (r : HoldReason) (v : Bool) (s : State) : Within k s (s.setHold r v) := by
  unfold State.setHold
  exact within_ite (fun _ => within_joinHold ..) fun _ => within_leaveHold ..

theorem within_weighWeather (s : State) : Within k s s.weighWeather := by
  unfold State.weighWeather
  split <;> exact ((within_setHold ..).trans (within_setHold ..)).trans (within_setHold ..)

theorem within_setClock (m : Nat) (hm : m < 1440) (s : State) : Within k s (s.setClock m) := by
  unfold State.setClock
  extract_lets _ u
  have h : Within k s u := within_pw _ s fun h => ⟨h.1, hm, h.2.2⟩
  exact within_ite (fun _ => h.trans (inside_noteOccasion _).within) fun _ => h

theorem within_followMinute (m : Nat) (s : State) : Within k s (s.followMinute m) :=
  within_ite (fun h => within_setClock m (by omega) s) fun _ => .refl _

theorem within_adopt (c : Sky) (src : Nat) (s : State) : Within k s (s.adopt c src) := by
  unfold State.adopt
  extract_lets _ u
  have h : Within k s u := (within_pw { s.pw with weather := some ⟨c, src, s.now⟩ } s id).trans (within_weighWeather _)
  exact (h.trans (within_followMinute c.minute u)).trans
    (within_pw { (u.followMinute c.minute).pw with staleNoted := false } _ id)

theorem within_skyDue (s : State) : Within k s s.skyDue := by
  unfold State.skyDue
  split
  · exact .refl _
  · rename_i t _
    extract_lets c a u _ v
    have h : Within k s u := (inside_offer (.sky c) rfl s).within
    have g : Within k u v := within_ite (fun _ => within_pw _ _ id) fun _ => .refl _
    exact (h.trans g).trans (within_adopt ..)

/-! ### Hour and day boundaries -/

theorem within_updateDebts (s : State) : Within k s s.updateDebts := by
  unfold State.updateDebts
  extract_lets cls rain applied u
  have h : Within k s u := within_forBeds _ (fun b s => within_ite
    (fun _ => within_modBed b _ s fun h => ⟨(h b).1, min_le_right .., (h b).2.2⟩) fun _ => .refl _) s
  exact h.trans (within_same rfl rfl rfl rfl rfl rfl rfl rfl rfl rfl id id le_rfl rfl)

theorem within_rotateBuckets (i : Nat) (s : State) : Within k s (s.rotateBuckets i) := by
  refine within_ite (fun _ => within_pw _ _ fun h => ⟨h.1, h.2.1, ?_, Nat.zero_le _, ?_, h.2.2.2.2.2⟩) fun _ => .refl _
  · simp [List.length_take, h.2.2.1]
  · intro n hn
    have := List.mem_of_mem_take hn
    rcases List.mem_cons.mp this with e | e
    · rw [e]; exact h.2.2.2.1
    · exact h.2.2.2.2.1 n e

theorem within_evaluate (b : BedId) (x : Bool) (s : State) : Within k s (s.evaluate b x) := (inside_evaluate ..).within

theorem within_applyHour (i : Nat) (s : State) : Within k s (s.applyHour i) :=
  ((within_updateDebts s).trans (within_forBeds _ (fun _ _ => within_ite (fun _ => .refl _) fun _ => within_evaluate ..) _)).trans
    (within_rotateBuckets ..)

theorem within_applyDay (s : State) : Within k s s.applyDay :=
  (within_forBeds _ (fun b s => within_ite
    (fun _ => within_modBed b _ s fun h => ⟨Nat.zero_le _, (h b).2⟩) fun _ => .refl _) s).trans
    (within_forBeds _ (fun _ _ => within_ite (fun _ => within_evaluate ..) fun _ => .refl _) _)

theorem within_due (l : List Boundary) (s : State) : Within k s { s with bc.due := l } :=
  within_same rfl rfl rfl rfl rfl rfl rfl rfl rfl rfl id id le_rfl rfl

theorem within_counts (h d : Nat) (s : State) : Within k s { s with bc.hours := h, bc.days := d } :=
  within_same rfl rfl rfl rfl rfl rfl rfl rfl rfl rfl id id le_rfl rfl

theorem within_applyBoundary (d : Boundary) (s : State) : Within k s (s.applyBoundary d) := by
  unfold State.applyBoundary
  split
  · exact within_applyDay s
  · exact within_applyHour ..

theorem within_takeDue (s : State) : Within k s s.takeDue :=
  (within_due [] s).trans (within_foldl _ (fun s d => within_applyBoundary d s) _ _)

theorem within_dayBoundary (s : State) : Within k s s.dayBoundary := by
  unfold State.dayBoundary
  split
  · exact (within_due _ s).trans (within_applyDay _)
  · exact .refl _
  · refine within_ite (fun _ => .refl _) fun _ => ?_
    extract_lets u
    exact ((within_advanceTo _ s).trans (within_counts u.bc.hours _ u)).trans (within_applyDay _)

theorem within_countedHour (s : State) : Within k s s.countedHour := by
  unfold State.countedHour
  extract_lets n u _ v _ w
  have h : Within k s v := (within_advanceTo _ s).trans (within_counts n u.bc.days u)
  have g : Within k v w := within_ite (fun _ => (within_counts v.bc.hours _ v).trans (within_applyDay _)) fun _ => .refl _
  exact (h.trans g).trans (within_applyHour ..)

theorem within_hourBoundary (s : State) : Within k s s.hourBoundary := by
  unfold State.hourBoundary
  split
  · exact ((within_due _ s).trans (within_applyDay _)).trans (within_applyHour ..)
  · exact (within_due _ s).trans (within_applyHour ..)
  · exact .refl _
  · exact within_ite (fun _ => .refl _) fun _ => within_countedHour s

theorem within_tickClock (s : State) : Within k s s.tickClock := by
  unfold State.tickClock
  extract_lets u m _ _ v
  have hm : m < 1440 := Nat.mod_lt _ (by decide)
  have h : Within k s v := (within_advanceTo _ s).trans
    ((within_pw { u.pw with minute := m, secondSince := u.now } u fun h => ⟨h.1, hm, h.2.2⟩).trans
      (within_due (u.bc.due ++ boundariesAt m) _))
  exact within_ite (fun _ => h.trans (inside_noteOccasion _).within) fun _ => h

end Sys2Proof.Machine
end

