-- ==== Sys2Proof/Laws/WithinOps.lean ====
section
/-! SUPPORT. Every family's operations are `Within`: the station's own events, probes, notices, orders, the line, the
valve drive and the flow monitor, one lemma each. -/

namespace Sys2Proof.Machine

variable {k : Bool}

/-! ### Station -/

theorem within_setPending (c : Cause) (bed value : Nat) (s : State) : Within k s (s.setPending c bed value) :=
  (inside_setPending ..).within

theorem within_raise (c : Cause) (bed value peer kind one two : Nat) (s : State) :
    Within k s (s.raise c bed value peer kind one two) := (inside_raise ..).within

theorem within_ownCommitted (s : State) : Within k s s.ownCommitted := (inside_ownCommitted s).within

theorem within_placeDraw (flow : Nat) (s : State) : Within k s (s.placeDraw flow) := by
  unfold State.placeDraw
  refine within_ite (fun _ => within_changeEntry _ _ _ _ fun _ => ⟨rfl, rfl⟩) fun _ => ?_
  exact within_ite (fun _ => (within_insert ..).trans (within_ownCommitted _)) fun _ => within_insert ..

theorem within_removeDraw (s : State) : Within k s s.removeDraw := by
  unfold State.removeDraw
  refine within_ite (fun _ => ?_) fun _ => .refl _
  extract_lets w
  have h : Within k s (if w = true then s else s.offer (.free drawBed)) :=
    within_ite (fun _ => .refl _) fun _ => (inside_offer _ rfl _).within
  exact h.trans (within_remove ..)

theorem inside_barBed (b : BedId) (s : State) : Inside s (s.barBed b) := by
  unfold State.barBed
  split
  case h_6 => exact (inside_withdraw s).trans (inside_toIdle ..)
  all_goals first | exact inside_endCycle .. | exact inside_toIdle .. | exact .refl _

theorem within_enterBarred (s : State) : Within k s s.enterBarred := by
  unfold State.enterBarred
  extract_lets _ u v
  have h : Within k s u := (within_station .barred s).trans (inside_forBeds _ inside_barBed _).within
  have g : Within k u v := (within_purge u).trans (within_removeDraw _)
  exact (h.trans g).trans (within_fm { v.fm with drawing := false, quiet := 0 } v fun x =>
    ⟨x.1, x.2.1, x.2.2.1, Nat.zero_lt_succ _, x.2.2.2.2⟩)

theorem within_duplicate (kind : Nat) (s : State) : Within k s (s.duplicate kind) := by
  have h : ∀ s : State, Within k s (s.raiseClash kind) := fun s => within_raise ..
  unfold State.duplicate
  split
  · exact .refl _
  · exact (h s).trans (within_same rfl rfl rfl rfl rfl rfl rfl rfl rfl rfl id id le_rfl rfl)
  · exact (h s).trans (within_enterBarred _)
  · exact (h s).trans (within_enterBarred _)
  · exact h s
  · exact within_setPending ..

theorem within_check (c : CheckPhase) (s : State) : Within k s { s with vd.check := c } :=
  within_same rfl rfl rfl rfl rfl rfl rfl rfl rfl rfl id id le_rfl rfl

theorem within_startUpDone (s : State) : Within k s s.startUpDone := by
  have h : Within k s { s with
      vd.check := .done, sl.station := .listening, sl.listenSince := s.now, tq.tallySince := some s.now } :=
    within_same rfl rfl rfl rfl rfl rfl rfl rfl rfl rfl id id le_rfl rfl
  unfold State.startUpDone
  extract_lets _ _ _ u
  have g : Within k s u := h.trans (within_tallyDue _)
  exact within_ite (fun _ => g.trans (within_enterBarred _)) fun _ => g

theorem within_checkStartUp (s : State) : Within k s s.checkStartUp :=
  within_ite (fun _ => within_startUpDone _) fun _ => .refl _

theorem within_queueRequest (b : BedId) (d : Direction) (s : State) : Within k s (s.queueRequest b d) :=
  (inside_queueRequest ..).within

theorem within_startUpClosure (s : State) : Within k s s.startUpClosure := by
  unfold State.startUpClosure
  extract_lets _ u
  have h : Within k s u := (within_check .closure s).trans
    (within_forBeds _ (fun b s => within_ite (fun _ => within_queueRequest ..) fun _ => .refl _) _)
  exact within_ite (fun _ => h.trans (within_checkStartUp _)) fun _ => h.trans (within_startUpDone _)

theorem within_startCoils (s : State) : Within k s s.startCoils := by
  unfold State.startCoils
  split
  · exact within_startUpClosure s
  · exact within_check ..

theorem within_evaluateCause (c : Cause) (s : State) : Within k s (s.evaluateCause c) :=
  within_ite (fun _ => within_setPending ..) fun _ => .refl _

/-! ### Probes and weather -/

theorem within_visitFrom (ch : Nat) (s : State) : Within k s (s.visitFrom ch) := by
  unfold State.visitFrom
  split
  exacts [within_pw _ _ fun h => ⟨Nat.zero_le _, h.2⟩, within_pw _ _ id]

theorem edgesStop_spec (v : Nat) : (edgesStop v).2 ≤ 65535 ∧ ∀ c, (edgesStop v).1 ≠ .count c := by
  by_cases h : v + Config.periodWait < Config.periodLimit
  · rw [edgesStop, if_pos h]
    exact ⟨h.le, fun c e => nomatch e⟩
  · rw [edgesStop, if_neg h]
    exact ⟨le_rfl, fun c e => nomatch e⟩

/-- The period counter stops at its limit or below, and at a count below it. -/
theorem runCounter_spec (n v : Nat) (gaps : List Nat) (h : v < 65535) :
    (runCounter n v gaps).2 ≤ 65535 ∧ ∀ c, (runCounter n v gaps).1 = .count c → c = (runCounter n v gaps).2 ∧ c < 65535 := by
  have stop (v : Nat) : (edgesStop v).2 ≤ 65535 ∧ ∀ c, (edgesStop v).1 = .count c → c = (edgesStop v).2 ∧ c < 65535 :=
    ⟨(edgesStop_spec v).1, fun c e => absurd e ((edgesStop_spec v).2 c)⟩
  induction n generalizing v gaps with
  | zero => exact ⟨h.le, fun c e => ProbeResult.count.inj e ▸ ⟨rfl, h⟩⟩
  | succ n ih =>
    cases gaps with
    | nil => exact stop v
    | cons g gaps =>
      rw [runCounter]
      split
      · exact stop v
      · split
        · exact ih _ _ ‹_›
        · exact ⟨le_rfl, fun c e => nomatch e⟩

/-- Over periods that end in time and below the limit the counter runs on. -/
theorem runCounter_append (n v : Nat) (periods rest : List Nat) (h : ∀ g ∈ periods, g ≤ 50000) (hv : v + periods.sum < 65535) :
    runCounter (periods.length + n) v (periods ++ rest) = runCounter n (v + periods.sum) rest := by
  induction periods generalizing v with
  | nil => simp
  | cons g l ih =>
    rw [List.sum_cons] at hv
    rw [List.length_cons, Nat.add_right_comm, List.cons_append, runCounter,
      if_neg (show ¬ Config.periodWait < g from not_lt.mpr (h g (.head _))),
      if_pos (show v + g < Config.periodLimit by rw [Config.periodLimit]; omega), ih (v + g) (fun x hx => h x (.tail _ hx)) (by omega), List.sum_cons, Nat.add_assoc]

/-- All that a measurement can be: it waits at most 50 ms for its first edge, and a count is the counter's value below the
limit. -/
theorem measurePeriods_spec (gaps : List Nat) :
    (measurePeriods gaps).wait ≤ 50000 ∧ (measurePeriods gaps).counter ≤ 65535
      ∧ ∀ c, (measurePeriods gaps).ending = .count c → c = (measurePeriods gaps).counter ∧ c < 65535 := by
  cases gaps with
  | nil => exact ⟨le_rfl, Nat.zero_le _, fun c e => nomatch e⟩
  | cons g l =>
    rw [measurePeriods]
    split
    · exact ⟨le_rfl, Nat.zero_le _, fun c e => nomatch e⟩
    · rename_i hg
      exact ⟨not_lt.mp hg, runCounter_spec 16 0 l (by decide)⟩

theorem within_putProbe (b : BedId) (p : Probe) (s : State) (h : WeatherSound s → p.ring.length ≤ 4) :
    Within k s (s.putProbe b p) :=
  within_pw _ _ fun x => ⟨x.1, x.2.1, x.2.2.1, x.2.2.2.1, x.2.2.2.2.1, fun c => by
    show ((s.pw.probes.set b p).get c).ring.length ≤ 4
    rw [PerBed.get_set]
    split
    exacts [h x, x.2.2.2.2.2 c]⟩

theorem within_probeLost (b : BedId) (s : State) : Within k s (s.probeLost b) := by
  unfold State.probeLost
  extract_lets u
  have h : Within k s u := within_modBed b _ s fun h => h b
  refine within_ite (fun _ => ?_) fun _ => h.trans (within_evaluate b false u)
  split
  · exact h.trans (inside_toFaulted ..).within
  · exact h.trans (inside_toFaulted ..).within
  · exact h.trans ((inside_withdraw _).trans (inside_toFaulted ..)).within
  all_goals exact h

theorem within_probeBack (b : BedId) (w : Nat) (s : State) : Within k s (s.probeBack b w) :=
  (within_modBed b (fun x => { x with probeFailed := false }) s fun h => h b).trans (within_handWetness ..)

theorem ringAdd_length (l : List Nat) (w : Nat) (h : l.length ≤ 4) : (ringAdd l w).length ≤ 4 := by
  simp [ringAdd]
  omega

theorem within_goodRead (b : BedId) (w : Nat) (s : State) : Within k s (s.goodRead b w) := by
  unfold State.goodRead
  extract_lets p q
  have hq : WeatherSound s → q.ring.length ≤ 4 := fun h => ringAdd_length _ _ (h.2.2.2.2.2 b)
  refine within_ite (fun _ => within_ite (fun _ => ?_) fun _ => within_putProbe _ _ _ hq) fun _ => ?_
  · exact (within_putProbe b { q with failed := false } s hq).trans (within_probeBack ..)
  · exact (within_putProbe b q s hq).trans (within_handWetness ..)

theorem within_badRead (b : BedId) (one two : Nat) (s : State) : Within k s (s.badRead b one two) := by
  unfold State.badRead
  extract_lets p q
  refine within_ite (fun _ => ?_) fun _ => within_putProbe b q s fun h => h.2.2.2.2.2 b
  exact ((within_putProbe b { q with failed := true, ring := [] } s fun _ => Nat.zero_le _).trans (within_raise ..)).trans
    (within_probeLost ..)

theorem within_readProbe (b : BedId) (r : ProbeResult) (s : State) : Within k s (s.readProbe b r) := by
  unfold State.readProbe
  dsimp only
  split
  · exact within_goodRead ..
  · exact .refl _
  · exact .refl _
  · exact within_badRead ..

theorem within_takeTemperature (t : Int) (s : State) : Within k s (s.takeTemperature t) := by
  unfold State.takeTemperature
  extract_lets first _ u
  have h : Within k s u := within_pw _ s id
  exact within_ite (fun _ => (h.trans (within_pw { u.pw with skySince := some u.now } u id)).trans (within_skyDue _)) fun _ => h

theorem within_goodTemperature (t : Int) (s : State) : Within k s (s.goodTemperature t) := by
  unfold State.goodTemperature
  extract_lets _ u
  have h : Within k s u := within_pw _ s id
  refine within_ite (fun _ => within_ite (fun _ => ?_) fun _ => h) fun _ => h.trans (within_takeTemperature ..)
  exact (h.trans (within_pw { u.pw with tempFailed := false } u id)).trans (within_takeTemperature ..)

theorem within_badTemperature (v : Nat) (s : State) : Within k s (s.badTemperature v) := by
  unfold State.badTemperature
  extract_lets _ u
  have h : Within k s u := within_pw _ s id
  exact within_ite (fun _ => (h.trans (within_pw { u.pw with tempFailed := true, temperature := none, skySince := none } u id)).trans
    (within_raise ..)) fun _ => h

theorem within_readTemperature (r : ProbeResult) (s : State) : Within k s (s.readTemperature r) := by
  unfold State.readTemperature
  split
  · exact within_goodTemperature ..
  · exact within_badTemperature ..
  · exact within_badTemperature ..

theorem within_goStale (s : State) : Within k s s.goStale :=
  ((within_pw { s.pw with staleNoted := true } s id).trans (within_weighWeather _)).trans (within_evaluateCause ..)

/-! ### Notices -/

theorem within_frameOver (len : Nat) (s : State) : Within k s (s.frameOver len) :=
  (within_advanceTo _ s).trans (within_li _ _)

/-- A valid frame's event, for whatever is done with it. -/
theorem within_heard (src : Nat) (f : State → State) (hf : ∀ s, Within k s (f s)) (s : State) : Within k s (s.heard src f) := by
  unfold State.heard
  extract_lets _ u
  have h : Within k s u := within_li _ s
  exact (h.trans (within_ite (fun _ => within_refresh src u) fun _ => .refl _)).trans (hf _)

theorem within_receive (src kind len : Nat) (f : State → State) (hf : ∀ s, Within k s (f s)) (s : State) :
    Within k s (s.receive src kind len f) := by
  refine within_ite (fun _ => ?_) fun _ => .refl _
  extract_lets u
  have h : Within k s u := within_frameOver len s
  exact (h.trans (within_ite (fun _ => within_duplicate kind u) fun _ => within_heard src f hf u)).trans (within_finish _)

theorem within_hand (src tgt kind len : Nat) (fits : Bool) (f : State → State) (hf : ∀ s, Within k s (f s)) (s : State) :
    Within k s (s.hand src tgt kind len fits f) :=
  within_receive _ _ _ _ (fun s => within_ite (fun _ => within_ite (fun _ => hf s) fun _ => within_receiveError s)
    fun _ => .refl _) s

theorem within_answer (tgt : Nat) (r : Reply) (s : State) : Within k s (s.answer tgt r) :=
  within_ite (fun _ => within_li _ s) fun _ => .refl _

theorem within_takeClaim (src bed flow : Nat) (u : Urgency) (age : Nat) (s : State) :
    Within k s (s.takeClaim src bed flow u age) := by
  unfold State.takeClaim
  extract_lets v
  have h : Within k s v :=
    within_modRow src (fun r => { r with lastClaim := some ⟨bed, flow, u, age⟩ }) (fun _ => rfl) (fun _ => rfl) s
  exact h.trans (within_ite (fun _ => within_changeEntry _ _ _ _ fun _ => ⟨rfl, rfl⟩) fun _ => within_insert ..)

theorem within_takeCommit (src bed : Nat) (s : State) : Within k s (s.takeCommit src bed) := by
  unfold State.takeCommit
  refine within_ite (fun _ => within_changeEntry _ _ _ _ fun _ => ⟨rfl, rfl⟩) fun _ => ?_
  split <;> exact within_insert ..

theorem within_takeFree (src bed : Nat) (s : State) : Within k s (s.takeFree src bed) :=
  (within_remove src bed s).trans (within_lastFree _ _)

theorem within_takeBudget (src : Nat) (t : TallyNotice) (s : State) : Within k s (s.takeBudget src t) := by
  have h : Within k s (s.modRow src fun r => { r with budget := some t.budget, barred := t.barred }).recomputeBudget :=
    within_recompute _ s fun hp => by
      rw [stations_modRow src (fun r => { r with budget := some t.budget, barred := t.barred }) (fun _ => rfl)]; exact hp
  unfold State.takeBudget
  extract_lets before u v
  refine h.trans (within_ite (fun _ => ?_) fun _ => .refl _)
  exact (within_setPending ..).trans (within_ite (fun _ => (inside_takeFault ..).within) fun _ => .refl _)

theorem within_dropUnlisted (src : Nat) (l : List TallyEntry) (s : State) : Within k s (s.dropUnlisted src l) :=
  within_ite (fun _ => .refl _) fun _ => within_filterBook _ s

theorem within_takeListing (src : Nat) (t : TallyEntry) (s : State) : Within k s (s.takeListing src t) :=
  within_ite (fun _ => within_changeEntry _ _ _ _ fun _ => ⟨rfl, rfl⟩) fun _ => within_insert ..

theorem within_takeTally (src : Nat) (t : TallyNotice) (s : State) : Within k s (s.takeTally src t) :=
  ((within_takeBudget src t s).trans (within_dropUnlisted ..)).trans
    (within_foldl _ (fun s e => within_takeListing src e s) _ _)

theorem within_takeShed (tgt victim : Nat) (u : Urgency) (s : State) : Within k s (s.takeShed tgt victim u) := by
  unfold State.takeShed
  split
  · exact (within_answer ..).trans (inside_cut ..).within
  · exact within_answer ..

/-! ### Orders -/

theorem within_refuse (tgt : Nat) (o : OrderKind) (r : RefusalReason) (s : State) : Within k s (s.refuse tgt o r) :=
  (inside_noteRefusal o r s).within.trans (within_answer ..)

theorem within_groupOrder (sel : Nat) (o : OrderKind) (args : Bool) (act : List BedId → State → State)
    (ha : ∀ l s, Within k s (act l s)) (s : State) : Within k s (s.groupOrder sel o args act) := by
  unfold State.groupOrder
  split
  · exact .refl _
  · exact within_ite (fun _ => (inside_noteRefusal ..).within) fun _ =>
      within_ite (fun _ => (inside_noteRefusal ..).within) fun _ => ha _ s

theorem within_bedOrder (tgt sel : Nat) (o : OrderKind) (args : Bool) (takes : BedId → State → Bool)
    (act : BedId → State → State) (ha : ∀ b s, Within k s (act b s)) (s : State) :
    Within k s (s.bedOrder tgt sel o args takes act) := by
  unfold State.bedOrder
  refine within_ite (fun _ => within_groupOrder _ _ _ _ (fun l s => within_foldl _ (fun s b => ?_) l s) s) fun _ =>
    within_ite (fun _ => within_refuse ..) fun _ => ?_
  · exact within_ite (fun _ => (inside_noteRefusal ..).within) fun _ =>
      within_ite (fun _ => (inside_noteRefusal ..).within) fun _ => ha b s
  · split
    · exact within_refuse ..
    · exact within_ite (fun _ => within_refuse ..) fun _ => within_ite (fun _ => within_refuse ..) fun _ =>
        (ha _ s).trans (within_answer ..)

theorem within_stationOrder (tgt sel : Nat) (o : OrderKind) (args : Bool) (act : State → State)
    (ha : ∀ s, Within k s (act s)) (s : State) : Within k s (s.stationOrder tgt sel o args act) :=
  within_ite (fun _ => within_groupOrder _ _ _ _ (fun _ s => ha s) s) fun _ => within_ite (fun _ => within_refuse ..)
    fun _ => within_ite (fun _ => within_refuse ..) fun _ => (ha s).trans (within_answer ..)

theorem inside_waterBed (n : Nat) (b : BedId) (s : State) : Inside s (s.waterBed n b) := by
  unfold State.waterBed
  split
  · exact inside_modBed _ _ _ rfl le_rfl
  · exact inside_applyWater ..

theorem inside_skipBed (b : BedId) (s : State) : Inside s (s.skipBed b) := by
  unfold State.skipBed
  extract_lets u
  have h : Inside s u := inside_modBed b _ s rfl le_rfl
  split
  · exact h
  · exact h
  · exact h.trans (inside_modBed _ _ _ rfl le_rfl)
  · exact h.trans (inside_toIdle ..)
  · exact h.trans (inside_toIdle ..)
  · exact h.trans ((inside_withdraw _).trans (inside_toIdle ..))
  · exact (h.trans (inside_modBed b _ _ rfl le_rfl)).trans (inside_endCycle ..)
  · exact (h.trans (inside_modBed b _ _ rfl le_rfl)).trans (inside_endCycle ..)
  · exact (h.trans (inside_modBed b _ _ rfl le_rfl)).trans (inside_endCycle ..)
  · exact h.trans (inside_modBed _ _ _ rfl le_rfl)

theorem inside_targetBed (a z : Nat) (b : BedId) (s : State) : Inside s (s.targetBed a z b) := by
  unfold State.targetBed
  extract_lets u
  have h : Inside s u := inside_modBed b _ s rfl le_rfl
  split <;> first | exact h.trans (inside_bringTargets ..) | exact h

theorem within_rearm (c : Cause) (s : State) : Within true s (s.rearm c) where
  sound h := ⟨h.1, h.2, h.3, h.4, h.5, h.6, h.7, h.8, h.9⟩
  setup := rfl
  own := rfl
  time := le_rfl
  pending := rfl
  record h := nomatch h
  latched h := nomatch h

theorem within_emptyRecord (s : State) : Within true s s.emptyRecord where
  sound h := ⟨h.1, h.2, h.3, h.4, h.5, h.6, h.7, h.8, h.9⟩
  setup := rfl
  own := rfl
  time := le_rfl
  pending := rfl
  record h := nomatch h
  latched h := nomatch h

theorem within_raiseFree (b : BedId) (s : State) : Within k s (s.raiseFree b) := by
  have h : Within k s { s with free := s.free + 2 } := within_same rfl rfl rfl rfl rfl rfl rfl rfl rfl rfl id id le_rfl rfl
  exact h.trans (within_raise ..)

theorem within_returnBed (b : BedId) (s : State) : Within k s (s.returnBed b) := by
  unfold State.returnBed
  extract_lets u
  have h : Within k s u := ((inside_toIdle b s).trans (inside_evaluate ..)).within
  exact within_ite (fun _ => h.trans (within_raiseFree ..)) fun _ => h

theorem within_returnBeds (c : Cause) (s : State) : Within k s (s.returnBeds c) :=
  within_forBeds _ (fun _ _ => within_ite (fun _ => within_returnBed ..) fun _ => .refl _) s

theorem within_clearCause (c : Cause) (s : State) : Within true s (s.clearCause c) :=
  ((within_rearm c s).trans (within_returnBeds ..)).trans (within_evaluateCause ..)

theorem within_clearOrder (n : Nat) (s : State) : Within true s (s.clearOrder n) := by
  unfold State.clearOrder
  split
  · exact within_clearCause ..
  · exact (within_foldl _ (fun s c => within_clearCause c s) _ s).trans (within_emptyRecord _)

/-! ### The line -/

theorem within_beginAttempt (s : State) : Within k s s.beginAttempt := by
  unfold State.beginAttempt
  split
  · exact .refl _
  · exact within_li _ s

theorem inside_leftCancelled (n : Notice) (s : State) : Inside s (s.leftCancelled n) := by
  unfold State.leftCancelled
  split
  · exact inside_clearClaim s
  · split
    · exact inside_applyHeld s
    · exact .refl _

theorem inside_dropCancelled (s : State) : Inside s s.dropCancelled := by
  unfold State.dropCancelled
  split
  · split
    · exact (inside_popHead s).trans (inside_leftCancelled ..)
    · exact .refl _
  · exact .refl _

theorem inside_headRun (n : Nat) (s : State) : Inside s { s with tq.headRun := n } :=
  inside_queue s.tq.queue n s id

theorem inside_raiseRun (s : State) : Inside s s.raiseRun := by
  unfold State.raiseRun
  extract_lets _ u
  have h : Inside s u := inside_headRun _ s
  split
  · exact h.trans (inside_raise ..)
  · exact h

theorem within_collide (s : State) : Within k s s.collide :=
  ((within_li _ s).trans (within_countCollision _)).trans ((inside_raiseRun _).trans (inside_dropCancelled _)).within

theorem within_claimOnLine (s : State) : Within k s s.claimOnLine := by
  unfold State.claimOnLine
  extract_lets c placed _ _
  have h : Within k s placed := within_insert ..
  refine within_ite (fun _ => h.trans (inside_endClaim _).within) fun _ =>
    within_ite (fun _ => h.trans (inside_dropClaim _).within) fun _ => h.trans (inside_claim _ _).within

theorem within_onLine (n : Notice) (s : State) : Within k s (s.onLine n) := by
  have h : Within k s s.claimOver := within_ite (fun _ => (inside_clearClaim s).within) fun _ => .refl _
  unfold State.onLine
  split
  · exact within_claimOnLine s
  · exact h
  · exact h
  all_goals exact .refl _

theorem inside_shedAnswered (r : Reply) (s : State) : Inside s (s.shedAnswered r) := by
  unfold State.shedAnswered
  split
  · exact inside_applyHeld s
  · split
    · exact inside_claim _ s
    · exact inside_dropClaim s

theorem inside_shedGivenUp (station victim : Nat) (c : BedId) (s : State) : Inside s (s.shedGivenUp station victim c) := by
  unfold State.shedGivenUp
  extract_lets u
  have h : Inside s u := inside_raise ..
  split
  · exact h.trans (inside_applyHeld _)
  · exact h.trans (inside_dropClaim _)

theorem inside_shedOnLine (q : Queued) (station victim : Nat) (c : BedId) (slot : Option SlotByte) (s : State) :
    Inside s (s.shedOnLine q station victim c slot) := by
  unfold State.shedOnLine
  split
  · exact (inside_popHead s).trans (inside_shedAnswered ..)
  · split
    · exact (inside_popHead s).trans (inside_shedGivenUp ..)
    · split
      · exact (inside_popHead s).trans (inside_applyHeld _)
      · exact inside_modHead (fun q => { q with unanswered := q.unanswered + 1 }) (fun _ => rfl) s

theorem within_completed (s : State) : Within k s s.completed :=
  ((within_li { s.li with attempt := none, yielding := true, lossSince := s.now } s).trans
    (inside_headRun 0 _).within).trans (within_leaveHold ..)

theorem within_enterOwnSlot (s : State) : Within k s s.enterOwnSlot := by
  unfold State.enterOwnSlot
  split
  · exact within_ite (fun _ => (within_advanceTo _ s).trans (within_li _ _)) fun _ => .refl _
  · exact .refl _

theorem within_endSlot (s : State) : Within k s s.endSlot := (within_advanceTo _ s).trans (within_li _ _)

theorem within_complete (a : Attempt) (slot : Option SlotByte) (s : State) : Within k s (s.complete a slot) := by
  unfold State.complete
  split
  · exact .refl _
  · dsimp only
    split
    · exact (((within_enterOwnSlot s).trans (within_advanceTo _ _)).trans (within_completed _)).trans
        (inside_shedOnLine ..).within
    · exact ((((within_advanceTo _ s).trans (within_li _ _)).trans (within_completed _)).trans (within_popHead _)).trans
        (within_onLine ..)

theorem within_expire (n : Nat) (s : State) : Within k s (s.expire n) := by
  have hp : ∀ s : State, PresenceSound s →
      ((s.sb.presence.filter fun r => r.station != n).map fun r => r.station).Nodup :=
    fun _ h => h.sublist ((List.filter_sublist ..).map _)
  unfold State.expire
  extract_lets book _ u
  have e : u.sb.book = s.sb.book := rfl
  by_cases h : book.length = s.sb.book.length
  · rw [e, if_pos h]
    exact within_recompute _ s (hp s)
  · rw [e, if_neg h]
    exact (within_filterBook _ s).trans (within_recompute _ (s.putBook book) (hp (s.putBook book)))

theorem inside_endSoak (b : BedId) (s : State) : Inside s (s.endSoak b) := by
  unfold State.endSoak
  split
  · split
    · exact inside_toIdle ..
    · exact inside_toWaiting ..
  · exact inside_toWaiting ..

/-! ### The valve drive -/

/-- The valve drive's fields that no bound speaks of. -/
theorem within_vd (v : ValveDrive) (s : State) (hq : v.queue = s.vd.queue) (hl : v.closures = s.vd.closures) :
    Within k s { s with vd := v } :=
  within_same rfl rfl rfl hq hl rfl rfl rfl rfl rfl id id le_rfl rfl

theorem inside_endOpenPulse (b : BedId) (s : State) : Inside s (s.endOpenPulse b) := by
  have h : Inside s ((s.setValve b .opened).bedOpened b) := (inside_setValve ..).trans (inside_bedOpened ..)
  unfold State.endOpenPulse
  extract_lets u
  split
  · exact h.trans (inside_setValve ..)
  · exact h

theorem inside_endPulse (r : Request) (s : State) : Inside s (s.endPulse r) := by
  have h : Inside s { s with vd.generator := .recovery s.now } := inside_drive s.vd.queue _ s.vd.closures s id
  unfold State.endPulse
  extract_lets _ u
  split
  · exact h.trans (inside_endOpenPulse ..)
  · exact h.trans (inside_valveClosed ..)

theorem inside_endPullIn (b : BedId) (release : Bool) (s : State) : Inside s (s.endPullIn b release) := by
  have h : Inside s ((s.setValve b .opened).bedOpened b) := (inside_setValve ..).trans (inside_bedOpened ..)
  unfold State.endPullIn
  extract_lets u
  split
  · exact h.trans ((inside_freeChannel ..).trans (inside_valveClosed ..))
  · exact h.trans (inside_modChannel ..)

theorem within_supplyComes (s : State) : Within k s s.supplyComes :=
  (within_vd { s.vd with supply := .good, chargeSince := some s.now } s rfl rfl).trans
    ((inside_mapChannels _ _).trans (inside_kick _)).within

theorem within_supplyGoes (s : State) : Within k s s.supplyGoes :=
  ((within_vd { s.vd with supply := .lost, ready := false, chargeSince := none } s rfl rfl).trans (within_joinHold ..)).trans
    (within_setPending ..)

theorem inside_cutPulse (s : State) : Inside s s.cutPulse := by
  unfold State.cutPulse
  split
  · exact (inside_drive s.vd.queue _ s.vd.closures s id).trans (inside_setValve ..)
  all_goals exact .refl _

theorem inside_flushQueue (s : State) : Inside s s.flushQueue := by
  unfold State.flushQueue
  extract_lets q
  refine (inside_drive [] s.vd.generator s.vd.closures s fun h => ⟨List.nodup_nil, h.2⟩).trans (inside_forBeds _ ?_ _)
  intro b t
  split
  · exact inside_valveClosed ..
  · exact .refl _

theorem inside_releaseChannels (s : State) : Inside s s.releaseChannels := by
  unfold State.releaseChannels
  extract_lets taken
  refine (inside_channels none none s).trans (inside_forBeds _ ?_ _)
  intro b t
  split
  · exact inside_valveClosed ..
  · exact .refl _

theorem inside_markClosing (b : BedId) (s : State) : Inside s (s.markClosing b) := by
  unfold State.markClosing
  split
  · exact inside_setValve ..
  · exact .refl _

theorem inside_reserveClosure (wasReady : Bool) (s : State) : Inside s (s.reserveClosure wasReady) := by
  unfold State.reserveClosure
  extract_lets list u
  have h : Inside s u := inside_foldl _ (fun s b => inside_markClosing b s) _ s
  split
  · exact (h.trans (inside_drive u.vd.queue u.vd.generator list u fun x => ⟨x.1, List.length_take_le ..⟩)).trans (inside_kick _)
  · exact h.trans (inside_drive u.vd.queue u.vd.generator [] u fun x => ⟨x.1, Nat.zero_le _⟩)

theorem inside_recloseBed (b : BedId) (s : State) : Inside s (s.recloseBed b) := by
  unfold State.recloseBed
  split
  · exact (inside_markClosing ..).trans (inside_queueRequest ..)
  · exact .refl _

theorem inside_stopDriving (b : BedId) (s : State) : Inside s (s.stopDriving b) := by
  unfold State.stopDriving
  extract_lets _ u
  have h : Inside s u := inside_drive _ s.vd.generator _ s fun x =>
    ⟨(List.filter_sublist.map _).nodup x.1, (List.length_filter_le ..).trans x.2⟩
  split
  · exact h.trans (inside_cutPulse u)
  · exact h

theorem within_coilResult (b : BedId) (ohms : Nat) (s : State) : Within k s (s.coilResult b ohms) := by
  unfold State.coilResult
  split
  · exact within_vd _ s rfl rfl
  · exact ((inside_stopDriving b s).trans ((inside_setOff b _).trans (inside_raise ..))).within

/-! ### The flow monitor -/

theorem within_captureEdge (s : State) : Within k s s.captureEdge := within_fm _ s id

theorem within_changeLevel (s : State) : Within k s s.changeLevel :=
  (within_advanceTo _ s).trans (within_fm _ _ id)

theorem within_creditMetered (w : Window) (s : State) : Within k s (s.creditMetered w) := by
  unfold State.creditMetered
  extract_lets bs total
  refine within_ite (fun _ => within_fm _ s id) fun _ => ?_
  exact (within_fm { s.fm with carry := total % w.k } s id).trans
    (within_foldl _ (fun s (x : BedId × Nat) => within_credit x.1 x.2 s) _ _)

theorem within_creditNominal (b : BedId) (s : State) : Within k s (s.creditNominal b) := by
  unfold State.creditNominal
  extract_lets n
  refine (within_fm { s.fm with bedCarry := s.fm.bedCarry.set b (n % 12) } s fun h =>
    ⟨h.1, h.2.1, h.2.2.1, h.2.2.2.1, fun c => ?_⟩).trans (within_credit ..)
  rw [PerBed.get_set]
  split
  exacts [Nat.mod_lt _ (by decide), h.2.2.2.2 c]

theorem within_creditWindow (w : Window) (s : State) : Within k s (s.creditWindow w) :=
  within_ite (fun _ => within_creditMetered ..) fun _ => within_foldl _ (fun s b => within_creditNominal b s) _ s

theorem inside_confirmFlows (w : Window) (s : State) : Inside s (s.confirmFlows w) := by
  unfold State.confirmFlows
  split
  · refine inside_forBeds _ (fun b t => ?_) s
    split
    · exact inside_bedConfirmed ..
    · exact .refl _
  · exact .refl _

theorem inside_fireBranch (w : Window) (f : BedFault) (c : EndCause) (s : State) : Inside s (s.fireBranch w f c) :=
  (inside_foldl _ (fun s b => inside_faultBed b c s) _ s).trans (inside_raise ..)

theorem within_leakCheck (w : Window) (s : State) : Within k s (s.leakCheck w) := by
  unfold State.leakCheck
  extract_lets n
  refine within_ite (fun _ => ?_) fun h => ?_
  · exact (within_fm { s.fm with leakRun := 0 } s fun h => ⟨Nat.zero_lt_succ _, h.2⟩).trans (inside_fireBranch ..).within
  · exact within_fm { s.fm with leakRun := n } s fun x => ⟨Nat.lt_of_not_le h, x.2⟩

theorem within_noflowCheck (w : Window) (s : State) : Within k s (s.noflowCheck w) := by
  unfold State.noflowCheck
  extract_lets n
  refine within_ite (fun _ => ?_) fun h => ?_
  · exact (within_fm { s.fm with noflowRun := 0 } s fun h => ⟨h.1, Nat.zero_lt_succ _, h.2.2⟩).trans
      (inside_fireBranch ..).within
  · exact within_fm { s.fm with noflowRun := n } s fun x => ⟨x.1, Nat.lt_of_not_le h, x.2.2⟩

theorem within_stuckCheck (w : Window) (s : State) : Within k s (s.stuckCheck w) := by
  unfold State.stuckCheck
  extract_lets met n u
  refine within_ite (fun _ => ?_) fun h => ?_
  · have h : Within k s u := within_setPending ..
    exact (h.trans (within_fm { u.fm with stuckRun := 0, drawing := true, quiet := 0 } u fun h =>
      ⟨h.1, h.2.1, Nat.zero_lt_succ _, Nat.zero_lt_succ _, h.2.2.2.2⟩)).trans (within_placeDraw ..)
  · exact within_fm { s.fm with stuckRun := n } s fun x => ⟨x.1, x.2.1, Nat.lt_of_not_le h, x.2.2.2⟩

theorem within_drawStep (w : Window) (s : State) : Within k s (s.drawStep w) := by
  have h0 : ∀ d, Within k s { s with fm := { s.fm with drawing := d, quiet := 0 } } := fun d =>
    within_fm _ s fun h => ⟨h.1, h.2.1, h.2.2.1, Nat.zero_lt_succ _, h.2.2.2.2⟩
  unfold State.drawStep
  refine within_ite (fun _ => .refl _) fun _ => within_ite (fun _ => ?_) fun _ => within_ite (fun _ => ?_) fun h => ?_
  · exact (h0 s.fm.drawing).trans (within_placeDraw ..)
  · exact (h0 false).trans (within_removeDraw _)
  · exact within_fm { s.fm with quiet := s.fm.quiet + 1 } s fun x =>
      ⟨x.1, x.2.1, x.2.2.1, Nat.lt_of_not_le h, x.2.2.2.2⟩

theorem within_checkBranch (w : Window) (s : State) : Within k s (s.checkBranch w) := by
  refine within_ite (fun _ => ?_) fun _ => .refl _
  extract_lets d u
  have h : Within k s u := ((within_leakCheck w s).trans (within_noflowCheck ..)).trans (within_stuckCheck ..)
  exact within_ite (fun _ => h.trans (within_drawStep ..)) fun _ => h

theorem within_endWindow (s : State) : Within k s s.endWindow := by
  unfold State.endWindow
  extract_lets w _ u
  have h : Within k s u := within_fm _ s id
  exact ((h.trans (within_creditWindow ..)).trans (inside_confirmFlows ..).within).trans (within_checkBranch ..)

theorem inside_giveUpConfirm (b : BedId) (s : State) : Inside s (s.giveUpConfirm b) :=
  (inside_faultBed ..).trans (inside_raise ..)

end Sys2Proof.Machine
end

