-- ==== Sys2Proof/Laws/Finish.lean ====
section
/-! SUPPORT. The end of an event: what is left of it when no book change and no offer occasion stands, when an occasion
alone stands, and what the ALERTs write. -/

namespace Sys2Proof.Machine

theorem AfterAlerts.refl (s : State) : AfterAlerts s s :=
  ⟨rfl, ⟨[], by simp, by simp⟩, fun _ _ => ⟨rfl, rfl, rfl⟩⟩

theorem AfterAlerts.trans {s t u : State} (h : AfterAlerts s t) (k : AfterAlerts t u) : AfterAlerts s u := by
  obtain ⟨h1, ⟨l, h2, h2'⟩, h3⟩ := h
  obtain ⟨k1, ⟨m, k2, k2'⟩, k3⟩ := k
  refine ⟨?_, ⟨l ++ m, by rw [k2, h2, List.append_assoc], ?_⟩, fun c hc => ?_⟩
  · rw [k1, h1]
  · intro q hq
    rcases List.mem_append.mp hq with h | h
    exacts [h2' q h, k2' q h]
  · obtain ⟨a, b, c'⟩ := h3 c hc
    obtain ⟨d, e, f⟩ := k3 c hc
    exact ⟨d.trans a, e.trans b, f.trans c'⟩

theorem afterAlerts_setDiscard (bed value : Nat) (s : State) : AfterAlerts s (s.setPending .discard bed value) := by
  refine ⟨?_, ⟨[], ?_, by simp⟩, fun c hc => ?_⟩
  · unfold State.setPending; split <;> rfl
  · unfold State.setPending; split <;> simp
  · rw [State.latch_setPending, if_neg hc]; exact ⟨rfl, rfl, rfl⟩

theorem afterAlerts_offer (c : Cause) (bed value : Nat) (s : State) : AfterAlerts s (s.offer (.alert c bed value)) := by
  unfold State.offer
  split
  · exact ⟨rfl, ⟨_, rfl, by simp [Notice.code]⟩, fun _ _ => ⟨rfl, rfl, rfl⟩⟩
  · split
    · exact afterAlerts_setDiscard ..
    · exact .refl _

theorem afterAlerts_disarm (c : Cause) (s : State) : AfterAlerts s (s.disarm c) := by
  refine ⟨rfl, ⟨[], by simp [State.disarm], by simp⟩, fun d _ => ?_⟩
  simp only [State.disarm, State.latch, Latches.get_set]
  split
  · subst_vars; exact ⟨rfl, rfl, rfl⟩
  · exact ⟨rfl, rfl, rfl⟩

theorem afterAlerts_offerAlert (c : Cause) (s : State) : AfterAlerts s (s.offerAlert c) := by
  unfold State.offerAlert
  dsimp only
  split
  · exact (afterAlerts_disarm c s).trans (afterAlerts_offer ..)
  · exact .refl _

theorem afterAlerts_offerAlerts (s : State) : AfterAlerts s s.offerAlerts := by
  unfold State.offerAlerts
  generalize Cause.all ++ [Cause.discard] = l
  induction l generalizing s with
  | nil => exact .refl _
  | cons c l ih => exact (afterAlerts_offerAlert c s).trans (ih _)

/-- With nothing to settle, the ALERTs are all that an event's end brings. -/
theorem settle_settled (s : State) (h : Settled s) : s.settle = s := by
  obtain ⟨hd, ho⟩ := h
  have e : s.settleBook settleLaps = s := by
    unfold settleLaps State.settleBook
    simp [hd]
  have e1 : ({ s.sb with dirty := false } : SupplyBook) = s.sb := by rw [← hd]
  have e2 : ({ s.bc with occasion := false } : BedController) = s.bc := by rw [← ho]
  have t : { s with sb.dirty := false, bc.occasion := false } = s := by rw [e1, e2]
  unfold State.settle
  simp [e, ho, t]

theorem finish_settled (s : State) (h : Settled s) : AfterAlerts s s.finish := by
  unfold State.finish
  rw [settle_settled s h]
  exact afterAlerts_offerAlerts s

/-- With an offer occasion alone, it is weighed. -/
theorem settle_occasion (s : State) (hd : s.sb.dirty = false) (ho : s.bc.occasion = true) :
    s.settle = State.weighOccasion { s with bc.occasion := false } := by
  have e : s.settleBook settleLaps = s := by
    unfold settleLaps State.settleBook
    simp [hd]
  have t : { s with sb.dirty := false, bc.occasion := false } = { s with bc.occasion := false } := by rw [← hd]
  unfold State.settle
  simp only [e, ho, t]
  rfl

/-- An offer leaves both marks as they are. -/
theorem offer_marks (n : Notice) (s : State) :
    (s.offer n).sb.dirty = s.sb.dirty ∧ (s.offer n).bc.occasion = s.bc.occasion := by
  unfold State.offer
  split
  · exact ⟨rfl, rfl⟩
  · split
    · rw [State.setPending_rest]; exact ⟨rfl, rfl⟩
    · exact ⟨rfl, rfl⟩

theorem settled_weighOccasion (s : State) (h : Settled s) : Settled s.weighOccasion := by
  unfold State.weighOccasion
  split
  · split
    · unfold State.offerBed State.moveBed
      exact ⟨(offer_marks _ _).1.trans h.1, (offer_marks _ _).2.trans h.2⟩
    · exact h
  · exact h

theorem settled_settle (s : State) : Settled s.settle := by
  unfold State.settle
  extract_lets u _ _ v
  have h : Settled v := ⟨rfl, rfl⟩
  split
  · exact settled_weighOccasion v h
  · exact h

/-- Both marks end with the event. -/
theorem settled_finish (s : State) : Settled s.finish := by
  have h := settled_settle s
  have a := (afterAlerts_offerAlerts s.settle).1
  unfold State.finish
  rw [a]
  exact h

end Sys2Proof.Machine
end

