-- ==== Sys2Proof/Laws/Frames.lean ====
section
/-! SUPPORT. What a received frame and a taken event come to, as equations: the meaning's own operation at the frame's
end, then the event's end; and how a peer's entry is looked up before and after the further work of an event. -/

namespace Sys2Proof.Machine

variable {s t u : State} {f : State → State}

/-- Past LOADING an event is its operation and its end. -/
theorem take_live (hl : s.live = true) : s.take f = (f s).finish := if_pos hl

/-- An event that leaves nothing to settle ends with its ALERTs. -/
theorem take_settled (hl : s.live = true) (e : f s = u) (h : Settled u) : AfterAlerts u (s.take f) := by
  rw [take_live hl, e]
  exact finish_settled u h

/-- The further work of a taken event. -/
theorem take_further (hl : s.live = true) : FurtherWork (f s) (s.take f) := by
  rw [take_live hl]
  exact (inside_finish _).further

theorem FurtherWork.trans (h : FurtherWork s t) (k : FurtherWork t u) : FurtherWork s u where
  outer := k.outer.trans h.outer
  core b := (k.core b).trans (h.core b)
  holds := by
    rcases h.holds with a | a <;> rcases k.holds with b | b <;> rw [b, a]
    exacts [.inl rfl, .inr rfl, .inr rfl, .inr rfl]
  peers := k.peers.trans h.peers
  record f e := k.record f (h.record f e)
  latched c e := k.latched c (h.latched c e)

/-! ### Frames -/

@[simp] theorem frameTaken_own (src len : Nat) (s : State) : (s.frameTaken src len).sl = s.sl := by
  unfold State.frameTaken State.refresh
  dsimp only
  split
  · split <;> rfl
  · rfl

theorem frameTaken_now (src len : Nat) (s : State) : (s.frameTaken src len).now = s.frameEnd len := by
  unfold State.frameTaken State.refresh State.frameEnd
  dsimp only
  split
  · split <;> rfl
  · rfl

/-- A frame's end touches the line, the presence rows and time alone. -/
theorem frameTaken_rest (src len : Nat) (s : State) :
    s.frameTaken src len = { s with
      now := (s.frameTaken src len).now, li := (s.frameTaken src len).li,
      sb.presence := (s.frameTaken src len).sb.presence } := by
  unfold State.frameTaken State.refresh
  dsimp only
  split
  · split <;> rfl
  · rfl

theorem frameTaken_settled (src len : Nat) (h : Settled s) : Settled (s.frameTaken src len) := by
  rw [frameTaken_rest]; exact h

/-- A valid frame of another sender is its operation at the frame's end. -/
theorem receive_other (src kind len : Nat) (hr : s.receiving = true) (ho : src ≠ s.sl.own) :
    s.receive src kind len f = (f (s.frameTaken src len)).finish := by
  unfold State.receive
  rw [if_pos hr]
  dsimp only
  rw [if_neg (by exact ho)]
  rfl

/-- A notice that is addressed to the station and fits its layout. -/
theorem hand_fits (src tgt kind len : Nat) (hr : s.receiving = true) (ho : src ≠ s.sl.own) (ha : s.addressed tgt = true)
    (hk : 1 ≤ src ∧ src ≤ 15 ∨ src = 0 ∧ kind = 9) :
    s.hand src tgt kind len true f = (f (s.frameTaken src len)).finish := by
  unfold State.hand
  rw [receive_other _ _ _ hr ho]
  have e : State.addressed tgt (s.frameTaken src len) = true := by simpa [State.addressed] using ha
  have k : (inRange 1 15 src || (src == 0 && kind == 9)) = true := by
    rcases hk with ⟨a, b⟩ | ⟨a, b⟩
    · simp [inRange, a, b]
    · simp [a, b]
  simp [e, k]

/-- One whose fields do not fit counts one receive error. -/
theorem hand_unfit (src tgt kind len : Nat) (hr : s.receiving = true) (ho : src ≠ s.sl.own) (ha : s.addressed tgt = true)
    (hk : 1 ≤ src ∧ src ≤ 15 ∨ src = 0 ∧ kind = 9) :
    s.hand src tgt kind len false f = (s.frameTaken src len).receiveError.finish := by
  unfold State.hand
  rw [receive_other _ _ _ hr ho]
  have e : State.addressed tgt (s.frameTaken src len) = true := by simpa [State.addressed] using ha
  have k : (inRange 1 15 src || (src == 0 && kind == 9)) = true := by
    rcases hk with ⟨a, b⟩ | ⟨a, b⟩
    · simp [inRange, a, b]
    · simp [a, b]
  simp [e, k]

theorem hand_hears (src tgt kind len : Nat) (h : s.hears src tgt) :
    s.hand src tgt kind len true f = (f (s.frameTaken src len)).finish :=
  hand_fits _ _ _ _ h.1 h.2.2.2.1 h.2.2.2.2 (.inl ⟨h.2.1, h.2.2.1⟩)

theorem order_hears (src len : Nat) (h : s.hearsOrder src) :
    s.order src s.sl.own len f = (f (s.frameTaken src len)).finish :=
  hand_fits _ _ _ _ h.1 h.2.2.1 (by simp [State.addressed]) (by have := h.2.1; omega)

theorem order_group (src len : Nat) (h : s.hearsOrder src) : s.order src 0 len f = (f (s.frameTaken src len)).finish :=
  hand_fits _ _ _ _ h.1 h.2.2.1 (by simp [State.addressed]) (by have := h.2.1; omega)

/-! ### A peer's entries -/

theorem entry_peers (st bd : Nat) (s : State) (h : st ≠ s.sl.own) :
    s.entry st bd = s.peers.find? fun e => e.named st bd := by
  unfold State.entry State.peers
  rw [List.find?_filter]
  congr 1
  funext e
  by_cases k : e.station = st
  · by_cases g : e.bed = bd <;> simp [Entry.named, k, h, g]
  · simp [Entry.named, k]

/-- A peer's entry is the same after the further work of an event. -/
theorem Inside.entry (h : Inside s t) (st bd : Nat) (k : st ≠ s.sl.own) : t.entry st bd = s.entry st bd := by
  rw [entry_peers _ _ _ k, entry_peers _ _ _ (by rw [h.sl]; exact k), h.peers]

theorem hasEntry_entry (st bd : Nat) (s : State) : s.hasEntry st bd = (s.entry st bd).isSome := by
  unfold State.hasEntry State.entry
  induction s.sb.book with
  | nil => rfl
  | cons e l ih =>
    simp only [List.any_cons, List.find?_cons, ih]
    cases e.named st bd <;> simp

/-- What an insertion with room leaves under the entry's name (R37, R38). -/
theorem entry_insert (e : Entry) (s : State) (hn : s.hasEntry e.station e.bed = false) (hr : s.sb.book.length < 32) :
    (s.insert e).entry e.station e.bed = some e := by
  unfold State.insert
  rw [if_neg (by simp [hn]), if_pos (show s.sb.book.length < Config.bookRoom from hr)]
  rw [hasEntry_entry] at hn
  unfold State.entry at hn ⊢
  simp only [State.putBook_book, List.find?_append]
  rw [Option.isSome_eq_false_iff, Option.isNone_iff_eq_none] at hn
  rw [hn]
  simp [Entry.named]

theorem find_updateEntry (st bd : Nat) (f : Entry → Entry) (hf : ∀ e, (f e).station = e.station ∧ (f e).bed = e.bed)
    (l : List Entry) : (updateEntry st bd f l).find? (fun e => e.named st bd) = (l.find? fun e => e.named st bd).map f := by
  unfold updateEntry
  induction l with
  | nil => rfl
  | cons e l ih =>
    simp only [List.map_cons, List.find?_cons]
    by_cases h : e.named st bd = true
    · have : (f e).named st bd = true := by simpa [Entry.named, hf e] using h
      simp [h, this]
    · simp only [Bool.not_eq_true] at h
      simp [h, ih]

/-- What a change leaves under the entry's name (R37). -/
theorem entry_changeEntry (st bd : Nat) (f : Entry → Entry) (hf : ∀ e, (f e).station = e.station ∧ (f e).bed = e.bed)
    (s : State) : (s.changeEntry st bd f).entry st bd = (s.entry st bd).map f := by
  unfold State.changeEntry State.entry
  dsimp only
  split <;> exact find_updateEntry st bd f hf _

/-- A removed entry is gone (R37). -/
theorem entry_remove (st bd : Nat) (s : State) : (s.remove st bd).entry st bd = none := by
  unfold State.remove
  split
  · unfold State.entry
    rw [State.putBook_book, List.find?_eq_none]
    intro e he
    unfold removeEntry at he
    simpa using (List.mem_filter.mp he).2
  · rename_i h
    rw [hasEntry_entry] at h
    simpa using h

end Sys2Proof.Machine
end

