-- ==== Sys2Proof/Laws/PerInstr.lean ====
section
/-! SUPPORT. The family Wire: a well-formed command that a frame brings about has a payload of at most 24 bytes and a
source and a target of four bits (section 1.2), one lemma for each constructor. -/

namespace Sys2Proof.Laws.Wire

/-- The command's frame, if it has one, keeps the limits of the line. -/
def Statement (i : Instr) : Prop :=
  i.wf = true → ∀ p, i.payload = some p → p.2.length ≤ 24 ∧ i.route.1 ≤ 15 ∧ i.route.2 ≤ 15

theorem coldStart : Statement .coldStart := fun _ _ h => nomatch h
theorem warmStart : Statement .warmStart := fun _ _ h => nomatch h
theorem rstnReturnsHigh : Statement .rstnReturnsHigh := fun _ _ h => nomatch h
theorem setupImageRead (image : List Byte) (flowHigh rainHigh : Bool) : Statement (.setupImageRead image flowHigh rainHigh) := fun _ _ h => nomatch h
theorem reserveWaitTimeout : Statement .reserveWaitTimeout := fun _ _ h => nomatch h
theorem coilCheck (ohms : Nat) : Statement (.coilCheck ohms) := fun _ _ h => nomatch h
theorem listeningTimerExpiry : Statement .listeningTimerExpiry := fun _ _ h => nomatch h
theorem frameAbandoned (why : AbandonReason) : Statement (.frameAbandoned why) := fun _ _ h => nomatch h
theorem discardQuietEnd : Statement .discardQuietEnd := fun _ _ h => nomatch h
theorem slotEnd : Statement .slotEnd := fun _ _ h => nomatch h
theorem invalidFrame (bytes : List Byte) : Statement (.invalidFrame bytes) := fun _ _ h => nomatch h
theorem malformedNotice (src tgt kind : Nat) (payload : List Byte) : Statement (.malformedNotice src tgt kind payload) := by
  intro w p h
  obtain rfl := Option.some.inj h
  simp only [Instr.wf, peerSource, inRange, Bool.and_eq_true, Bool.or_eq_true, decide_eq_true_eq, beq_iff_eq] at w
  simp only [Instr.route]
  omega
theorem duplicateNumberEvent (kind len : Nat) : Statement (.duplicateNumberEvent kind len) := fun _ _ h => nomatch h
theorem unhandedFrameReceived (src tgt kind len : Nat) : Statement (.unhandedFrameReceived src tgt kind len) := fun _ _ h => nomatch h
theorem tallyReceived (src tgt : Nat) (tally : TallyNotice) : Statement (.tallyReceived src tgt tally) := by
  intro w p h
  obtain rfl := Option.some.inj h
  simp only [Instr.wf, peerSource, inRange, TallyNotice.fits, Bool.and_eq_true, decide_eq_true_eq] at w
  refine ⟨?_, ?_, ?_⟩
  · have e : (tally.entries.flatMap TallyEntry.layout).length = 3 * tally.entries.length := by
      induction tally.entries with
      | nil => rfl
      | cons a l ih => simp [List.flatMap_cons, TallyEntry.layout] at ih ⊢; omega
    simp only [TallyNotice.layout, List.length_cons, e]
    omega
  · simp only [Instr.route]; omega
  · simp only [Instr.route]; omega
theorem claimReceived (src tgt bed flow : Nat) (urgency : Urgency) (age : Nat) : Statement (.claimReceived src tgt bed flow urgency age) := by
  intro w p h
  obtain rfl := Option.some.inj h
  simp only [Instr.wf, peerSource, inRange, Bool.and_eq_true, decide_eq_true_eq] at w
  simp only [Instr.route, List.length_cons, List.length_nil]
  omega
theorem commitReceived (src tgt bed : Nat) : Statement (.commitReceived src tgt bed) := by
  intro w p h
  obtain rfl := Option.some.inj h
  simp only [Instr.wf, peerSource, inRange, Bool.and_eq_true, decide_eq_true_eq] at w
  simp only [Instr.route, List.length_cons, List.length_nil]
  omega
theorem dropReceived (src tgt bed : Nat) : Statement (.dropReceived src tgt bed) := by
  intro w p h
  obtain rfl := Option.some.inj h
  simp only [Instr.wf, peerSource, inRange, Bool.and_eq_true, decide_eq_true_eq] at w
  simp only [Instr.route, List.length_cons, List.length_nil]
  omega
theorem freeReceived (src tgt bed : Nat) : Statement (.freeReceived src tgt bed) := by
  intro w p h
  obtain rfl := Option.some.inj h
  simp only [Instr.wf, peerSource, inRange, Bool.and_eq_true, decide_eq_true_eq] at w
  simp only [Instr.route, List.length_cons, List.length_nil]
  omega
theorem shedReceived (src tgt victim claimant : Nat) (urgency : Urgency) : Statement (.shedReceived src tgt victim claimant urgency) := by
  intro w p h
  obtain rfl := Option.some.inj h
  simp only [Instr.wf, peerSource, inRange, Bool.and_eq_true, decide_eq_true_eq] at w
  simp only [Instr.route, List.length_cons, List.length_nil]
  omega
theorem skyReceived (src tgt : Nat) (sky : Sky) : Statement (.skyReceived src tgt sky) := by
  intro w p h
  obtain rfl := Option.some.inj h
  simp only [Instr.wf, peerSource, inRange, Bool.and_eq_true, decide_eq_true_eq] at w
  refine ⟨by simp [Sky.layout, bytes2], ?_, ?_⟩ <;> simp only [Instr.route] <;> omega
theorem water (src tgt sel litres : Nat) : Statement (.water src tgt sel litres) := by
  intro w p h
  obtain rfl := Option.some.inj h
  simp only [Instr.wf, orderSource, inRange, Bool.and_eq_true, decide_eq_true_eq] at w
  simp only [Instr.route, bytes2, List.length_cons, List.length_nil]
  omega
theorem skip (src tgt sel : Nat) : Statement (.skip src tgt sel) := by
  intro w p h
  obtain rfl := Option.some.inj h
  simp only [Instr.wf, orderSource, inRange, Bool.and_eq_true, decide_eq_true_eq] at w
  simp only [Instr.route, List.length_cons, List.length_nil]
  omega
theorem pause (src tgt sel : Nat) : Statement (.pause src tgt sel) := by
  intro w p h
  obtain rfl := Option.some.inj h
  simp only [Instr.wf, orderSource, inRange, Bool.and_eq_true, decide_eq_true_eq] at w
  simp only [Instr.route, List.length_cons, List.length_nil]
  omega
theorem resume (src tgt sel : Nat) : Statement (.resume src tgt sel) := by
  intro w p h
  obtain rfl := Option.some.inj h
  simp only [Instr.wf, orderSource, inRange, Bool.and_eq_true, decide_eq_true_eq] at w
  simp only [Instr.route, List.length_cons, List.length_nil]
  omega
theorem target (src tgt sel start stop : Nat) : Statement (.target src tgt sel start stop) := by
  intro w p h
  obtain rfl := Option.some.inj h
  simp only [Instr.wf, orderSource, inRange, Bool.and_eq_true, decide_eq_true_eq] at w
  simp only [Instr.route, List.length_cons, List.length_nil]
  omega
theorem clear (src tgt sel cause : Nat) : Statement (.clear src tgt sel cause) := by
  intro w p h
  obtain rfl := Option.some.inj h
  simp only [Instr.wf, orderSource, inRange, Bool.and_eq_true, decide_eq_true_eq] at w
  simp only [Instr.route, List.length_cons, List.length_nil]
  omega
theorem query (src tgt sel form : Nat) : Statement (.query src tgt sel form) := by
  intro w p h
  obtain rfl := Option.some.inj h
  simp only [Instr.wf, orderSource, inRange, Bool.and_eq_true, decide_eq_true_eq] at w
  simp only [Instr.route, List.length_cons, List.length_nil]
  omega
theorem clock (src tgt sel minute : Nat) : Statement (.clock src tgt sel minute) := by
  intro w p h
  obtain rfl := Option.some.inj h
  simp only [Instr.wf, orderSource, inRange, Bool.and_eq_true, decide_eq_true_eq] at w
  simp only [Instr.route, bytes2, List.length_cons, List.length_nil]
  omega
theorem answerByteStart : Statement .answerByteStart := fun _ _ h => nomatch h
theorem answerCollision : Statement .answerCollision := fun _ _ h => nomatch h
theorem attemptBegin : Statement .attemptBegin := fun _ _ h => nomatch h
theorem yieldingClear : Statement .yieldingClear := fun _ _ h => nomatch h
theorem collision : Statement .collision := fun _ _ h => nomatch h
theorem transmissionCompletes (slot : Option SlotByte) : Statement (.transmissionCompletes slot) := fun _ _ h => nomatch h
theorem lineLossClosure : Statement .lineLossClosure := fun _ _ h => nomatch h
theorem tallyFallsDue : Statement .tallyFallsDue := fun _ _ h => nomatch h
theorem peerExpiry (station : Nat) : Statement (.peerExpiry station) := fun _ _ h => nomatch h
theorem pendingLapse (station bed : Nat) : Statement (.pendingLapse station bed) := fun _ _ h => nomatch h
theorem resolutionTimerExpiry : Statement .resolutionTimerExpiry := fun _ _ h => nomatch h
theorem victimTimerExpiry : Statement .victimTimerExpiry := fun _ _ h => nomatch h
theorem courtesyDelayEnd (urgency : Urgency) : Statement (.courtesyDelayEnd urgency) := fun _ _ h => nomatch h
theorem backoffEnd (bed : BedId) : Statement (.backoffEnd bed) := fun _ _ h => nomatch h
theorem waitAgeTick (bed : BedId) : Statement (.waitAgeTick bed) := fun _ _ h => nomatch h
theorem dayClockTick : Statement .dayClockTick := fun _ _ h => nomatch h
theorem hourBoundary : Statement .hourBoundary := fun _ _ h => nomatch h
theorem dayRollover : Statement .dayRollover := fun _ _ h => nomatch h
theorem runDayLimit (bed : BedId) : Statement (.runDayLimit bed) := fun _ _ h => nomatch h
theorem soakEnd (bed : BedId) : Statement (.soakEnd bed) := fun _ _ h => nomatch h
theorem pulseEnd : Statement .pulseEnd := fun _ _ h => nomatch h
theorem recoveryEnd : Statement .recoveryEnd := fun _ _ h => nomatch h
theorem pullInEnd (bed : BedId) : Statement (.pullInEnd bed) := fun _ _ h => nomatch h
theorem coilSupplyMeasurement (volts : Nat) : Statement (.coilSupplyMeasurement volts) := fun _ _ h => nomatch h
theorem supplyGood : Statement .supplyGood := fun _ _ h => nomatch h
theorem supplyLoss : Statement .supplyLoss := fun _ _ h => nomatch h
theorem supplyReturn : Statement .supplyReturn := fun _ _ h => nomatch h
theorem reserveReady : Statement .reserveReady := fun _ _ h => nomatch h
theorem flowEdge : Statement .flowEdge := fun _ _ h => nomatch h
theorem edgeCounterOverflow : Statement .edgeCounterOverflow := fun _ _ h => nomatch h
theorem rateWindowEnd : Statement .rateWindowEnd := fun _ _ h => nomatch h
theorem confirmTimerExpiry (bed : BedId) : Statement (.confirmTimerExpiry bed) := fun _ _ h => nomatch h
theorem confirmLimit (bed : BedId) : Statement (.confirmLimit bed) := fun _ _ h => nomatch h
theorem scanStart : Statement .scanStart := fun _ _ h => nomatch h
theorem probeSettleEnd : Statement .probeSettleEnd := fun _ _ h => nomatch h
theorem probeMeasurementEnd (gaps : List Nat) : Statement (.probeMeasurementEnd gaps) := fun _ _ h => nomatch h
theorem rainTip : Statement .rainTip := fun _ _ h => nomatch h
theorem skyTimerExpiry : Statement .skyTimerExpiry := fun _ _ h => nomatch h
theorem weatherRecordStale : Statement .weatherRecordStale := fun _ _ h => nomatch h
theorem attnToggle : Statement .attnToggle := fun _ _ h => nomatch h
theorem frameBegins : Statement .frameBegins := fun _ _ h => nomatch h
theorem dominantLevel : Statement .dominantLevel := fun _ _ h => nomatch h
theorem flowFilteredLevelChange : Statement .flowFilteredLevelChange := fun _ _ h => nomatch h
theorem rainFilteredLevelChange : Statement .rainFilteredLevelChange := fun _ _ h => nomatch h
theorem pwmPeriodBoundary : Statement .pwmPeriodBoundary := fun _ _ h => nomatch h

end Sys2Proof.Laws.Wire
end

