-- ==== Sys2Proof/Tests/Slice0.lean ====
section
/-! SUPPORT. Tests: operands that the well-formedness check refuses, frames and setup fields written out from the manual's
tables, small steps, and for each statement a state and operands that meet its hypotheses, at the edges of their ranges. -/

set_option Elab.async false

namespace Sys2Proof.Tests

open Sys2Proof.Machine

/-! ### Ill-formed operands, one for each check -/

/-- The check refuses every one of these commands. -/
def refused (l : List Instr) : Bool := l.all fun i => !i.wf

def noTally : TallyNotice := ⟨false, false, false, false, false, 40, []⟩
def aSky : Sky := ⟨-10, 3, 300, 3, 13, 1, 1439⟩

theorem test_wf_refuses_image_over_160_bytes : refused [.setupImageRead (List.replicate 161 0) false false] = true := by decide +kernel

theorem test_wf_refuses_invalid_frame_that_is_short_or_whole :
    refused [.invalidFrame [0x6B, 2, 5], .invalidFrame [0x6A, 3, 5, 0, 1, 8, 0, 0],
      .invalidFrame [0x6B, 3, 5, 0, 1, 8, 0x6B, 0xC1]] = true := by decide +kernel

theorem test_wf_refuses_malformed_notice :
    refused [.malformedNotice 0 0 2 [], .malformedNotice 16 0 2 [], .malformedNotice 5 16 2 [], .malformedNotice 5 0 8 [],
      .malformedNotice 5 0 2 (List.replicate 25 0), .malformedNotice 5 0 4 [7]] = true := by decide +kernel

theorem test_wf_refuses_frame_fields :
    refused [.duplicateNumberEvent 256 0, .duplicateNumberEvent 2 25, .unhandedFrameReceived 256 0 2 0,
      .unhandedFrameReceived 5 256 2 0, .unhandedFrameReceived 5 0 256 0, .unhandedFrameReceived 5 0 2 25] = true := by decide +kernel

theorem test_wf_refuses_tally :
    refused [.tallyReceived 0 0 noTally, .tallyReceived 5 16 noTally, .tallyReceived 5 0 { noTally with budget := 7 },
      .tallyReceived 5 0 { noTally with budget := 121 },
      .tallyReceived 5 0 { noTally with entries := List.replicate 6 ⟨0, 1, .dry, true⟩ },
      .tallyReceived 5 0 { noTally with entries := [⟨9, 1, .dry, true⟩] },
      .tallyReceived 5 0 { noTally with entries := [⟨8, 121, .dry, true⟩] }] = true := by decide +kernel

theorem test_wf_refuses_claim_commit_drop_free :
    refused [.claimReceived 0 0 0 1 .dry 0, .claimReceived 5 16 0 1 .dry 0, .claimReceived 5 0 8 1 .dry 0,
      .claimReceived 5 0 0 0 .dry 0, .claimReceived 5 0 0 121 .dry 0, .claimReceived 5 0 0 1 .dry 256,
      .commitReceived 16 0 0, .commitReceived 5 16 0, .commitReceived 5 0 9, .dropReceived 0 0 0, .dropReceived 5 16 0,
      .dropReceived 5 0 8, .freeReceived 0 0 0, .freeReceived 5 16 0, .freeReceived 5 0 9] = true := by decide +kernel

theorem test_wf_refuses_shed_and_sky :
    refused [.shedReceived 0 4 0 0 .severe, .shedReceived 5 16 0 0 .severe, .shedReceived 5 4 8 0 .severe,
      .shedReceived 5 4 0 8 .severe, .skyReceived 0 0 aSky, .skyReceived 5 16 aSky,
      .skyReceived 5 0 { aSky with temperature := -129 }, .skyReceived 5 0 { aSky with temperature := 128 },
      .skyReceived 5 0 { aSky with recentRain := 65536 }, .skyReceived 5 0 { aSky with dayRain := 65536 },
      .skyReceived 5 0 { aSky with hourRain := 65536 }, .skyReceived 5 0 { aSky with hourIndex := 24 },
      .skyReceived 5 0 { aSky with evapClass := 4 }, .skyReceived 5 0 { aSky with minute := 1440 }] = true := by decide +kernel

theorem test_wf_refuses_orders :
    refused [.water 16 4 0 1, .water 5 16 0 1, .water 5 4 256 1, .water 5 4 0 65536, .skip 16 4 0, .skip 5 16 0,
      .skip 5 4 256, .pause 16 4 0, .pause 5 16 0, .pause 5 4 256, .resume 16 4 0, .resume 5 16 0, .resume 5 4 256,
      .target 16 4 0 30 45, .target 5 16 0 30 45, .target 5 4 256 30 45, .target 5 4 0 256 45, .target 5 4 0 30 256,
      .clear 16 4 0 0, .clear 5 16 0 0, .clear 5 4 256 0, .clear 5 4 0 256, .query 16 4 0 0, .query 5 16 0 0,
      .query 5 4 256 0, .query 5 4 0 256, .clock 16 4 0 0, .clock 5 16 0 0, .clock 5 4 256 0, .clock 5 4 0 65536] = true := by
  decide +kernel

theorem test_wf_refuses_timers_and_counts :
    refused [.peerExpiry 0, .peerExpiry 16, .pendingLapse 0 0, .pendingLapse 5 9, .courtesyDelayEnd .severe,
      .probeMeasurementEnd [5, 0], .probeMeasurementEnd (List.replicate 18 1)] = true := by decide +kernel

/-! ### Frames written out (sections 1.2 and 2.1, R4), read by station 4 -/

theorem test_frame_claim :
    frameCommand 4 [0x6B, 2, 5, 0, 4, 3, 24, 1, 7, 0x85, 0xB5] = .claimReceived 5 0 3 24 .dry 7 := by decide +kernel

theorem test_frame_commit_drop_free :
    frameCommand 4 [0x6B, 3, 5, 0, 1, 8, 0x6B, 0xC1] = .commitReceived 5 0 8
      ∧ frameCommand 4 [0x6B, 4, 5, 0, 1, 7, 0x78, 0x15] = .dropReceived 5 0 7
      ∧ frameCommand 4 [0x6B, 5, 5, 0, 1, 8, 0xB7, 0xD8] = .freeReceived 5 0 8 := by decide +kernel

theorem test_frame_shed :
    frameCommand 4 [0x6B, 6, 5, 4, 3, 2, 6, 2, 0xAF, 0x46] = .shedReceived 5 4 2 6 .severe := by decide +kernel

theorem test_frame_tally :
    frameCommand 4 [0x6B, 1, 5, 0, 9, 0x19, 40, 2, 0, 12, 5, 8, 120, 0, 0x0E, 0x86]
      = .tallyReceived 5 0 ⟨true, false, false, true, true, 40, [⟨0, 12, .dry, true⟩, ⟨8, 120, .normal, false⟩]⟩ := by decide +kernel

theorem test_frame_sky :
    frameCommand 4 [0x6B, 7, 5, 0, 11, 0xF6, 3, 0, 0x2C, 1, 3, 0, 13, 1, 0x9F, 5, 0x3E, 0x5E]
      = .skyReceived 5 0 aSky := by decide +kernel

theorem test_frame_orders_of_volume_and_minute :
    frameCommand 4 [0x6B, 9, 0, 4, 4, 1, 2, 0xD0, 7, 0xF6, 0x2D] = .water 0 4 2 2000
      ∧ frameCommand 4 [0x6B, 9, 0, 0, 4, 8, 3, 0x9F, 5, 0x5C, 0xD8] = .clock 0 0 3 1439
      ∧ frameCommand 4 [0x6B, 9, 1, 4, 4, 5, 0, 30, 45, 0x97, 0xEB] = .target 1 4 0 30 45 := by decide +kernel

theorem test_frame_other_orders :
    frameCommand 4 [0x6B, 9, 1, 4, 2, 2, 0, 0x4B, 0xC5] = .skip 1 4 0
      ∧ frameCommand 4 [0x6B, 9, 1, 4, 2, 3, 0, 0xD3, 0xDE] = .pause 1 4 0
      ∧ frameCommand 4 [0x6B, 9, 1, 4, 2, 4, 0, 0x61, 0xCE] = .resume 1 4 0
      ∧ frameCommand 4 [0x6B, 9, 1, 4, 3, 6, 0, 12, 0x44, 0xAF] = .clear 1 4 0 12
      ∧ frameCommand 4 [0x6B, 9, 1, 4, 3, 7, 0, 1, 0xC5, 0x33] = .query 1 4 0 1 := by decide +kernel

theorem test_frame_spoilt_or_own_or_for_another :
    frameCommand 4 [0x6B, 3, 5, 0, 1, 8, 0x6B, 0xC0] = .invalidFrame [0x6B, 3, 5, 0, 1, 8, 0x6B, 0xC0]
      ∧ frameCommand 5 [0x6B, 3, 5, 0, 1, 8, 0x6B, 0xC1] = .duplicateNumberEvent 3 1
      ∧ frameCommand 3 [0x6B, 6, 5, 4, 3, 2, 6, 2, 0xAF, 0x46] = .unhandedFrameReceived 5 4 6 3 := by decide +kernel

/-! ### A small station -/

/-- A probe bed with a latching valve: 6.0 L/min, start 30, stop 45, floor 15, 2.0 L a point, cycle 12 L, cap 60 L. -/
def aBed : BedSetup :=
  ⟨true, true, .latch, .probe, .oneSettle, 12, 24000, 8000, 30, 45, 15, 20, 10, 12, 12, 25, 50, 60⟩

/-- Two latching beds (the second confirmed by flow), one held bed, the rest absent; a weather source, metered. -/
def aSetup : Setup :=
  { Setup.blank with
    weatherSource := true, budget := 40, pulsesPerLitre := 20, pulseWidth := 6, pullIn := 10, rainThreshold := 5
    c0 := 10000, c40 := 20000, groups := [⟨2, 255, 3⟩, ⟨0, 128, 0⟩]
    beds := ⟨aBed, { aBed with confirm := .flowOnly, soak := 0 }, { aBed with kind := .held }, .absent, .absent, .absent,
      .absent, .absent⟩ }

/-- An IDLE bed in force, with its last wetness. -/
def idleBed (w : Option Nat) : Bed := { Bed.fresh with state := .idle, start := 30, stop := 45, wetness := w }

/-- Station 4, ACTIVE, its line free, its coil supply good and its reserve ready. -/
def s0 : State :=
  { State.reset with
    now := 1000000
    sl.station := .active, sl.own := 4, sl.setup := aSetup
    li.rx := .hunt, li.lossSince := 1000000
    sb.budget := 40
    bc.beds := ⟨idleBed (some 40), idleBed none, idleBed none, .fresh, .fresh, .fresh, .fresh, .fresh⟩
    vd.valves := ⟨.closed, .closed, .closed, .unknown, .unknown, .unknown, .unknown, .unknown⟩
    vd.supply := .good, vd.ready := true, vd.check := .done }

def aRun : Run := ⟨240, 0, 1, 0, 0, none, none⟩

/-- An entry of NORMAL urgency, age 0. -/
def plain (st bd flow : Nat) (c : Bool) : Entry := ⟨st, bd, flow, .normal, c, 0, 990000⟩

/-- The station with bed 0 in a state of a run. -/
def inRun (st : BedState) (r : Run) : State := s0.modBed 0 fun x => { x with state := st, run := some r }

/-- The state after a command. -/
def after (i : Instr) (s : State) : State :=
  match exec i s with
  | .next t => t
  | _ => s

/-! ### Small steps -/

/-- The rising edges of PFRQ that count to c, the first at the settle wait's end (R160). -/
def edges (c : Nat) : List Nat := 0 :: (List.replicate 15 (c / 16) ++ [c - 15 * (c / 16)])

/-- R160: the ends of each range: the shortest and longest counts, a sixteenth edge at the limit, a first edge at 50 ms and after
it, silence as the limit is just out of reach and just in it. -/
theorem test_measurements :
    (measurePeriods (edges 16)).ending = .count 16 ∧ (measurePeriods (edges 65534)).ending = .count 65534
      ∧ measurePeriods (edges 65535) = ⟨.overrange, 0, 65535⟩ ∧ measurePeriods [50000, 50000, 15534] = ⟨.overrange, 50000, 65535⟩
      ∧ measurePeriods (50001 :: List.replicate 16 1) = ⟨.timeout, 50000, 0⟩
      ∧ measurePeriods [7, 15534] = ⟨.timeout, 7, 65534⟩ ∧ measurePeriods [7, 15535] = ⟨.overrange, 7, 65535⟩
      ∧ measurePeriods [7, 3, 50001] = ⟨.timeout, 7, 50003⟩ ∧ measureTime ⟨.count 16, 0, 16⟩ = 1
      ∧ measureTime ⟨.timeout, 50000, 0⟩ = 50 * 12 := by decide +kernel

/-- R160: a silent probe ends its measurement 50 ms after the settle wait. -/
theorem test_timeout_takes_50_ms :
    let t := after (.probeMeasurementEnd []) { s0 with pw.scan := .measure 8 1000000, pw.counter := 0 }
    t.now = 1000600 ∧ t.pw.scan = .idle ∧ t.pw.tempBad = s0.pw.tempBad + 1 := by decide +kernel

/-- R90, R91: wetness 30 under class 1 needs 15 points of 2.0 L; the bed is offered and its CLAIM queued (R66). -/
theorem test_wetness_makes_a_need_and_a_claim :
    let t := after (.probeMeasurementEnd (edges 19200)) { s0 with pw.scan := .measure 0 0 }
    (t.bed 0).wetness = some 30 ∧ (t.bed 0).need = 300 ∧ (t.bed 0).state = .claiming
      ∧ t.tq.queue = [⟨.claim 0 12 .normal 0, 0, false⟩] ∧ t.pw.scan = .settle 1 t.now := by decide +kernel

/-- R8, R105: a WATER by number is acknowledged. -/
theorem test_water_is_acknowledged :
    let t := after (.water 0 4 1 30) s0
    t.li.answer = .waiting .ack ∧ (t.bed 1).need = 300 ∧ (t.bed 1).ordered = true ∧ (t.bed 1).state = .claiming := by decide +kernel

/-- R36, R69, R70: a claim that fits commits, its entry heard then, and its bed opens; the pulse begins at once (R131). -/
theorem test_resolution_commits_and_opens :
    let s := (s0.modBed 0 fun x => { x with state := .claiming, need := 240 }).insert ⟨4, 0, 12, .normal, false, 0, 0⟩
    let s := { s with
      sb.dirty := false
      sb.claim := { Claim.none with phase := .resolving, bed := 0, flow := 12, resolveSince := some 990000 } }
    let t := after .resolutionTimerExpiry s
    t.now = 1014000 ∧ t.entry 4 0 = some ⟨4, 0, 12, .normal, true, 0, 1014000⟩ ∧ (t.bed 0).state = .opening
      ∧ t.vd.generator = .pulse ⟨0, .opens⟩ false t.now ∧ (t.bed 0).run = some { aRun with startMinute := 1 } := by decide +kernel

/-- R44: a peer's claim joins the tail. -/
theorem test_claim_joins_the_tail :
    (after (.claimReceived 2 0 3 10 .dry 5) s0).sb.book = [⟨2, 3, 10, .dry, false, 5, 1000550⟩] := by decide +kernel

/-- R13, R14: the eighth collision sets LINE pending. -/
theorem test_eighth_collision :
    let t := after .collision { s0 with
      tq.queue := [⟨.tally, 0, false⟩], tq.headRun := 7, li.attempt := some ⟨0, [0x6B]⟩, li.rx := .frame }
    (t.latch .line).pending = true ∧ t.tq.headRun = 8 ∧ t.au.collisions = 1 ∧ t.li.rx = .frame := by decide +kernel

/-- R147, R148: 25 pulses at 20 a litre credit 1.2 L and leave a carry of 10. -/
theorem test_window_credits :
    let t := after .rateWindowEnd { inRun .running aRun with fm.pulses := 25 }
    (t.bed 0).delivered = 12 ∧ t.fm.carry = 10 ∧ (t.bed 0).run = some { aRun with delivered := 12, cycleDelivered := 12 } := by
  decide +kernel

/-- R138, R139: a loss cuts the run and the reserve closes the valve. -/
theorem test_supply_loss_closes_from_the_reserve :
    let t := after .supplyLoss { inRun .running aRun with vd.valves := s0.vd.valves.set 0 .opened }
    (t.bed 0).state = .closing ∧ t.valve 0 = .closing ∧ t.vd.generator = .pulse ⟨0, .closes⟩ true t.now
      ∧ t.bc.holds.supply = true ∧ t.vd.ready = false := by decide +kernel

/-- R135's examples: 50 % is 55 % at 22.0 V, 40 % at 30.0 V, 67 % at 18.0 V. -/
theorem test_hold_duty : dutyAt 50 220 = 55 ∧ dutyAt 50 300 = 40 ∧ dutyAt 50 180 = 67 := by decide +kernel

/-- R170, R92: midnight is a day boundary and an hour boundary. -/
theorem test_midnight :
    (after .dayClockTick { s0 with pw.clockSet := true, pw.minute := 1439 }).bc.due = [.day, .hour 0] := by decide +kernel

/-- R164: a half-step is rounded down; 22.25 degrees is 22.0. -/
theorem test_temperature : temperatureOf 10000 20000 15562 = 44 ∧ temperatureOf 10000 20000 15563 = 45
    ∧ temperatureOf 20000 10000 14438 = 44 ∧ classOf 19 = 0 ∧ classOf 20 = 1 ∧ classOf 60 = 3 := by decide +kernel

/-- R141, log 46: a coil that fails while its close waits or runs is driven no more. -/
theorem test_failed_coil_is_not_driven :
    let s := { s0 with
      sl.station := .checking, vd.check := .coils [0, 1] 5, vd.valves := .const .unknown, vd.queue := [⟨1, .closes⟩]
      vd.closures := [0], vd.generator := .pulse ⟨0, .closes⟩ false 990000 }
    let t := after (.coilCheck 201) s
    (t.bed 0).state = .off ∧ t.valve 0 = .unknown ∧ t.vd.closures = [] ∧ t.vd.queue = [⟨1, .closes⟩]
      ∧ t.vd.generator = .recovery t.now := by decide +kernel

/-- R89: the failure of its probe is an evaluation of an ordered bed of area 0 that waits with a run. -/
theorem test_probe_loss_is_an_evaluation :
    let u := { aBed with area := 0 }
    let s := { inRun .waiting aRun with sl.setup.beds := aSetup.beds.set 0 u, pw.scan := .measure 0 5 }
    let s := s.modBed 0 fun x => { x with ordered := true, urgency := .severe }
    let t := after (.probeMeasurementEnd []) { s with pw.probes := s.pw.probes.set 0 ⟨[], false, 2, 0⟩ }
    (t.bed 0).probeFailed = true ∧ (t.bed 0).urgency = .dry ∧ (t.bed 0).run = some aRun := by decide +kernel

/-- R188: a cold start while RSTN is low holds the start values, and no image is read. -/
theorem test_cold_start_with_rstn_low :
    let t := after .coldStart { s0 with sl.rstnLow := true }
    t.sl.rstnLow = true ∧ (after (.setupImageRead [] false false) t).sl.station = .loading := by decide +kernel

/-! ### Witnesses: a state and operands for the hypotheses of each statement that has some -/

theorem meets_CommandsLeaveTheQueueAndTimeMovesOn : State.reset.pending = [] := rfl

/-- Bed 0 of this image is a valid latching bed; every other is absent. -/
def imageBody (budget flow : Nat) : List Byte :=
  [0xD7, 1, 0x14, byte budget] ++ bytes2 (20 + 1024 * 6) ++ [10, 0, 0, 0, 0, 5] ++ bytes2 10000 ++ bytes2 20000
    ++ [2, 255, 3, 0, 128, 0] ++ [9, byte flow] ++ bytes2 24000 ++ bytes2 8000 ++ [30, 45, 15] ++ bytes2 (20 + 512 * 10)
    ++ bytes2 (12 + 512 * 12) ++ bytes2 (25 + 2048 * 6) ++ bytes2 60 ++ List.replicate 119 0

def imageOf (body : List Byte) : List Byte := body ++ bytes2 (check body).toNat

set_option maxRecDepth 100000 in
/-- Valid images, one with an invalid bed block; invalid ones: no read, a wrong marker, format, budget or check. -/
theorem meets_ImageEndsLoading :
    Settled State.reset ∧ State.reset.sl.station = .loading ∧ State.reset.sl.rstnLow = false ∧ State.reset.tq.queue = []
      ∧ imageError (imageOf (imageBody 40 12)) = none ∧ bedError (imageOf (imageBody 40 12)) 0 = none
      ∧ imageError (imageOf (imageBody 40 3)) = none ∧ bedError (imageOf (imageBody 40 3)) 0 = some 23
      ∧ imageError [] = some 0 ∧ imageError (0 :: (imageOf (imageBody 40 12)).drop 1) = some 0
      ∧ imageError (imageOf (imageBody 7 12)) = some 3 ∧ imageError (imageBody 40 12 ++ [0, 0]) = some 158 := by
  unfold Settled; decide +kernel

theorem meets_ListeningEndsInActive : ({ s0 with sl.station := .listening } : State).sl.station = .listening := rfl

theorem claimSound_s0 : ClaimSound s0 := by constructor <;> decide +kernel

/-- In CHECKING, at this point of it. -/
def checking (c : CheckPhase) : State := { s0 with sl.station := .checking, vd.check := c }

theorem meets_CoilCheckJudgesTheResistance :
    Settled (checking (.coils [0, 1] 5)) ∧ (checking (.coils [0, 1] 5)).sl.station = .checking
      ∧ (checking (.coils [0, 1] 5)).vd.check = .coils (0 :: 1 :: []) 5 ∧ (checking (.coils [2] 5)).vd.check = .coils [2] 5
      ∧ (4 ≤ 4 ∧ 4 ≤ 200) ∧ (4 ≤ 200 ∧ 200 ≤ 200) ∧ 3 < 4 ∧ 200 < 201 := by
  unfold Settled; decide +kernel

/-- The last coil, with a bed to close, without a supply, and with no latching bed. -/
theorem meets_CoilCheckJudgesTheResistance_last :
    let s := checking (.coils [2] 5)
    Settled s ∧ s.sl.clashNoted = false ∧ s.vd.supply = .good ∧ (after (.coilCheck 4) s).latching 0 = true
      ∧ ({ s with vd.supply := .absent } : State).vd.supply ≠ .good
      ∧ (∀ d, (after (.coilCheck 201) { s with sl.setup.beds := .const { aBed with kind := .held } }).latching d = false)
      ∧ s.tq.queue.length < 6 := by
  unfold Settled; decide +kernel

theorem meets_SupplyStatesFollowTheManual :
    s0.live = true ∧ ({ s0 with vd.supply := .absent } : State).vd.supply = .absent ∧ s0.vd.supply = .good
      ∧ s0.bc.holds.supply = false ∧ ({ s0 with vd.supply := .lost } : State).vd.supply = .lost
      ∧ ({ s0 with vd.chargeSince := some 7 } : State).vd.chargeSince = some 7
      ∧ (checking (.reserveWait 5)).sl.station = .checking ∧ (checking (.reserveWait 5)).vd.check = .reserveWait 5
      ∧ ({ checking (.reserveWait 5) with vd.ready := false } : State).vd.ready = false := by decide +kernel

/-- Bed 0 runs and its valve is OPEN. -/
def runningOpen : State := { inRun .running aRun with vd.valves := s0.vd.valves.set 0 .opened }

/-- The losses and returns: something to close or nothing, a ready reserve or none, the generator at each of its states. -/
theorem meets_SupplyStatesFollowTheManual_drive :
    let list := fun s : State => (allBeds.filter fun b =>
      s.latching b && (s.valve b == .opened || s.valve b == .closing || s.valve b == .unknown)).take 4
    Settled runningOpen ∧ list runningOpen = 0 :: [] ∧ list s0 = [] ∧ s0.vd.ready = true ∧ s0.vd.generator = .idle
      ∧ ({ s0 with vd.ready := false } : State).vd.ready = false
      ∧ ({ s0 with vd.generator := .recovery 5 } : State).vd.generator = .recovery 5
      ∧ ({ s0 with vd.generator := .pulse ⟨1, .opens⟩ false 5 } : State).vd.generator = .pulse ⟨1, .opens⟩ false 5
      ∧ ({ s0 with vd.queue := [⟨1, .opens⟩] } : State).vd.queue.length = 1 ∧ s0.vd.closures = []
      ∧ s0.sl.clashNoted = false ∧ (checking .closure).vd.check = .closure
      ∧ (checking (.reserveWait 5)).vd.check = .reserveWait 5 ∧ (allBeds.filter fun b => s0.vd.marks.get b) = []
      ∧ (allBeds.filter fun b => ({ s0 with vd.marks := s0.vd.marks.set 7 true } : State).vd.marks.get b) ≠ [] := by
  unfold Settled; decide +kernel

theorem meets_SupplyStatesFollowTheManual_claim : ClaimSound runningOpen := by constructor <;> decide +kernel

/-- A latching valve that is OPEN needs a pulse; with its pulse begun, CLOSING or UNKNOWN alike. -/
theorem needs_a_pulse (v : ValveState) (h : v ≠ .closed) :
    ¬ ({ runningOpen with vd.valves := s0.vd.valves.set 0 v } : State).shutsAtOnce 0 := by
  rintro (e | ⟨e, _⟩ | ⟨_, _, e, _⟩ | ⟨e, _⟩)
  · exact h e
  all_goals exact absurd e (by cases v <;> decide +kernel)

/-- R56, R120: an OPEN valve's cycle is cut in each of these, its run kept. -/
theorem test_cuts_keep_the_run :
    let s := { runningOpen with sb.book := [plain 4 0 12 true] }
    let cut := fun (i : Instr) (s : State) => (((after i s).bed 0).state, ((after i s).bed 0).run, (after i s).valve 0)
    cut (.pause 0 4 0) s = (.closing, some { aRun with endCause := some .hold }, .closing)
      ∧ cut .lineLossClosure s = (.closing, some { aRun with endCause := some .line }, .closing)
      ∧ cut .supplyLoss s = (.closing, some { aRun with endCause := some .supply }, .closing)
      ∧ cut (.shedReceived 15 4 0 7 .severe) s = (.closing, some { aRun with endCause := some .shed }, .closing)
      ∧ cut (.commitReceived 1 0 8) { s with sb.book := [plain 1 8 29 false, plain 4 0 12 true] }
        = (.closing, some { aRun with endCause := some .overdraw }, .closing) := by decide +kernel

/-- The receiver in a state, without an attempt. -/
def rxIn (r : RxState) : State := { s0 with li.rx := r }

theorem meets_ReceiverMarksAndAnswersChange :
    s0.live = true ∧ s0.li.rx = .hunt ∧ s0.li.attempt = none ∧ (rxIn .frame).li.rx = .frame ∧ (rxIn .slot).li.rx = .slot
      ∧ (rxIn .discard).li.rx = .discard ∧ ({ s0 with li.yielding := true } : State).li.yielding = true
      ∧ ({ rxIn .slot with li.answer := .waiting .ack } : State).li.answer = .waiting .ack
      ∧ ({ s0 with li.answer := .sending .refuse } : State).li.answer = .sending .refuse := by decide +kernel

/-- A notice waits at the head. -/
def waiting (n : Notice) : State := { s0 with tq.queue := [⟨n, 0, false⟩] }

theorem meets_AttemptBeginsAfterTheGap :
    (waiting .tally).live = true ∧ (waiting .tally).li.rx = .hunt ∧ (waiting .tally).li.attempt = none
      ∧ (waiting .tally).li.yielding = false ∧ (waiting .tally).tq.queue = ⟨.tally, 0, false⟩ :: [] := by decide +kernel

/-- Its attempt is in transmission. -/
def sending (n : Notice) (run unanswered : Nat) : State :=
  { s0 with
    tq.queue := [⟨n, unanswered, false⟩], tq.headRun := run, li.attempt := some ⟨990000, [0x6B]⟩, li.rx := .frame }

theorem meets_CollisionKeepsTheNotice :
    Settled (sending .tally 7 0) ∧ (sending .tally 7 0).live = true ∧ (sending .tally 7 0).li.attempt.isSome = true
      ∧ (sending .tally 7 0).tq.queue = ⟨.tally, 0, false⟩ :: [] ∧ (sending .tally 7 0).tq.headRun = 7
      ∧ (sending .tally 6 0).tq.headRun ≠ 7 ∧ (sending .tally 8 0).tq.headRun ≠ 7 := by
  unfold Settled; decide +kernel

/-- The own SHED's frame of 10 bytes is out since the moment 990000; its slot begins 500 units later. -/
def ownShed (now : Nat) : State :=
  { s0 with
    now := now, tq.queue := [⟨.shed 2 3 0, 0, false⟩], li.attempt := some ⟨990000, List.replicate 10 0x6B⟩, li.rx := .frame }

theorem meets_ReceiverMarksAndAnswersChange_shed :
    (ownShed 0).live = true ∧ (ownShed 0).li.attempt = some ⟨990000, List.replicate 10 0x6B⟩
      ∧ (ownShed 0).tq.queue = ⟨.shed 2 3 0, 0, false⟩ :: [] ∧ (Notice.shed 2 3 0).isShed = true
      ∧ (ownShed 0).li.rx = .frame ∧ ¬ 990000 + 50 * 10 ≤ (ownShed 990499).now ∧ 990000 + 50 * 10 ≤ (ownShed 990500).now
      ∧ (ownShed 990499).receiver = .frame ∧ (ownShed 990500).receiver = .slot := by decide +kernel

/-- A claim of bed 0, which is CLAIMING, in a phase, with its entry where the phase has one. -/
def claimOf (p : Phase) (o : Option HeldOutcome) (withdrawn : Bool) (q : List Queued) : State :=
  { s0.modBed 0 fun x => { x with state := .claiming, need := 240 } with
    sb.book := if p = .sending then [] else [⟨4, 0, 12, .severe, false, 0, 0⟩]
    sb.claim := { Claim.none with phase := p, flow := 12, urgency := .severe, outcome := o, withdrawn := withdrawn }
    tq.queue := q, li.attempt := some ⟨1000000, [0x6B]⟩, li.rx := .frame }

/-- The own SHED at the head, with so many attempts unanswered, cancelled or not, and what is held for it. -/
def askingOf (o : Option HeldOutcome) (n : Nat) (c : Bool) : State := claimOf .asking o false [⟨.shed 2 3 0, n, c⟩]

theorem meets_CollisionKeepsTheNotice_cancelled :
    (askingOf (some .drop) 0 true).receiver = .frame ∧ (askingOf (some .drop) 0 true).tq.queue = ⟨.shed 2 3 0, 0, true⟩ :: []
      ∧ (askingOf (some .drop) 0 true).sb.claim.outcome = some .drop
      ∧ (claimOf .sending none true [⟨.claim 0 12 .severe 0, 0, true⟩]).receiver = .frame
      ∧ (Notice.claim 0 12 .severe 0).isClaim = true ∧ (Notice.sky aSky).isClaim = false ∧ (Notice.sky aSky).isShed = false := by
  decide +kernel

theorem claimSound_asking_drop : ClaimSound (askingOf (some .drop) 3 true) := by constructor <;> decide +kernel
theorem claimSound_asking_resolve : ClaimSound (askingOf (some .reResolve) 0 true) := by constructor <;> decide +kernel
theorem claimSound_asking : ClaimSound (askingOf none 3 false) := by constructor <;> decide +kernel

theorem meets_CompletedTransmissionsEndTheAttempt :
    Settled (sending .tally 0 0) ∧ (sending .tally 0 0).live = true ∧ Notice.isShed .tally = false
      ∧ Notice.essential .tally = false ∧ (Notice.free 8).isShed = false ∧ (Notice.free 8).code = 5
      ∧ (Notice.commit 0).code = 3 ∧ (Notice.drop 7).code = 4 ∧ (Notice.drop 7).isShed = false
      ∧ ({ sending (.commit 0) 0 0 with sb.claim := { Claim.none with phase := .ending } } : State).sb.claim.phase = .ending
      ∧ (Notice.shed 2 3 0).isShed = true ∧ (sending (.shed 2 3 0) 0 2).tq.queue = ⟨.shed 2 3 0, 2, false⟩ :: []
      ∧ answerOf none = none ∧ answerOf (some ⟨4, true, 0x4B⟩) = none ∧ answerOf (some ⟨16, true, 0x2D⟩) = none := by
  unfold Settled; decide +kernel

/-- A SHED with ACK, with REFUSE, at its fourth attempt, and with each outcome held; the slot byte at the edges of its
window. -/
theorem meets_CompletedTransmissionsEndTheAttempt_shed :
    Settled (askingOf none 3 false) ∧ (askingOf none 3 false).live = true
      ∧ (askingOf none 3 false).li.attempt = some ⟨1000000, [0x6B]⟩
      ∧ (askingOf none 3 false).tq.queue = ⟨.shed 2 3 0, 3, false⟩ :: []
      ∧ answerOf (some ⟨5, true, 0x4B⟩) = some .ack ∧ answerOf (some ⟨15, true, 0x2D⟩) = some .refuse ∧ 3 ≤ 3
      ∧ (askingOf none 3 false).sb.claim.outcome = none ∧ ((askingOf none 3 false).bed 0).state = .claiming
      ∧ ((askingOf none 3 false).bed 0).targets = none
      ∧ (askingOf (some .drop) 3 true).sb.claim.outcome = some .drop
      ∧ (let s := askingOf (some .reResolve) 0 true
        s.sb.claim.outcome = some .reResolve
          ∧ committedSum s.sb.book + seniorSum s.sb.claim s.sb.book + s.sb.claim.flow ≤ s.sb.budget) := by
  unfold Settled; decide +kernel

theorem meets_OwnClaimOnTheLineTakesItsSeniors :
    s0.sb.claim.withdrawn = false ∧ s0.hasEntry s0.sl.own s0.sb.claim.bed.val = false ∧ s0.sb.book.length < 32 := by
  decide +kernel

/-- The own CLAIM at the head, withdrawn or not, with a book. -/
def claimSent (withdrawn : Bool) (l : List Entry) : State :=
  { claimOf .sending none withdrawn [⟨.claim 0 12 .severe 0, 0, withdrawn⟩] with sb.book := l }

theorem meets_OwnClaimOnTheLineTakesItsSeniors_sent :
    Settled (claimSent false []) ∧ (claimSent false []).live = true
      ∧ (claimSent true []).tq.queue = ⟨.claim 0 12 .severe 0, 0, true⟩ :: [] ∧ (claimSent true []).sb.claim.withdrawn = true
      ∧ (claimSent false []).sb.claim.withdrawn = false ∧ (claimSent false []).hasEntry 4 0 = false
      ∧ (∃ e ∈ (claimSent false [⟨5, 0, 1, .dry, false, 0, 0⟩]).sb.book, e.station ≠ 4 ∧ e.committed = false)
      ∧ (∀ e ∈ (claimSent false [⟨4, 8, 1, .dry, false, 0, 0⟩, ⟨5, 0, 1, .dry, true, 0, 0⟩]).sb.book,
          e.station = 4 ∨ e.committed = true) := by
  unfold Settled; decide +kernel

theorem claimSound_sent : ClaimSound (claimSent false []) := by constructor <;> decide +kernel
theorem claimSound_withdrawn : ClaimSound (claimSent true []) := by constructor <;> decide +kernel
theorem cutsNothing_sent : (claimSent false []).cutsNothing := by rintro e b ⟨h, _⟩; exact absurd h List.not_mem_nil

/-- The book holds these entries. -/
def booked (l : List Entry) : State := { s0 with sb.book := l }

theorem meets_LineTimersRunOut :
    (booked [plain 4 8 1 true]).live = true ∧ (booked [plain 4 8 1 true]).bc.holds.line = false
      ∧ (booked [plain 4 8 1 true]).hasOwnCommitted = true ∧ Settled s0
      ∧ ({ waiting .tally with tq.tallySince := some 5 } : State).tq.tallySince = some 5
      ∧ (∃ q ∈ (waiting .tally).tq.queue, q.notice = .tally) ∧ (∀ q ∈ (waiting (.free 0)).tq.queue, q.notice ≠ .tally)
      ∧ (List.replicate 5 (Queued.mk (.free 0) 0 false)).length < 6 := by
  unfold Settled; decide +kernel

theorem claimSound_booked : ClaimSound (booked [plain 4 8 1 true]) := by constructor <;> decide +kernel

/-- A cycle to cut, beside its own entry. -/
def inCycle : State := { runningOpen with sb.book := [plain 4 0 12 true] }

theorem meets_LineTimersRunOut_cuts :
    inCycle.hasOwnCommitted = true ∧ inCycle.bc.holds.line = false ∧ (inCycle.bed 0).state.cycling = true
      ∧ (inCycle.bed 0).run = some aRun := by decide +kernel

theorem claimSound_inCycle : ClaimSound inCycle := by constructor <;> decide +kernel
theorem not_shuts_inCycle : ¬ inCycle.shutsAtOnce 0 := needs_a_pulse .opened nofun

/-- The LINE fault's clauses: with an empty record and with a locked one. -/
theorem meets_LineTimersRunOut_fault :
    (booked [plain 4 8 1 true]).au.record = none
      ∧ ({ booked [plain 4 8 1 true] with au.record := some ⟨.coil, 0, 0, 0, 3, 4, 5⟩ } : State).au.record ≠ none
      ∧ ({ sending .tally 7 0 with au.record := some ⟨.coil, 0, 0, 0, 3, 4, 5⟩ } : State).au.record ≠ none
      ∧ (sending .tally 7 0).au.record = none := by decide +kernel

theorem meets_FramesNotHandedOn :
    Settled s0 ∧ s0.receiving = true ∧ (rxIn .frame).receiving = true ∧ 1 ≠ s0.sl.own ∧ 15 ≠ s0.sl.own ∧ 0 ≠ s0.sl.own
      ∧ s0.addressed 0 = true ∧ s0.addressed 4 = true ∧ ((1 ≤ 1 ∧ 1 ≤ 15) ∨ (1 = 0 ∧ 2 = 9))
      ∧ ((1 ≤ 15 ∧ 15 ≤ 15) ∨ (15 = 0 ∧ 2 = 9)) ∧ ((1 ≤ 0 ∧ 0 ≤ 15) ∨ (0 = 0 ∧ 9 = 9)) := by
  unfold Settled; decide +kernel

/-- The station in a state. -/
def stationIn (x : StationState) : State := { s0 with sl.station := x }

theorem meets_DuplicateNumberByStationState :
    [StationState.checking, .listening, .active, .unconfigured, .barred].all
      (fun x => (stationIn x).receiving && decide ((stationIn x).sl.station = x)) = true := by decide +kernel

/-- At the entry to BARRED: a bed in a run whose valve is OPEN, beds at rest, and the draw entry. -/
theorem meets_DuplicateNumberByStationState_barred :
    let s := { runningOpen with sb.book := [plain 4 8 1 true] }
    Settled s ∧ s.receiving = true ∧ s.sl.station = .active ∧ (s.bed 0).state.cycling = true ∧ (s.bed 0).run = some aRun
      ∧ (s.bed 1).state = .idle ∧ (s.bed 7).state = .off ∧ s.hasEntry 4 8 = true
      ∧ [BedState.waiting, .soaking, .claiming, .closing, .faulted].all (fun st =>
        decide (((inRun st aRun).bed 0).state = st)) = true := by
  unfold Settled; decide +kernel

theorem claimSound_drawing : ClaimSound { runningOpen with sb.book := [plain 4 8 1 true] } := by
  constructor <;> decide +kernel

/-- A full book, of entries of stations 5 and 6. -/
def fullBook : List Entry :=
  ((List.range 9).map fun b => plain 5 b 1 true) ++ ((List.range 9).map fun b => plain 6 b 1 true)
    ++ ((List.range 9).map fun b => plain 7 b 1 true) ++ ((List.range 5).map fun b => plain 8 b 1 true)

theorem meets_OwnClaimOnTheLineTakesItsSeniors_full :
    32 ≤ (claimSent false fullBook).sb.book.length ∧ (claimSent false fullBook).hasEntry 4 0 = false := by decide +kernel

theorem claimSound_sent_full : ClaimSound (claimSent false fullBook) := by constructor <;> decide +kernel

theorem meets_PeerClaimEntersTheBook :
    Settled s0 ∧ s0.hears 1 0 ∧ s0.hears 15 4 ∧ claimFits 0 1 0 = true ∧ claimFits 7 120 255 = true
      ∧ (booked [plain 1 0 1 true]).hasEntry 1 0 = true ∧ (booked (fullBook.drop 1)).sb.book.length < 32
      ∧ (booked fullBook).hasEntry 1 0 = false ∧ 32 ≤ (booked fullBook).sb.book.length := by
  unfold Settled State.hears; decide +kernel

theorem meets_PeerCommitCommitsTheEntry :
    (booked [plain 1 8 1 false]).hears 1 0 ∧ 8 ≤ 8 ∧ (booked [plain 1 8 1 false]).entry 1 8 = some (plain 1 8 1 false)
      ∧ s0.entry 1 0 = none ∧ s0.lastClaimFor 1 0 = none ∧ (booked (fullBook.drop 1)).sb.book.length < 32
      ∧ ({ s0 with sb.presence := [⟨1, 0, none, false, some ⟨0, 9, .dry, 3⟩⟩] } : State).lastClaimFor 1 0
        = some ⟨0, 9, .dry, 3⟩ := by
  unfold State.hears; decide +kernel

/-- The own cycle's entry is over once station 1's draw of 14.5 L/min is COMMITTED, and is not at 14.0 L/min. -/
theorem meets_PeerCommitCommitsTheEntry_over :
    let s := fun f => { inCycle with sb.book := [plain 1 8 f false, plain 4 0 12 true] }
    let committed := fun f => { s f with sb.book := updateEntry 1 8 (fun e => { e with committed := true, heard := 5 }) (s f).sb.book }
    (s 29).hears 1 0 ∧ (s 29).entry 1 8 = some (plain 1 8 29 false) ∧ (committed 29).overdrawn (plain 4 0 12 true) 0
      ∧ overEntries (s 28).sb.budget 0 (committed 28).sb.book = [] := by
  unfold State.hears State.overdrawn; decide +kernel

/-- A claim of bed 0 for 6.0 L/min that waits for station 1's draw entry: in RESOLVING, in AWAITING, or in ASKING with its SHED
waiting or on the line. -/
def waitsFor (p : Phase) (u : Urgency) (asks sends : Bool) : State :=
  let s := s0.modBed 0 fun x => { x with state := .claiming, need := 240 }
  { s with
    sb.book := [plain 1 8 8 false, ⟨4, 0, 12, u, false, 0, 0⟩]
    sb.claim := { Claim.none with
      phase := p, flow := 12, urgency := u, seniors := [(1, 8), (2, 0)], shedMade := decide (p ≠ .resolving), victim := some (1, 8) }
    tq.queue := if asks then [⟨.shed 1 8 0, 0, false⟩] else []
    li.attempt := if sends then some ⟨1000000, [0x6B]⟩ else none, li.rx := if sends then .frame else .hunt }

theorem claimSound_waitsFor (p : Phase) (u : Urgency) (sends : Bool) (h : p = .resolving ∨ p = .awaiting) :
    ClaimSound (waitsFor p u false sends) := by
  constructor <;> rcases h with rfl | rfl <;> cases u <;> cases sends <;> decide +kernel

theorem claimSound_waitsFor_asking (u : Urgency) (sends : Bool) : ClaimSound (waitsFor .asking u true sends) := by
  constructor <;> cases u <;> cases sends <;> decide +kernel

theorem awaits_resolving (u : Urgency) : (waitsFor .resolving u false false).awaits 1 8 := by
  refine .inl ⟨rfl, ?_⟩
  cases u <;> decide +kernel

theorem awaits_awaiting : (waitsFor .awaiting .severe false false).awaits 1 8 := .inr ⟨.inl rfl, rfl⟩
theorem awaits_asking (sends : Bool) : (waitsFor .asking .severe true sends).awaits 1 8 := .inr ⟨.inr ⟨rfl, rfl⟩, rfl⟩

/-- Nothing is over in that book, nor without the entry. -/
theorem cutsNothing_waitsFor (u : Urgency) :
    (waitsFor .resolving u false false).cutsNothing
      ∧ ({ waitsFor .resolving u false false with sb.book := [⟨4, 0, 12, u, false, 0, 0⟩] } : State).cutsNothing := by
  constructor <;> rintro e b ⟨h, _⟩ <;> exact absurd h (by cases u <;> exact List.not_mem_nil)

theorem meets_PeerCommitCommitsTheEntry_senior :
    let s := waitsFor .resolving .normal false false
    s.hears 1 0 ∧ s.entry 1 8 = some (plain 1 8 8 false) ∧ s.sb.claim.phase = .resolving ∧ (∀ p ∈ s.liveSeniors, p = (1, 8))
      ∧ (after (.commitReceived 1 0 8) s).sb.claim.phase = .ending
      ∧ ((after (.commitReceived 1 0 8) s).bed 0).state = .opening := by
  unfold State.hears; decide +kernel

theorem meets_PeerDropAndFreeRemoveTheEntry :
    (booked [plain 1 7 1 false]).hears 1 0 ∧ 7 ≤ 7 ∧ 8 ≤ 8 ∧ (booked [plain 1 7 1 false]).hasEntry 1 7 = true := by
  unfold State.hears; decide +kernel

/-- The victim's FREE, in AWAITING and in ASKING: the claim that then fits opens its bed. -/
theorem meets_PeerDropAndFreeRemoveTheEntry_victim :
    [waitsFor .awaiting .severe false false, waitsFor .asking .severe true false, waitsFor .resolving .dry false false].all (fun s =>
      decide (s.hasEntry 1 8 = true) && s.receiving && s.addressed 0
        && decide ((after (.freeReceived 1 0 8) s).sb.claim.phase = .ending)
        && decide (((after (.freeReceived 1 0 8) s).bed 0).state = .opening)) = true := by decide +kernel

/-- A TALLY of a draw entry and a bed. -/
def twoEntries : TallyNotice := { noTally with entries := [⟨8, 120, .normal, true⟩, ⟨0, 1, .dry, false⟩] }

theorem meets_PeerTallyReplacesItsEntries :
    s0.hears 15 0 ∧ noTally.fits = true ∧ twoEntries.fits = true ∧ (twoEntries.entries.map fun e => e.bed).Nodup
      ∧ (booked (fullBook.drop 2)).sb.book.length + twoEntries.entries.length ≤ 32
      ∧ ({ noTally with budget := 0 } : TallyNotice).fits = true := by
  unfold State.hears; decide +kernel

/-- Budgets that agree, that disagree for the first time or again, and that are not compared. -/
theorem meets_PeerTallyReplacesItsEntries_budget :
    s0.sl.setup.budget = 40 ∧ noTally.budget = 40 ∧ ({ noTally with budget := 8 } : TallyNotice).budget ≠ 40
      ∧ ({ noTally with budget := 120 } : TallyNotice).fits = true ∧ noTally.barred = false
      ∧ ({ noTally with budget := 0 } : TallyNotice).budget = 0 ∧ ({ noTally with barred := true } : TallyNotice).barred = true
      ∧ (s0.row 15).bind Row.budget ≠ some 8 ∧ s0.au.record = none
      ∧ (({ s0 with sb.presence := [⟨15, 5, some 8, false, none⟩] } : State).row 15).bind Row.budget = some 8 := by
  decide +kernel

theorem meets_PeerNoticesTouchTheirOwnEntriesAlone :
    (∃ tgt flow u age, Instr.claimReceived 5 0 8 1 .dry 0 = .claimReceived 5 tgt 8 flow u age)
      ∧ (∃ tgt y, Instr.tallyReceived 5 0 noTally = .tallyReceived 5 tgt y)
      ∧ ∀ tgt y, Instr.freeReceived 5 0 8 ≠ .tallyReceived 5 tgt y :=
  ⟨⟨_, _, _, _, rfl⟩, ⟨_, _, rfl⟩, nofun⟩

/-- Bed 0 runs with its entry in the book, the entry of bed 7 is PENDING. -/
def shedable (st : BedState) : State :=
  { inRun st aRun with sb.book := [plain 4 0 12 true, plain 4 7 12 false] }

theorem meets_ShedIsAnsweredByTheTable :
    Settled (shedable .running) ∧ (shedable .running).hears 15 4 ∧ shedFits 0 7 = true ∧ shedFits 7 0 = true
      ∧ (shedable .running).sl.own ≠ 0 ∧ bedOf 0 = some 0 ∧ (shedable .running).ownEntry 0 = some (plain 4 0 12 true)
      ∧ ((shedable .opening).bed 0).state.cycling = true ∧ ((shedable .closing).bed 0).state = .closing
      ∧ (shedable .running).ownEntry 7 = some (plain 4 7 12 false) ∧ (shedable .running).ownEntry 5 = none
      ∧ ((shedable .soaking).bed 0).state.cycling = false ∧ ((shedable .soaking).bed 0).state ≠ .closing := by
  unfold Settled State.hears; decide +kernel

/-- A cycle whose valve is still to close: not_shuts_inCycle says so. -/
theorem meets_ShedIsAnsweredByTheTable_cut :
    inCycle.hears 15 4 ∧ inCycle.ownEntry 0 = some (plain 4 0 12 true) ∧ (inCycle.bed 0).run = some aRun := by
  unfold State.hears; decide +kernel

/-- The station with a record of station 5, received at this moment. -/
def recorded (t : Nat) : State := { s0 with now := 20000000, pw.weather := some ⟨aSky, 5, t⟩ }

theorem meets_SkyIsAdoptedByItsSource :
    s0.hears 6 0 ∧ aSky.fits = true ∧ s0.pw.weather = none ∧ (recorded 0).hears 5 0 ∧ 5 ≤ 5 ∧ (recorded 0).hears 6 0
      ∧ 15 * 720000 < (recorded 0).frameEnd 11 - 0 ∧ 5 < 6
      ∧ (recorded ((recorded 0).frameEnd 11 - 15 * 720000)).frameEnd 11 - ((recorded 0).frameEnd 11 - 15 * 720000)
        ≤ 15 * 720000 := by
  unfold State.hears; decide +kernel

/-- Minutes within one of the clock's and beyond, across midnight; holds that join. -/
theorem meets_SkyIsAdoptedByItsSource_clock :
    (∀ p ∈ [(0, 1439), (1439, 0), (600, 601), (600, 600)], max p.1 p.2 - min p.1 p.2 ≤ 1 ∨ max p.1 p.2 - min p.1 p.2 ≥ 1439)
      ∧ (∀ p ∈ [(1, 1439), (600, 602), (0, 2)], max p.1 p.2 - min p.1 p.2 > 1 ∧ max p.1 p.2 - min p.1 p.2 < 1439)
      ∧ s0.pw.clockSet = false ∧ 1439 < 65535 ∧ s0.bc.holds.rain = false ∧ s0.bc.holds.defer = false
      ∧ s0.bc.holds.freeze = false
      ∧ (let t := after (.skyReceived 6 0 { aSky with dayRain := 50, recentRain := 4, temperature := 4 }) s0
        t.bc.holds.rain = true ∧ t.bc.holds.defer = true ∧ t.bc.holds.freeze = true)
      ∧ s0.sb.claim.urgency ≠ .severe := by decide +kernel

theorem meets_OrderGateRefusesInOrder :
    Settled s0 ∧ s0.hearsOrder 0 ∧ s0.hearsOrder 15 ∧ (stationIn .barred).hearsOrder 0
      ∧ (stationIn .barred).sl.station.passes .water = false ∧ (stationIn .unconfigured).sl.station.passes .water = false
      ∧ s0.sl.station.passes .water = true ∧ s0.presentBed 3 = none ∧ s0.presentBed 8 = none ∧ s0.presentBed 0 = some 0
      ∧ (2001 = 0 ∨ 2000 < 2001) ∧ (100 < 101 ∨ 100 < 50 ∨ 50 ≤ 101) ∧ (100 < 50 ∨ 100 < 50 ∨ 50 ≤ 50)
      ∧ ((s0.modBed 0 fun x => { x with state := .off }).bed 0).state = .off
      ∧ ((s0.modBed 0 fun x => { x with state := .faulted }).bed 0).state = .faulted
      ∧ (stationIn .unconfigured).sl.station.passes .clear = true ∧ 12 < 13
      ∧ (stationIn .barred).sl.station.passes .query = true ∧ 1 < 2
      ∧ (stationIn .unconfigured).sl.station.passes .clock = true ∧ 1439 < 1440 := by
  unfold Settled State.hearsOrder; decide +kernel

theorem meets_GroupOrdersReachTheWindowsBeds :
    Settled s0 ∧ s0.hearsOrder 0 ∧ s0.groupBeds 130 = none ∧ s0.groupBeds 2 = some [0, 1]
      ∧ s0.groupBeds 127 = some [] := by
  unfold Settled State.hearsOrder; decide +kernel

theorem meets_WaterOrdersAVolume :
    Settled s0 ∧ s0.hearsOrder 0 ∧ s0.sl.station.passes .water = true ∧ s0.presentBed 0 = some 0
      ∧ (s0.bed 0).state = .idle ∧ (s0.bed 0).run = none ∧ 1 ≤ 1 ∧ 2000 ≤ 2000
      ∧ [BedState.opening, .confirming, .running, .soaking, .closing].all (fun st =>
        decide (((inRun st aRun).bed 0).state = st) && decide (((inRun st aRun).bed 0).run = some aRun)
          && (st.cycling || decide (st = .soaking) || decide (st = .closing))) = true := by
  unfold Settled State.hearsOrder; decide +kernel

theorem meets_WaterOrdersAVolume_more :
    s0.groupBeds 2 = some [0, 1] ∧ (∀ d ∈ [(0 : BedId), 1], (s0.bed d).state ≠ .claiming) ∧ (2 : BedId) ∉ [(0 : BedId), 1]
      ∧ (s0.setupOf 0).present = true ∧ (s0.setupOf 7).present = false
      ∧ ((inRun .waiting aRun).bed 0).state = .waiting
      ∧ ((claimSent false []).bed 0).state = .claiming ∧ ((claimSent false []).bed 0).run = none
      ∧ ((claimSent false []).bed 0).targets = none ∧ (claimSent false []).sb.claim.bed = 0
      ∧ (s0.modBed 0 fun x => { x with state := .waiting }).bed 0 = { s0.bed 0 with state := .waiting } := by
  decide +kernel

/-- Bed 0 is CLAIMING with its own entry, the line free, beside bed 1 in a cycle. -/
def claimBesideRun : State :=
  { (claimOf .resolving none false []).modBed 1 fun x => { x with state := .running, run := some aRun } with li := s0.li }

theorem claimSound_claimBesideRun : ClaimSound claimBesideRun := by constructor <;> decide +kernel

/-- The CLAIMING bed before its first cycle, and between its run's cycles with targets pending and a senior ahead. -/
theorem meets_WaterOrdersAVolume_claiming :
    let s := claimBesideRun
    let u := s.modBed 0 fun x => { x with run := some { aRun with delivered := 100 }, urgency := .severe, targets := some (1, 2) }
    Settled s ∧ s.hearsOrder 0 ∧ s.sl.station.passes .water = true ∧ s.groupBeds 2 = some [0, 1]
      ∧ (s.bed 0).state = .claiming ∧ s.sb.claim.live = true ∧ s.sb.claim.bed = 0
      ∧ u.sb.claim.urgency = (u.bed 0).urgency ∧ (∀ d ∈ [(0 : BedId), 1], (s.bed d).state = .claiming → d = 0)
      ∧ overEntries s.sb.budget 0 s.sb.book = [] ∧ (s.bed 1).state.cycling = true ∧ (s.bed 1).run = some aRun
      ∧ s.ownEntry 0 = some ⟨4, 0, 12, .severe, false, 0, 0⟩
      ∧ (let t := after (.water 0 4 0 2000) { u with sb.claim.seniors := [(2, 3)], sb.book := plain 2 3 1 false :: u.sb.book }
        t.sb.claim.phase = .resolving ∧ (t.bed 0).run = some { aRun with delivered := 100, need := 20100 }) := by
  unfold Settled State.hearsOrder; decide +kernel

theorem meets_SkipStopsTheBedForTheDay :
    Settled s0 ∧ s0.hearsOrder 0 ∧ s0.sl.station.passes .skip = true ∧ s0.presentBed 0 = some 0
      ∧ [BedState.idle, .waiting, .soaking, .closing, .faulted, .running].all (fun st =>
        decide (((inRun st aRun).bed 0).state = st) && !(inRun st aRun).brokenProbe 0) = true
      ∧ ({ inRun .running aRun with vd.valves := s0.vd.valves.set 0 .opened } : State).valve 0 = .opened
      ∧ (s0.setupOf 0).kind = .latch ∧ BedState.cycling .running = true := by
  unfold Settled State.hearsOrder; decide +kernel

/-- Bed 2's held valve in a state of its channel. -/
def heldIn (v : ValveState) (c : Option Channel) : State :=
  { s0.modBed 2 fun x => { x with state := .opening, run := some aRun } with
    vd.channelA := c, vd.valves := s0.vd.valves.set 2 v }

/-- Cycles whose valve can be CLOSED at once, and others; a group's beds. -/
theorem meets_SkipStopsTheBedForTheDay_more :
    (s0.setupOf 2).kind = .held ∧ (heldIn .opened (some ⟨2, .hold, none, none⟩)).valve 2 = .opened
      ∧ (heldIn .opening (some ⟨2, .waiting, none, none⟩)).channelOf 2 = some ⟨2, .waiting, none, none⟩
      ∧ (heldIn .opening (some ⟨2, .pullIn 5 false, none, none⟩)).channelOf 2 = some ⟨2, .pullIn 5 false, none, none⟩
      ∧ ((heldIn .opened none).bed 2).state.cycling = true ∧ aRun.keptOrder = none
      ∧ (let s := { inRun .opening aRun with vd.valves := s0.vd.valves.set 0 .opening, vd.queue := [⟨0, .opens⟩] }
        s.valve 0 = .opening ∧ s.queued 0 = true ∧ s.pulsing 0 = false)
      ∧ runningOpen.valve 0 = .opened ∧ (s0.setupOf 0).kind = .latch ∧ (s0.valve 0) = .closed
      ∧ s0.groupBeds 2 = some [0, 1] ∧ ((claimSent false []).bed 0).state = .claiming
      ∧ (claimSent false []).brokenProbe 0 = false := by decide +kernel

theorem meets_PauseAndResumeSetTheHold :
    s0.hearsOrder 0 ∧ s0.hearsOrder 15 ∧ s0.sl.station.passes .pause = true ∧ s0.groupBeds 2 ≠ none
      ∧ s0.groupBeds 127 ≠ none := by
  unfold State.hearsOrder; decide +kernel

theorem meets_PauseAndResumeSetTheHold_joins : s0.bc.holds.pause = false ∧ (s0.bc.holds.put .pause true).pause = true := by
  decide +kernel

theorem meets_TargetSetsTheThresholds :
    Settled s0 ∧ s0.hearsOrder 0 ∧ s0.sl.station.passes .target = true ∧ s0.presentBed 2 = some 2 ∧ (0 ≤ 100 ∧ 0 < 100)
      ∧ (99 ≤ 100 ∧ 100 ≤ 100 ∧ 99 < 100)
      ∧ [BedState.idle, .waiting, .off, .faulted, .claiming, .opening, .closing, .soaking].all (fun st =>
        decide (((inRun st aRun).bed 0).state = st)) = true := by
  unfold Settled State.hearsOrder; decide +kernel

theorem meets_TargetSetsTheThresholds_group :
    s0.groupBeds 2 = some [0, 1] ∧ (s0.setupOf 1).present = true ∧ (s0.setupOf 7).present = false := by decide +kernel

theorem meets_ClearRearmsAndReturnsBeds :
    Settled s0 ∧ s0.hearsOrder 0 ∧ s0.sl.station.passes .clear = true
      ∧ ((s0.setFaulted 0 .leak).bed 0).fault.map BedFault.cause = some Cause.leak
      ∧ ((s0.setFaulted 0 .leak).bed 0).state = .faulted
      ∧ ((s0.raise .coil 0 1 0 0 1 4).au.record).isSome = true := by
  unfold Settled State.hearsOrder; decide +kernel

/-- Bed 0 is FAULTED(PROBE), its probe failed, at an area. -/
def probeFault (area : Nat) : State :=
  { s0.setFaulted 0 .probe with sl.setup.beds := aSetup.beds.set 0 { aBed with area := area } }.modBed 0 fun x =>
    { x with probeFailed := true }

/-- By number and by group; each condition, and a broken probe or one that a debt serves. -/
theorem meets_ClearRearmsAndReturnsBeds_more :
    s0.groupBeds 2 ≠ none ∧ ({ s0 with fm.drawing := true } : State).fm.drawing = true
      ∧ ({ s0 with vd.supply := .lost } : State).vd.supply = .lost ∧ ({ s0 with tq.headRun := 8 } : State).tq.headRun = 8
      ∧ ({ s0 with sb.saturated := true } : State).sb.saturated = true
      ∧ 30 * 720000 < ({ recorded 0 with now := 30 * 720000 } : State).frameEnd 3 - 0 ∧ (recorded 0).frameEnd 3 - 0 ≤ 30 * 720000
      ∧ s0.frameEnd 3 < s0.sl.loadingEnd + 30 * 720000
      ∧ (probeFault 0).brokenProbe 0 = true ∧ (probeFault 50).brokenProbe 0 = false
      ∧ ((probeFault 0).bed 0).fault = some .probe ∧ ((probeFault 0).bed 0).state = .faulted
      ∧ ((probeFault 0).bed 0).skip = false ∧ (∀ b, ((probeFault 0).bed b).run = none) := by decide +kernel

/-- DISCARD with no other cause to report, and with one whose ALERT finds the queue full. -/
theorem meets_ClearRearmsAndReturnsBeds_discard :
    (∀ c, c ≠ .discard → (s0.latch c).pending = true → (s0.latch c).armed = false)
      ∧ (let s := { s0.setPending .leak 0 1 with tq.queue := List.replicate 6 ⟨.alert .coil 0 1, 0, false⟩ }
        (s.latch .leak).pending = true ∧ ((after (.clear 0 4 0 11) s).latch .discard).pending = true
          ∧ ((after (.clear 0 4 0 0) { s with sb.saturated := true }).latch .discard).pending = true) :=
  ⟨fun c => by cases c <;> decide +kernel, by decide +kernel⟩

/-- A queue of so many waiting FREEs. -/
def queueOf (n : Nat) : State := { s0 with tq.queue := List.replicate n ⟨.free 0, 0, false⟩ }

theorem meets_QueryQueuesAReply :
    Settled (queueOf 6) ∧ (queueOf 6).hearsOrder 0 ∧ (queueOf 5).tq.queue.length < 6 ∧ 6 ≤ (queueOf 6).tq.queue.length
      ∧ (queueOf 5).presentBed 0 = some 0 := by
  unfold Settled State.hearsOrder; decide +kernel

theorem meets_QueryQueuesAReply_group :
    (queueOf 4).groupBeds 2 = some [0, 1] ∧ (∀ b ∈ [(0 : BedId), 1], ((queueOf 4).setupOf b).present = true)
      ∧ (queueOf 4).tq.queue.length + 2 ≤ 6 := by decide +kernel

theorem meets_PeersAndPendingEntriesExpire :
    (booked [plain 1 8 1 false]).live = true ∧ 1 ≠ s0.sl.own
      ∧ ({ s0 with sb.presence := [⟨1, 5, none, false, none⟩] } : State).row 1 = some ⟨1, 5, none, false, none⟩
      ∧ (booked [plain 1 8 1 false]).entry 1 8 = some (plain 1 8 1 false) ∧ (plain 1 8 1 false).committed = false := by
  decide +kernel

/-- The claim waits for the entry that leaves: with no SHED on the line, and with one, whose outcome is then held. -/
theorem meets_PeersAndPendingEntriesExpire_claim :
    (waitsFor .awaiting .severe false false).sb.claim.phase ≠ .asking
      ∧ (waitsFor .asking .severe true false).sendingOf Notice.isShed = false
      ∧ (let s := waitsFor .asking .severe true true
        s.sb.claim.phase = .asking ∧ s.sendingOf Notice.isShed = true ∧ s.hasEntry 1 8 = true
          ∧ (after (.pendingLapse 1 8) s).sb.claim.outcome = some .reResolve
          ∧ (after (.pendingLapse 1 8) s).tq.queue = [⟨.shed 1 8 0, 0, true⟩])
      ∧ ((after (.pendingLapse 1 8) (waitsFor .resolving .normal false false)).bed 0).state = .opening := by decide +kernel

/-- A claim of bed 0 for 6.0 L/min in a phase, against this book. -/
def claimIn (p : Phase) (u : Urgency) (l : List Entry) : State :=
  { booked l with sb.claim := { Claim.none with
      phase := p, flow := 12, urgency := u, resolveSince := some 5, victimSince := some 5 } }

theorem meets_ClaimTimersResolveTheClaim :
    (claimIn .resolving .normal []).sl.station = .active ∧ (claimIn .resolving .normal []).sb.claim.phase = .resolving
      ∧ (claimIn .resolving .normal []).sb.claim.resolveSince = some 5
      ∧ [28, 29].all (fun f =>
        let s := claimIn .resolving .normal [plain 2 0 f true]
        decide (committedSum s.sb.book + seniorSum s.sb.claim s.sb.book + s.sb.claim.flow = f + 12)) = true
      ∧ (claimIn .awaiting .severe []).sb.claim.phase = .awaiting
      ∧ (claimIn .awaiting .severe []).sb.claim.victimSince = some 5 := by decide +kernel

/-- The entry of a claim that fits at the budget's edge, with the line-loss timer running or its hold there. -/
theorem meets_ClaimTimersResolveTheClaim_entry :
    let s := { claimIn .resolving .normal [plain 2 0 28 true, plain 4 0 12 false] with li.lossSince := 700001 }
    BookSound s ∧ s.ownEntry 0 = some (plain 4 0 12 false) ∧ committedSum s.sb.book + 12 = s.sb.budget
      ∧ (after .resolutionTimerExpiry s).now + 1 = s.li.lossSince + 25 * 12000
      ∧ ({ s with bc.holds := s.bc.holds.put .line true } : State).bc.holds.line = true := by
  unfold BookSound; decide +kernel

/-- A claim of bed `b`, its entry in the book, that fits and is resolved now; the bed with a run between cycles or without one. -/
def fitting (b : BedId) (x : Option Run) : State :=
  let s := claimIn .resolving .normal [plain 4 b.val 12 false]
  { s.modBed b fun y => { y with state := .claiming, need := 240, run := x } with sb.claim.bed := b }

theorem claimSound_fitting : ClaimSound (fitting 0 none) ∧ ClaimSound (fitting 2 (some aRun)) := by
  constructor <;> constructor <;> decide +kernel

/-- A latching valve and a held one that are CLOSED, with the drive at rest or at work and a supply that is not GOOD. -/
theorem meets_ClaimTimersResolveTheClaim_opens :
    [0, 2].all (fun b => decide ((fitting b none).valve b = .closed) && !(fitting b none).queued b && !(fitting b none).pulsing b
        && decide ((fitting b none).channelOf b = none)) = true
      ∧ (fitting 2 none).vd.channelA = none ∧ (s0.setupOf 0).kind = .latch ∧ (s0.setupOf 2).kind = .held
      ∧ s0.vd.generator = .idle ∧ s0.vd.closures = [] ∧ s0.vd.queue = [] ∧ s0.vd.supply = .good
      ∧ ({ s0 with vd.supply := .lost } : State).vd.supply ≠ .good
      ∧ (let t := after .resolutionTimerExpiry (fitting 0 (some { aRun with delivered := 90, cycleDelivered := 90, cycle := 3 }))
        (t.bed 0).state = .opening ∧ t.vd.generator = .pulse ⟨0, .opens⟩ false t.now
          ∧ (t.bed 0).run = some { aRun with delivered := 90, cycle := 4 })
      ∧ (let t := after .resolutionTimerExpiry (fitting 2 none)
        t.valve 2 = .opening ∧ (t.channelOf 2).map (·.phase) = some (.pullIn t.now false)
          ∧ (t.bed 2).run = some { aRun with startMinute := 1 })
      ∧ (let t := after .resolutionTimerExpiry { fitting 0 none with vd.supply := .absent }
        t.valve 0 = .opening ∧ t.vd.queue = [⟨0, .opens⟩]) := by decide +kernel

/-- A line that is lost at the very moment, and a claim that drops: its bed CLAIMING, without targets pending. -/
theorem meets_ClaimTimersResolveTheClaim_late :
    let late := { fitting 0 none with li.lossSince := 700000 }
    let tight := { fitting 0 none with sb.budget := 11 }
    late.li.lossSince + 25 * 12000 ≤ (after .resolutionTimerExpiry late).now ∧ late.bc.holds.line = false
      ∧ ((after .resolutionTimerExpiry late).bed 0).state.cycling = false ∧ ((fitting 0 none).bed 0).targets = none
      ∧ tight.sb.budget < committedSum tight.sb.book + seniorSum tight.sb.claim tight.sb.book + tight.sb.claim.flow
      ∧ ((after .resolutionTimerExpiry tight).bed 0).state = .waiting := by decide +kernel

/-- A SEVERE claim of bed 0 against the own bed 1, which RUNS with its valve so. -/
def ownVictim (v : ValveState) : State :=
  let s := claimIn .resolving .severe [plain 4 1 29 true, ⟨4, 0, 12, .severe, false, 0, 0⟩]
  let s := s.modBed 0 fun x => { x with state := .claiming, need := 240 }
  { s.modBed 1 fun x => { x with state := .running, run := some aRun } with vd.valves := s.vd.valves.set 1 v }

theorem claimSound_ownVictim (v : ValveState) : ClaimSound (ownVictim v) := by
  constructor <;> cases v <;> decide +kernel

/-- No victim, a peer's at the shortfall's edge, and an own one whose entry stays or leaves at once. -/
theorem meets_ClaimTimersResolveTheClaim_shed :
    victimOf 1 0 [{ plain 2 0 29 true with urgency := .dry }] = none
      ∧ (let s := claimIn .resolving .severe [plain 2 0 29 true]
        s.sb.budget < committedSum s.sb.book + seniorSum s.sb.claim s.sb.book + s.sb.claim.flow
          ∧ s.sb.claim.urgency = .severe ∧ s.sb.claim.shedMade = false
          ∧ victimOf 1 0 s.sb.book = some (plain 2 0 29 true) ∧ s.sl.own = 4)
      ∧ victimOf 1 0 (ownVictim .opened).sb.book = some (plain 4 1 29 true)
      ∧ (after .resolutionTimerExpiry (ownVictim .opened)).hasEntry 4 1 = true
      ∧ (after .resolutionTimerExpiry (ownVictim .closed)).hasEntry 4 1 = false := by decide +kernel

/-- Bed 0 waits with a need; with a backoff or without. -/
def waitingBed (x : Option Nat) : State :=
  s0.modBed 0 fun b => { b with state := .waiting, need := 100, backoffEnd := x, ageSince := some 5 }

theorem meets_OccasionsOfferTheFirstEligibleBed :
    Settled (waitingBed none) ∧ (waitingBed none).sl.station = .active ∧ (waitingBed none).sb.claim.phase = .none
      ∧ ({ waitingBed none with sb.lastFree := some 5 } : State).sb.lastFree = some 5 ∧ Urgency.normal ≠ .severe
      ∧ ((waitingBed (some 7)).bed 0).state = .waiting ∧ ((waitingBed (some 7)).bed 0).backoffEnd = some 7
      ∧ (waitingBed none).waitQueue.find? (fun b => (waitingBed none).eligible b) = some 0
      ∧ s0.waitQueue.find? (fun b => s0.eligible b) = none := by
  unfold Settled; decide +kernel

theorem meets_BedTimersRunOut :
    Settled (waitingBed none) ∧ (waitingBed none).live = true ∧ ((waitingBed none).bed 0).ageSince = some 5
      ∧ (let s := (inRun .soaking aRun).modBed 0 fun b => { b with soakSince := some 5 }
        (s.bed 0).state = .soaking ∧ (s.bed 0).soakSince = some 5 ∧ (s.bed 0).run = some aRun
          ∧ (after (.soakEnd 0) s).runClock - aRun.startMinute < 1440)
      ∧ (let s := (inRun .soaking aRun).modBed 0 fun b => { b with soakSince := some 5 }
        1440 ≤ (after (.soakEnd 0) { s with now := 1440 * 720000 }).runClock - aRun.startMinute)
      ∧ ((inRun .waiting aRun).bed 0).state = .waiting ∧ ((inRun .waiting aRun).bed 0).run = some aRun := by
  unfold Settled; decide +kernel

/-- The clock is set to a minute. -/
def clockAt (m : Nat) : State := { s0 with pw.clockSet := true, pw.minute := m }

theorem meets_DayClockIsSetAndTicks :
    (clockAt 1439).pw.clockSet = true ∧ (clockAt 1439).pw.minute < 1440 ∧ s0.groupBeds 2 ≠ none
      ∧ ((clockAt 1439).pw.minute + 1) % 1440 = 0 ∧ ((clockAt 59).pw.minute + 1) % 60 = 0
      ∧ ((clockAt 60).pw.minute + 1) % 60 ≠ 0 ∧ s0.hearsOrder 0 ∧ s0.sl.station.passes .clock = true ∧ 0 ≤ 1439
      ∧ 1439 ≤ 1439 := by
  unfold State.hearsOrder; decide +kernel

/-- Boundaries are due. -/
def dueIn (l : List Boundary) : State := { clockAt 0 with bc.due := l }

theorem meets_BoundariesMoveDebtsAndDay :
    (dueIn [.hour 0]).live = true ∧ (dueIn [.hour 0]).bc.due = .hour 0 :: [] ∧ (s0.setupOf 0).present = true
      ∧ (s0.bed 0).state ≠ .off ∧ (s0.setupOf 7).present = false
      ∧ ({ recorded 19000000 with bc.rainApplied := some 12 } : State).hourRain = some aSky
      ∧ ({ recorded 19000000 with bc.rainApplied := some 13 } : State).hourRain = none
      ∧ s0.sl.setup.weatherSource = true ∧ Setup.blank.weatherSource = false ∧ Settled (dueIn [.day, .hour 0])
      ∧ (dueIn [.day, .hour 0]).bc.due = .day :: [.hour 0] ∧ s0.bc.due = [] ∧ s0.pw.clockSet = false := by
  unfold Settled; decide +kernel

/-- An hour with its day, and counted hours: one that ends a day still to count, one whose day is counted, one within a day. -/
theorem meets_BoundariesMoveDebtsAndDay_counted :
    (dueIn [.day, .hour 0]).bc.due = .day :: .hour 0 :: [] ∧ s0.live = true ∧ s0.bc.due = [] ∧ s0.pw.clockSet = false
      ∧ (23 + 1) % 24 = 0 ∧ 0 < (23 + 1) / 24 ∧ (23 + 1) / 24 ≤ 1 ∧ (22 + 1) % 24 ≠ 0
      ∧ (let t := after .hourBoundary { s0 with bc.hours := 23 }
        t.bc.hours = 24 ∧ t.bc.days = 1 ∧ t.pw.lastHourIndex = 23)
      ∧ (after .hourBoundary { s0 with bc.hours := 23, bc.days := 1 }).bc.days = 1
      ∧ (after .hourBoundary { s0 with bc.hours := 24, bc.days := 1 }).pw.lastHourIndex = 0 := by decide +kernel

/-- Bed 0 under debt rules with a debt, in a state; boundaries are due. -/
def indebted (st : BedState) (debt : Nat) (l : List Boundary) : State :=
  { (dueIn l).modBed 0 fun x => { x with state := st, debt := debt } with
    sl.setup.beds := aSetup.beds.set 0 { aBed with mode := .debt } }

theorem claimSound_indebted (st : BedState) (debt : Nat) (l : List Boundary) : ClaimSound (indebted st debt l) :=
  ⟨nofun, nofun, nofun, Nat.zero_le _, Nat.zero_le _, nofun, nofun, nofun, fun h => absurd rfl h, nofun⟩

/-- A debt at the threshold of 25.0 L and one step below it, at an hour and at a day. -/
theorem meets_BoundariesMoveDebtsAndDay_needs :
    (indebted .idle 250 [.hour 0]).probeRules 0 = false ∧ (indebted .idle 250 [.hour 0]).brokenProbe 0 = false
      ∧ ((indebted .idle 250 [.hour 0]).bed 0).skip = false ∧ (indebted .idle 250 [.hour 0]).sl.station ≠ .barred
      ∧ Settled (indebted .idle 250 [.day]) ∧ (indebted .idle 250 [.day]).bc.due = .day :: []
      ∧ (s0.bed 0).state = .idle ∧ ((indebted .waiting 250 [.day]).bed 0).state = .waiting ∧ s0.probeRules 0 = true
      ∧ (s0.setupOf 0).present = true ∧ (s0.setupOf 0).area * s0.evapClass = 12
      ∧ ((after .hourBoundary (indebted .idle 238 [.hour 0])).bed 0).need = 250
      ∧ ((after .hourBoundary (indebted .idle 237 [.hour 0])).bed 0).state = .idle
      ∧ ((after .hourBoundary (indebted .waiting 237 [.hour 0])).bed 0).state = .idle
      ∧ ((after .dayRollover (indebted .idle 250 [.day])).bed 0).need = 250
      ∧ ((after .dayRollover (indebted .idle 249 [.day])).bed 0).state = .idle := by
  unfold Settled; decide +kernel

theorem meets_RainSkyAndStaleRecord :
    ({ s0 with pw.lastSky := some 280000 } : State).pw.lastSky = some 280000
      ∧ 280000 + 60 * 12000 ≤ (after .rainTip { s0 with pw.rainLevel := true }).now
      ∧ s0.live = true ∧ s0.sl.setup.weatherSource = true ∧ ({ s0 with pw.rainLevel := true } : State).pw.rainLevel = true
      ∧ ({ s0 with pw.lastSky := some 990000 } : State).pw.lastSky = some 990000
      ∧ (after .rainTip { s0 with pw.rainLevel := true }).now < 990000 + 60 * 12000
      ∧ ({ s0 with pw.temperature := some 20 } : State).pw.temperature = some 20 ∧ s0.pw.lastSky = none ∧ Settled s0
      ∧ s0.pw.rainLevel = false ∧ ({ s0 with pw.skySince := some 5 } : State).pw.skySince = some 5
      ∧ s0.tq.queue.length < 6 ∧ s0.sl.station = .active ∧ s0.pw.staleNoted = false := by
  unfold Settled; decide +kernel

theorem meets_ScannerVisitsAndReadsProbes :
    Settled s0 ∧ s0.live = true ∧ s0.pw.scan = .idle ∧ s0.visits 0 = true ∧ (∀ d, d < 0 → s0.visits d = false)
      ∧ ({ s0 with pw.scan := .settle 8 5 } : State).pw.scan = .settle 8 5
      ∧ ({ s0 with pw.scan := .measure 0 5 } : State).pw.scan = .measure (0 : BedId).val 5 ∧ (s0.bed 0).state ≠ .off
      ∧ (s0.pw.probes.get 0).failed = false ∧ ¬ 4000 < (s0.setupOf 0).wet / 2 ∧ ¬ 2 * (s0.setupOf 0).dry < 48000
      ∧ boundCrossed (s0.setupOf 0).dry (s0.setupOf 0).wet (.count 3999) ≠ none
      ∧ boundCrossed (s0.setupOf 0).dry (s0.setupOf 0).wet (.count 48001) ≠ none
      ∧ boundCrossed (s0.setupOf 0).dry (s0.setupOf 0).wet .timeout ≠ none
      ∧ boundCrossed (s0.setupOf 0).dry (s0.setupOf 0).wet .overrange ≠ none ∧ (s0.pw.probes.get 0).bad < 2
      ∧ 2 ≤ (({ s0 with pw.probes := s0.pw.probes.set 0 ⟨[], false, 2, 0⟩ } : State).pw.probes.get 0).bad := by
  unfold Settled; decide +kernel

/-- Edges that end a measurement at each bound of a good read and past it, with an overrange and with a timeout; the next
channel visited, and none after the last. -/
theorem meets_ScannerVisitsAndReadsProbes_endings :
    (measurePeriods (edges 4000)).ending = .count 4000 ∧ (measurePeriods (edges 48000)).ending = .count 48000
      ∧ (measurePeriods (edges 3999)).ending = .count 3999 ∧ (measurePeriods (edges 48001)).ending = .count 48001
      ∧ (measurePeriods (edges 65535)).ending = .overrange ∧ (measurePeriods []).ending = .timeout
      ∧ s0.visits 1 = true ∧ s0.visits 8 = true := by decide +kernel

/-- Beyond channel 8 nothing is visited, and between two neighbours there is no channel. -/
theorem meets_ScannerVisitsAndReadsProbes_last :
    (∀ c, 8 < c → s0.visits c = false) ∧ ∀ d, 0 < d → d < 1 → s0.visits d = false := by
  refine ⟨fun c h => ?_, fun d h k => by omega⟩
  unfold State.visits bedOf
  rw [dif_neg (by omega)]
  simp only [Bool.and_eq_false_imp, beq_iff_eq]
  omega

/-- The clauses of the period counter: sixteen periods short of the limit, a period that reaches it, and a silence on either side
of it. -/
theorem meets_ScannerVisitsAndReadsProbes_periods :
    (∀ g ∈ List.replicate 15 4095 ++ [4109], g ≤ 50000) ∧ (List.replicate 15 4095 ++ [4109]).sum < 65535
      ∧ (List.replicate 15 4095 ++ [4109]).length = 16 ∧ [50000].length < 16 ∧ [50000].sum < 65535
      ∧ [15535].head? = some 15535 ∧ 65535 ≤ [50000].sum + 15535 ∧ [50001].head? = some 50001 ∧ 50000 < 50001
      ∧ [15534].sum + 50000 < 65535 ∧ ¬ [15535].sum + 50000 < 65535 := by decide +kernel

/-- A station without a setup visits no channel. -/
theorem meets_ScannerVisitsAndReadsProbes_none (c : Nat) : ({ s0 with sl.setup := .blank } : State).visits c = false := by
  have h : ∀ b : BedId, (Setup.blank.beds.get b).valid = false := by decide +kernel
  unfold State.visits
  split
  · next b _ => exact congrArg (fun x => x && _ && _) (h b)
  · exact Bool.and_false _

/-- Bed 0's probe has failed and has had so many good reads since. -/
def failedProbe (good : Nat) : State :=
  { s0.modBed 0 fun x => { x with probeFailed := true, wetness := none } with
    pw.probes := s0.pw.probes.set 0 ⟨[40], true, 0, good⟩, pw.scan := .measure 0 5 }

/-- Bed 0 in a state, with the run of one, as its probe is measured: after a good history, or after two bad reads. -/
def measured (st : BedState) (x : Option Run) (bad : Nat) : State :=
  { s0.modBed 0 fun y => { y with state := st, run := x } with
    vd.valves := s0.vd.valves.set 0 .opened, pw.scan := .measure 0 5, pw.probes := s0.pw.probes.set 0 ⟨[], false, bad, 0⟩ }

theorem claimSound_measured (st : BedState) (x : Option Run) (bad : Nat) : ClaimSound (measured st x bad) :=
  ⟨nofun, nofun, nofun, Nat.zero_le _, Nat.zero_le _, nofun, nofun, nofun, fun h => absurd rfl h, nofun⟩

/-- A wetness of 45, the active stop, and of 44: a cycle, a soak and a waiting run; a bed in IDLE at its start and above. -/
theorem meets_ScannerVisitsAndReadsProbes_weighed :
    let read := fun (st : BedState) (x : Option Run) (c : Nat) =>
      let y := (after (.probeMeasurementEnd (edges c)) (measured st x 0)).bed 0
      (y.wetness, y.state, y.run)
    (s0.setupOf 0).mode = .probe ∧ (s0.bed 0).probeFailed = false ∧ (s0.bed 0).stop = 45 ∧ (s0.bed 0).skip = false
      ∧ read .running (some aRun) 16800 = (some 45, .closing, some { aRun with endCause := some .wet })
      ∧ read .confirming (some aRun) 16960 = (some 44, .confirming, some aRun)
      ∧ read .soaking (some aRun) 16800 = (some 45, .idle, none) ∧ read .soaking (some aRun) 16960 = (some 44, .soaking, some aRun)
      ∧ read .waiting (some aRun) 16800 = (some 45, .idle, none) ∧ read .opening (some aRun) 16800 = (some 45, .opening, some aRun)
      ∧ (read .idle none 18880).2 = (.claiming, none) ∧ (read .idle none 18720).2 = (.idle, none)
      ∧ (read .waiting none 18720).2 = (.idle, none) ∧ (read .claiming none 18720).2 = (.claiming, none) := by decide +kernel

/-- The third bad read: of a bed with a debt at the threshold, in a cycle, and at area 0. -/
theorem meets_ScannerVisitsAndReadsProbes_failed :
    let fails := fun (st : BedState) (x : Option Run) (area : Nat) =>
      let s := (measured st x 2).modBed 0 fun y => { y with debt := 250 }
      (after (.probeMeasurementEnd []) { s with sl.setup.beds := aSetup.beds.set 0 { aBed with area := area } }).bed 0
    (fails .idle none 12).need = 250 ∧ (fails .idle none 0).state = .faulted ∧ (fails .waiting none 0).fault = some .probe
      ∧ (fails .running (some aRun) 0).state = .running ∧ (fails .waiting (some aRun) 0).run = some aRun := by decide +kernel

/-- The temperature channel is measured, failed or not, with so many bad and good reads in a row. -/
def thermometer (failed : Bool) (bad good : Nat) (t : Option Int) : State :=
  { s0 with pw.tempFailed := failed, pw.tempBad := bad, pw.tempGood := good, pw.temperature := t, pw.scan := .measure 8 5 }

theorem meets_ScannerVisitsAndReadsProbes_recovery :
    Settled (failedProbe 1) ∧ (failedProbe 1).live = true ∧ (failedProbe 1).pw.scan = .measure (0 : BedId).val 5
      ∧ ((failedProbe 1).pw.probes.get 0).failed = true ∧ ((failedProbe 1).pw.probes.get 0).good < 2
      ∧ 2 ≤ ((failedProbe 2).pw.probes.get 0).good
      ∧ (after (.probeMeasurementEnd (edges 16000)) (failedProbe 2)).bed 0
          = { (failedProbe 2).bed 0 with probeFailed := false, wetness := some 45 } := by
  unfold Settled; decide +kernel

theorem meets_ScannerVisitsAndReadsProbes_temperature :
    Settled (thermometer false 2 0 none) ∧ (thermometer false 2 0 none).live = true
      ∧ (thermometer false 2 0 none).pw.scan = .measure 8 5 ∧ s0.sl.setup.c0 ≠ s0.sl.setup.c40
      ∧ (thermometer true 0 1 none).pw.tempGood < 2 ∧ 2 ≤ (thermometer true 0 2 none).pw.tempGood
      ∧ (thermometer false 1 0 none).pw.tempBad < 2 ∧ 2 ≤ (thermometer false 2 0 none).pw.tempBad
      ∧ (thermometer false 0 0 (some 44)).pw.temperature ≠ none ∧ (thermometer false 0 0 none).pw.temperature = none
      ∧ s0.sl.station.admits (.sky aSky) = true ∧ s0.tq.queue.length < 6
      ∧ (after (.probeMeasurementEnd (edges 15562)) (thermometer true 0 2 none)).pw.temperature = some 44 := by
  unfold Settled; decide +kernel

/-- The generator drives this request. -/
def pulsing (r : Request) (s : State) : State := { s with vd.generator := .pulse r false 990000 }

theorem meets_PulsesMoveTheirValve :
    Settled (pulsing ⟨0, .opens⟩ (inRun .opening aRun)) ∧ (pulsing ⟨0, .opens⟩ (inRun .opening aRun)).live = true
      ∧ (pulsing ⟨0, .opens⟩ (inRun .opening aRun)).vd.check ≠ .closure
      ∧ (pulsing ⟨0, .opens⟩ (inRun .opening aRun)).vd.generator = .pulse ⟨0, .opens⟩ false 990000
      ∧ ((pulsing ⟨0, .opens⟩ (inRun .opening aRun)).bed 0).state = .opening
      ∧ (pulsing ⟨0, .opens⟩ (inRun .opening aRun)).queued 0 = false
      ∧ (pulsing ⟨0, .closes⟩ s0).vd.generator = .pulse ⟨0, .closes⟩ false 990000 ∧ (s0.bed 0).state ≠ .closing
      ∧ ({ s0 with vd.generator := .recovery 5 } : State).vd.generator = .recovery 5
      ∧ ({ s0 with vd.closures := [1] } : State).vd.closures = 1 :: [] ∧ s0.vd.closures = [] ∧ s0.vd.supply = .good
      ∧ ({ s0 with vd.queue := [⟨1, .opens⟩] } : State).vd.queue = ⟨1, .opens⟩ :: [] ∧ s0.vd.queue = []
      ∧ ({ s0 with vd.supply := .lost } : State).vd.supply ≠ .good := by
  unfold Settled; decide +kernel

/-- Bed 0 closes. -/
theorem meets_PulsesMoveTheirValve_close :
    let s := pulsing ⟨0, .closes⟩ (inRun .closing { aRun with endCause := some .wet })
    Settled s ∧ s.live = true ∧ s.vd.check ≠ .closure ∧ (s.bed 0).state = .closing ∧ s.sl.station ≠ .unconfigured
      ∧ s.sb.claim.phase = .none := by
  unfold Settled; decide +kernel

/-- In CHECKING, its close is the last of the start-up closure, or bed 1's still waits. -/
theorem meets_PulsesMoveTheirValve_closure :
    let s := pulsing ⟨0, .closes⟩ (checking .closure)
    Settled s ∧ s.sl.station = .checking ∧ s.vd.check = .closure ∧ (s.bed 0).state ≠ .closing ∧ s.latching 0 = true
      ∧ s.sb.claim.phase = .none ∧ s.queued 0 = false
      ∧ (∀ d, d ≠ 0 → s.latching d = true → s.valve d ≠ .unknown ∧ s.queued d = false) ∧ s.tq.queue.length < 6
      ∧ s.latching 1 = true ∧ ({ s with vd.queue := [⟨1, .closes⟩] } : State).queued 1 = true := by
  unfold Settled; decide +kernel

/-- Bed 2's held valve is pulled in. -/
def pulledIn : State :=
  { s0.modBed 2 fun b => { b with state := .opening, run := some aRun } with
    vd.channelA := some ⟨2, .pullIn 990000 false, none, none⟩, vd.valves := s0.vd.valves.set 2 .opening }

theorem meets_HeldValvesPullInAndHold :
    Settled pulledIn ∧ pulledIn.live = true ∧ pulledIn.channelOf 2 = some ⟨2, .pullIn 990000 false, none, none⟩
      ∧ (pulledIn.bed 2).state = .opening ∧ 0 < 1 ∧ dutyAt 50 1 = 100 ∧ dutyAt 20 65535 = 20 ∧ dutyAt 50 220 < 100
      ∧ 20 < dutyAt 50 220 := by
  unfold Settled; decide +kernel

/-- Bed `b` closes for a cause. -/
def closingFor (b : BedId) (c : EndCause) (cycle : Nat) : State :=
  s0.modBed b fun x => { x with state := .closing, run := some { aRun with endCause := some c, cycle := cycle } }

theorem meets_ClosedBedGoesWhereItsCauseSays :
    [EndCause.needMet, .wet, .cap, .cycleDone, .hold, .line, .overdraw, .shed, .supply, .skip, .barred, .leak, .noflow].all
      (fun c => [0, 1].all fun b =>
        let s := closingFor b c 11
        decide ((s.bed b).state = .closing) && decide ((s.bed b).run = some { aRun with endCause := some c, cycle := 11 })
          && decide ((s.bed b).targets = none) && !s.brokenProbe b && decide (s.runClock - aRun.startMinute < 1440)
          && decide (s.sl.station = .active)) = true
      ∧ 0 < (s0.setupOf 0).soak ∧ (s0.setupOf 1).soak = 0 ∧ 11 < 12 ∧ aRun.keptOrder = none
      ∧ ({ closingFor 0 .wet 1 with now := 1439 * 720000 + 719999 } : State).runClock - aRun.startMinute = 1439 := by
  decide +kernel

theorem meets_FlowEdgesCountAndTime :
    Settled s0 ∧ s0.live = true ∧ 0 < s0.sl.setup.pulsesPerLitre ∧ s0.fm.level = s0.sl.setup.fallingEdge
      ∧ ({ s0 with fm.edge := .running (1000000 - 65534 * 12) } : State).fm.edge = .running (1000000 - 65534 * 12)
      ∧ (max s0.now (s0.fm.levelSince + 2 * 12) - (1000000 - 65534 * 12)) / 12 < 65535 ∧ s0.fm.edge = .stopped 0
      ∧ ({ s0 with fm.level := true } : State).fm.level ≠ s0.sl.setup.fallingEdge := by
  unfold Settled; decide +kernel

theorem meets_RateWindowCreditsItsVolume :
    BedsSound s0 ∧ s0.live = true ∧ 0 < s0.sl.setup.pulsesPerLitre ∧ (inRun .running aRun).creditedBeds = [0]
      ∧ (inRun .confirming aRun).creditedBeds = [0] ∧ s0.creditedBeds = [] ∧ 0 < 1 := by
  unfold BedsSound; decide +kernel

/-- Bed 0 runs with its valve OPEN, so much delivered in its run and cycle, so much today, and a debt. -/
def nearEnd (delivered cycle today : Nat) (ordered : Bool) : State :=
  runningOpen.modBed 0 fun x => { x with
    delivered := today, debt := 7, ordered := ordered
    run := some { aRun with delivered := delivered, cycleDelivered := cycle } }

/-- A credit of 1.0 L that meets the need, fills the day's cap, or ends the cycle, each at its limit and one step short of it; an
ordered bed over the cap; no credit at all. -/
theorem meets_RateWindowCreditsItsVolume_ends :
    let ends := fun s : State => (((after .rateWindowEnd { s with fm.pulses := 20 }).bed 0).run.bind Run.endCause)
    ends (nearEnd 230 0 0 false) = some .needMet ∧ ends (nearEnd 229 0 0 false) = none
      ∧ ends (nearEnd 0 0 590 false) = some .cap ∧ ends (nearEnd 0 0 589 false) = none ∧ ends (nearEnd 0 0 590 true) = none
      ∧ ends (nearEnd 0 110 0 false) = some .cycleDone ∧ ends (nearEnd 0 109 0 false) = none
      ∧ ((after .rateWindowEnd { nearEnd 0 0 0 false with fm.pulses := 20 }).bed 0).debt = 0
      ∧ ((after .rateWindowEnd { nearEnd 0 0 0 false with fm.pulses := 1 }).bed 0).debt = 7
      ∧ (after .rateWindowEnd { nearEnd 230 0 0 false with fm.pulses := 20 }).valve 0 = .closing
      ∧ (let s := (heldIn .opened (some ⟨2, .hold, none, none⟩)).modBed 2 fun x => { x with state := .running, delivered := 590 }
        s.creditedBeds = [2] ∧ (after .rateWindowEnd { s with fm.pulses := 20 }).valve 2 = .closed) := by decide +kernel

theorem claimSound_nearEnd : ClaimSound (nearEnd 230 0 0 false) := by constructor <;> decide +kernel

/-- A window of so many pulses that ends now, all still for 10 s, each check at a count, in DRAWING or not. -/
def windowEnd (s : State) (p n : Nat) (drawing : Bool) : State :=
  { s with
    now := 1060000, fm.windowSince := 1000000, fm.lastTransient := 940000, fm.pulses := p, fm.leakRun := n, fm.noflowRun := n
    fm.stuckRun := n, fm.drawing := drawing, fm.quiet := n }

/-- At each bound, and just inside: LEAK from 15 pulses on with 6.0 L/min expected, NOFLOW below 5, STUCK from 2 on, a draw
from 1 on; beds RUNNING or none; the draw entry in the book, a free place, or none. -/
theorem meets_RateWindowCreditsItsVolume_checks :
    Settled (windowEnd runningOpen 15 2 false) ∧ (windowEnd runningOpen 15 2 false).live = true
      ∧ (∀ p ∈ [(15, true), (14, false)], decide ((5 * 12 + 8) * 20 < 96 * p.1) = p.2)
      ∧ (∀ p ∈ [(4, true), (5, false)], decide (48 * p.1 < 12 * 20) = p.2)
      ∧ (∀ p ∈ [(2, true), (1, false)], decide (20 ≤ 12 * p.1) = p.2) ∧ 20 ≤ 24 * 1 ∧ 24 * 0 < 20
      ∧ (after .rateWindowEnd (windowEnd runningOpen 15 2 false)).fm.leakRun = 0
      ∧ ((after .rateWindowEnd (windowEnd runningOpen 15 2 false)).latch .leak).pending = true
      ∧ (after .rateWindowEnd (windowEnd runningOpen 15 1 false)).fm.leakRun = 2
      ∧ (after .rateWindowEnd (windowEnd runningOpen 14 2 false)).fm.leakRun = 0
      ∧ ((after .rateWindowEnd (windowEnd runningOpen 14 2 false)).latch .leak).pending = false
      ∧ ((after .rateWindowEnd (windowEnd runningOpen 4 2 false)).latch .noflow).pending = true
      ∧ ((after .rateWindowEnd (windowEnd runningOpen 5 2 false)).latch .noflow).pending = false
      ∧ (after .rateWindowEnd (windowEnd s0 2 2 false)).ownEntry 8 = some ⟨4, 8, 3, .normal, true, 0, 1060000⟩
      ∧ (after .rateWindowEnd (windowEnd s0 1 2 false)).ownEntry 8 = none
      ∧ (after .rateWindowEnd (windowEnd { s0 with sb.book := [plain 4 8 3 true] } 1 2 true)).ownEntry 8
          = some { plain 4 8 3 true with flow := 2 }
      ∧ (after .rateWindowEnd (windowEnd { s0 with sb.book := [plain 4 8 3 true] } 0 2 true)).tq.queue
          = [⟨.free 8, 0, false⟩]
      ∧ (windowEnd { s0 with sb.book := fullBook } 2 2 false).sb.book.length = 32 := by
  unfold Settled; decide +kernel

theorem claimSound_windowEnd : ClaimSound (windowEnd runningOpen 15 2 false) := by constructor <;> decide +kernel

theorem meets_RateWindowCreditsItsVolume_unmetered :
    let s := { inRun .running aRun with sl.setup.pulsesPerLitre := 0, fm.bedCarry := s0.fm.bedCarry.set 0 11 }
    s.sl.setup.pulsesPerLitre = 0 ∧ 0 ∈ s.creditedBeds ∧ (after .rateWindowEnd s).fm.bedCarry.get 0 = 11
      ∧ ((after .rateWindowEnd s).bed 0).delivered = 5 ∧ (s.bed 1).state.credited = false := by decide +kernel

/-- Bed `b` in CONFIRMING since this moment. -/
def confirming (b : BedId) : State :=
  { s0.modBed b fun x => { x with state := .confirming, run := some aRun } with
    fm.confirms := s0.fm.confirms.set b (some 990000) }

theorem meets_ConfirmTimersDecide :
    Settled (confirming 0) ∧ (confirming 0).live = true ∧ (confirming 0).fm.confirms.get 0 = some 990000
      ∧ ((confirming 0).bed 0).state = .confirming
      ∧ settleConfirm ((confirming 0).setupOf 0).confirm (confirming 0).metered = some 60000
      ∧ (confirming 1).fm.confirms.get 1 = some 990000 ∧ ((confirming 1).bed 1).state = .confirming
      ∧ (confirming 1).flowMode 1 = true := by
  unfold Settled; decide +kernel

/-- Bed 1, under FLOW_ONLY, since a moment before or at the end of the window before this one. -/
def flowConfirming (since : Nat) (p q : Nat) : State :=
  { s0.modBed 1 fun x => { x with state := .confirming, run := some aRun } with
    fm.confirms := s0.fm.confirms.set 1 (some since), fm.windowSince := 990000, fm.lastWindow := some (q, 990000)
    fm.pulses := p }

theorem meets_ConfirmTimersDecide_flow :
    Settled (flowConfirming 989999 20 22) ∧ (flowConfirming 989999 20 22).creditedBeds = [1]
      ∧ ((flowConfirming 989999 20 22).bed 1).run = some aRun ∧ (flowConfirming 989999 20 22).fm.drawing = false
      ∧ ((flowConfirming 989999 20 22).bed 1).delivered + 10 < 10 * aBed.cap ∧ aRun.delivered + 10 < aRun.need
      ∧ aRun.cycleDelivered + 10 < 10 * aBed.cycle
      ∧ ((after .rateWindowEnd (flowConfirming 989999 20 22)).bed 1).state = .running
      ∧ ((after .rateWindowEnd (flowConfirming 989999 20 23)).bed 1).state = .confirming
      ∧ ((after .rateWindowEnd (flowConfirming 990000 20 22)).bed 1).state = .confirming
      ∧ ((after .rateWindowEnd (flowConfirming 989999 0 0)).bed 1).state = .confirming := by
  unfold Settled; decide +kernel

theorem meets_ProbeUrgencyFollowsTheWetness :
    [(15, Urgency.severe), (16, .dry), (20, .dry), (21, .normal), (32, .normal)].all (fun p =>
      decide (probeNeed aBed (idleBed none) 1 600 p.1 = some ((45 - p.1) * 20, p.2))) = true
      ∧ probeNeed aBed (idleBed none) 1 600 33 = none := by decide +kernel

theorem meets_NeedsFollowWetnessAndDebt :
    0 < (idleBed none).stop ∧ 33 > min ((idleBed none).start + 2 * 1) ((idleBed none).stop - 1)
      ∧ 32 ≤ min ((idleBed none).start + 2 * 1) ((idleBed none).stop - 1) ∧ min ((45 - 32) * 20) 0 = 0
      ∧ 0 < min ((45 - 32) * 20) 1 ∧ 249 < 10 * 25 ∧ 10 * 25 ≤ 250 ∧ 250 < 20 * 25 ∧ 499 < 20 * 25 ∧ 20 * 25 ≤ 500
      ∧ 0 < min 250 1 ∧ min 250 0 = 0 := by decide +kernel

theorem meets_OverdrawFindsTheFirstOverEntry :
    overEntries 20 0 [plain 1 0 12 true, plain 2 0 99 false, plain 3 0 8 true] = []
      ∧ (let e := plain 3 0 9 true
        let before := [plain 1 0 12 true, plain 2 0 99 false]
        e.committed = true ∧ ((before.filter (·.committed)).map (·.flow)).sum ≤ 20
          ∧ 20 < ((before.filter (·.committed)).map (·.flow)).sum + e.flow
          ∧ overEntries 20 0 (before ++ e :: [plain 4 0 1 true, plain 5 0 1 false]) = [e, plain 4 0 1 true]) := by
  decide +kernel

/-- Own and peers' entries, a draw entry, a bed in no cycle, one still to close and one that shuts at once. -/
theorem meets_OverdrawFindsTheFirstOverEntry_cuts :
    (plain 2 0 12 true).station ≠ s0.sl.own ∧ bedOf (plain 4 8 12 true).bed = none ∧ bedOf (plain 4 0 12 true).bed = some 0
      ∧ (s0.bed 0).state.cycling = false ∧ (inCycle.bed 0).state.cycling = true
      ∧ (let s := { heldIn .opened (some ⟨2, .hold, none, none⟩) with sb.book := [plain 4 2 12 true] }
        (s.bed 2).state.cycling = true ∧ (s.setupOf 2).kind = .held ∧ s.valve 2 = .opened ∧ s.sl.station = .active
          ∧ s.brokenProbe 2 = false ∧ (s.bed 2).run = some aRun ∧ aRun.keptOrder = none ∧ (s.bed 2).targets = none
          ∧ aRun.cycle < 12 ∧ s.now < s.sl.loadingEnd + 1439 * 720000
          ∧ ((s.cutOver (plain 4 2 12 true)).bed 2).state = .waiting) := by decide +kernel

theorem meets_VictimIsTheLatestThatQualifies :
    victimOf 12 0 [plain 1 0 12 true, plain 2 7 12 true, plain 3 8 12 true, plain 4 0 11 true, plain 5 0 12 false]
        = some (plain 2 7 12 true)
      ∧ victimOf 13 0 [plain 1 0 12 true] = none := by decide +kernel

theorem meets_FramesCarryTheirCheck : (List.replicate 24 (0 : Byte)).length ≤ 24 := by decide +kernel

theorem meets_FramesReadBackToTheirCommand :
    [Instr.claimReceived 5 0 3 24 .dry 7, .tallyReceived 15 4 twoEntries, .skyReceived 1 0 aSky, .water 0 4 255 65535,
      .malformedNotice 5 0 2 [1]].all (fun i =>
      i.wf && i.frame.isSome && decide (i.route.1 ≠ 4) && (decide (i.route.2 = 0) || decide (i.route.2 = 4))) = true := by
  decide +kernel

theorem meets_LockedRecordAndPendingCausesStay :
    (s0.raise .coil 0 1 0 0 1 4).au.record = some ⟨.coil, 0, 0, 0, 1, 4, 65535⟩
      ∧ ((s0.raise .coil 0 1 0 0 1 4).latch .coil).pending = true ∧ Instr.tallyFallsDue ≠ .coldStart
      ∧ (∀ src tgt sel, Instr.clear 0 4 0 12 ≠ .clear src tgt sel 0)
      ∧ ∀ src tgt sel n, Instr.tallyFallsDue ≠ .clear src tgt sel n :=
  ⟨rfl, rfl, nofun, fun _ _ _ h => absurd (Instr.clear.inj h).2.2.2 (by decide), fun _ _ _ _ => nofun⟩

theorem meets_StationStateAndSetupChangeByTheTable : Instr.isStart .tallyFallsDue = false := rfl

theorem meets_StationStateAndSetupChangeByTheTable_start :
    Instr.tallyFallsDue ≠ .coldStart ∧ Instr.tallyFallsDue ≠ .warmStart := ⟨nofun, nofun⟩

/-- A state far from reset that meets the valves' bounds: bed 0 runs, its valve OPEN, its entry COMMITTED. -/
theorem meets_EveryStepKeepsTheValveBounds : ValvesSound { runningOpen with sb.book := [plain 4 0 12 true] } where
  bounds := by constructor <;> decide +kernel
  claim := by constructor <;> decide +kernel
  drive :=
    { requests := by decide +kernel
      opens := by decide +kernel
      pulse := fun _ _ _ h => nomatch h
      closures := by decide +kernel
      channels := fun b c h => by cases h
      apart := fun _ _ h => nomatch h
      rest := nofun }

theorem meets_DeliveredFallsAtADayBoundaryAlone :
    Instr.warmStart ≠ .coldStart ∧ Instr.warmStart ≠ .dayRollover ∧ Instr.warmStart ≠ .hourBoundary
      ∧ ∀ image f r, Instr.warmStart ≠ .setupImageRead image f r := ⟨nofun, nofun, nofun, nofun⟩

theorem meets_AttnFollowsTheLatches :
    ({ s0 with sl.rstnLow := true } : State).sl.rstnLow = true ∧ s0.sl.rstnLow = false ∧ s0.anyPending = false
      ∧ (s0.setPending .stale 15 0).anyPending = true ∧ (s0.setPending .stale 15 0).sl.rstnLow = false := by decide +kernel

end Sys2Proof.Tests
end

/-! PROOFS. The check of a frame (R4): the model's register, fed byte by byte, is the register of numbers fed bit by bit;
its two bytes close a frame low byte first, and the receiver reads them back. -/

namespace Sys2Proof.LineCheck

/-! ### The register, bit by bit -/

/-- One bit into the register as a number: the shift towards the top, and 1021h where the compared bits differ (R4). -/
def shiftIn (r : Nat) (bit : Bool) : Nat :=
  if r.testBit 15 = bit then 2 * r % 65536 else (2 * r % 65536) ^^^ 0x1021

/-- A byte's bits in the order the line carries them, least significant first (R4). -/
def lineBits (x : Byte) : List Bool := [0, 1, 2, 3, 4, 5, 6, 7].map fun i => x.getLsbD i

/-- The register as a number after the covered bytes (R4). -/
def register (covered : List Byte) : Nat := (covered.flatMap lineBits).foldl shiftIn 0xFFFF

theorem toNat_shiftLeft_one (r : Word16) : (r <<< 1).toNat = 2 * r.toNat % 65536 := by
  rw [BitVec.toNat_shiftLeft, Nat.shiftLeft_eq, Nat.mul_comm, pow_one]

theorem toNat_checkBit (r : Word16) (bit : Bool) : (checkBit r bit).toNat = shiftIn r.toNat bit := by
  have top : r.toNat.testBit 15 = r.msb := (BitVec.msb_eq_getLsbD_last r).symm
  unfold checkBit shiftIn
  rw [top]
  by_cases same : r.msb = bit
  · rw [if_pos (beq_iff_eq.mpr same), if_pos same, toNat_shiftLeft_one]
  · rw [if_neg (mt beq_iff_eq.mp same), if_neg same, BitVec.toNat_xor, toNat_shiftLeft_one]
    rfl

theorem toNat_checkByte (r : Word16) (x : Byte) : (checkByte r x).toNat = (lineBits x).foldl shiftIn r.toNat := by
  rw [checkByte, lineBits, List.foldl_map]
  exact (List.foldl_hom BitVec.toNat fun r i => (toNat_checkBit r (x.getLsbD i)).symm).symm

/-- The check is the register fed with every covered bit (R4). -/
theorem toNat_check (covered : List Byte) : (check covered).toNat = register covered := by
  rw [check, register, List.foldl_flatMap]
  exact (List.foldl_hom BitVec.toNat fun r x => (toNat_checkByte r x).symm).symm

/-! ### The check in a frame -/

theorem lowByte_eq (c : Word16) : c.extractLsb' 0 8 = byte (c.toNat % 256) := by
  apply BitVec.eq_of_toNat_eq
  simp [byte]

theorem highByte_eq (c : Word16) : c.extractLsb' 8 8 = byte (c.toNat / 256) := by
  apply BitVec.eq_of_toNat_eq
  simp [byte, Nat.shiftRight_eq_div_pow]

theorem word2_lowByte_highByte (c : Word16) : word2 (c.extractLsb' 0 8) (c.extractLsb' 8 8) = c.toNat := by
  have bound : c.toNat < 65536 := c.isLt
  simp only [word2, BitVec.extractLsb'_toNat, Nat.shiftRight_eq_div_pow]
  omega

/-- The receiver covers all but the sync byte and the last two, and compares these, low byte first, with the check. -/
theorem checkMatches_layout (sync lo hi : Byte) (body : List Byte) :
    checkMatches (sync :: (body ++ [lo, hi])) = (word2 lo hi == (check body).toNat) := by
  simp [checkMatches]

theorem checkMatches_frameBytes (src tgt kind : Nat) (p : List Byte) :
    checkMatches (frameBytes src tgt kind p) = true := by
  rw [frameBytes, checkMatches_layout, word2_lowByte_highByte, beq_self_eq_true]

theorem frameBytes_eq (src tgt kind : Nat) (p : List Byte) :
    let covered := byte kind :: byte src :: byte tgt :: byte p.length :: p
    frameBytes src tgt kind p
      = byte 0x6B :: covered ++ [byte (register covered % 256), byte (register covered / 256)] := by
  intro covered
  rw [← toNat_check, ← lowByte_eq, ← highByte_eq]
  rfl

/-- Settles O52: the register is carried from words to numbers one bit at a time, and its two bytes are the check's. -/
theorem framesCarryTheirCheck : Obligations.FramesCarryTheirCheck :=
  ⟨toNat_check, fun src tgt kind p _ => ⟨frameBytes_eq src tgt kind p, checkMatches_frameBytes src tgt kind p⟩⟩

end Sys2Proof.LineCheck

/-! PROOFS. The overdraw check (R53 to R55): the walk over the book, what a close request does to the valve, what the CLOSED
report does to its bed and to the book, and from these what a cut leaves. -/

namespace Sys2Proof.Overdraw

open Sys2Proof.Machine

/-! ### The walk (R53) -/

theorem committedSum_cons (e : Entry) (rest : List Entry) :
    committedSum (e :: rest) = (if e.committed then e.flow else 0) + committedSum rest := by
  unfold committedSum
  by_cases h : e.committed <;> simp [h]

theorem committedSum_of_none {book : List Entry} (h : ∀ e ∈ book, e.committed = false) : committedSum book = 0 := by
  have none : book.filter (·.committed) = [] := List.filter_eq_nil_iff.mpr (by simpa using h)
  rw [committedSum, none]
  rfl

/-- Where none is COMMITTED, nothing is summed. -/
theorem committedSum_le_or_none (budget : Nat) (book : List Entry) :
    (committedSum book ≤ budget ∨ ∀ e ∈ book, e.committed = false) ↔ committedSum book ≤ budget :=
  or_iff_left_of_imp fun none => committedSum_of_none none ▸ Nat.zero_le budget

section Walk

variable {budget sum : Nat} {e : Entry} {rest : List Entry}

theorem overEntries_pending (h : e.committed = false) : overEntries budget sum (e :: rest) = overEntries budget sum rest := by
  simp [overEntries, h]

theorem overEntries_fitting (h : e.committed = true) (fits : sum + e.flow ≤ budget) :
    overEntries budget sum (e :: rest) = overEntries budget (sum + e.flow) rest := by
  simp [overEntries, h, Nat.not_lt.mpr fits]

theorem overEntries_firstOver (h : e.committed = true) (exceeds : budget < sum + e.flow) :
    overEntries budget sum (e :: rest) = (e :: rest).filter (·.committed) := by
  simp [overEntries, h, exceeds]

end Walk

/-- Entries whose COMMITTED flows fit are walked past, and the running sum carries them. -/
theorem overEntries_append {budget : Nat} (before rest : List Entry) (sum : Nat) (fits : sum + committedSum before ≤ budget) :
    overEntries budget sum (before ++ rest) = overEntries budget (sum + committedSum before) rest := by
  induction before generalizing sum with
  | nil => rfl
  | cons d before ih =>
    rw [committedSum_cons] at fits ⊢
    cases h : d.committed with
    | false =>
      simp only [h, Bool.false_eq_true, if_false, Nat.zero_add] at fits ⊢
      rw [List.cons_append, overEntries_pending h, ih sum fits]
    | true =>
      simp only [h, if_true, ← Nat.add_assoc] at fits ⊢
      rw [List.cons_append, overEntries_fitting h (by omega), ih _ fits]

theorem overEntries_eq_nil_iff {budget : Nat} (book : List Entry) (sum : Nat) (start : sum ≤ budget) :
    overEntries budget sum book = [] ↔ sum + committedSum book ≤ budget := by
  induction book generalizing sum with
  | nil => exact ⟨fun _ => start, fun _ => rfl⟩
  | cons e rest ih =>
    rw [committedSum_cons]
    cases h : e.committed with
    | false => simpa [overEntries_pending h] using ih sum start
    | true =>
      by_cases exceeds : budget < sum + e.flow
      · have kept : (e :: rest).filter (·.committed) ≠ [] := by simp [h]
        rw [overEntries_firstOver h exceeds, if_pos rfl]
        exact ⟨fun none => absurd none kept, fun fits => by omega⟩
      · rw [overEntries_fitting h (by omega), ih _ (by omega), if_pos rfl, Nat.add_assoc]

/-! ### The valve drive alone changes -/

/-- `t` comes from `s` by a change of the valve drive, and of the flow monitor's moments with it (R152). -/
def DriveOnly (s t : State) : Prop := t = { s with vd := t.vd, fm := t.fm }

namespace DriveOnly

variable {s t u : State}

theorem trans (h : DriveOnly s t) (k : DriveOnly t u) : DriveOnly s u := by
  rw [DriveOnly, k, h]

theorem now (h : DriveOnly s t) : t.now = s.now := by rw [h]
theorem sl (h : DriveOnly s t) : t.sl = s.sl := by rw [h]
theorem tq (h : DriveOnly s t) : t.tq = s.tq := by rw [h]
theorem sb (h : DriveOnly s t) : t.sb = s.sb := by rw [h]
theorem bed (h : DriveOnly s t) (d : BedId) : t.bed d = s.bed d := by rw [h]; rfl

end DriveOnly

/-- The generator's start moves the pulse queue, the generator and the closure list. -/
theorem kick_rest (s : State) :
    let t := s.kick
    t = { s with vd.queue := t.vd.queue, vd.generator := t.vd.generator, vd.closures := t.vd.closures } := by
  unfold State.kick
  split
  · split
    · rfl
    · split
      · split <;> rfl
      · rfl
  · rfl
  · rfl

theorem queueRequest_rest (b : BedId) (d : Direction) (s : State) :
    let t := s.queueRequest b d
    t = { s with vd.queue := t.vd.queue, vd.generator := t.vd.generator, vd.closures := t.vd.closures } := by
  unfold State.queueRequest
  split
  · rfl
  · rw [kick_rest]

theorem driveOnly_queueRequest (b : BedId) (d : Direction) (s : State) : DriveOnly s (s.queueRequest b d) := by
  rw [queueRequest_rest]
  rfl

@[simp] theorem valve_queueRequest (b c : BedId) (d : Direction) (s : State) : (s.queueRequest b d).valve c = s.valve c := by
  rw [queueRequest_rest]
  rfl

theorem driveOnly_setValve (b : BedId) (v : ValveState) (s : State) : DriveOnly s (s.setValve b v) := rfl

@[simp] theorem valve_setValve (b : BedId) (v : ValveState) (s : State) : (s.setValve b v).valve b = v :=
  PerBed.get_set_same ..

theorem driveOnly_modChannel (b : BedId) (f : Channel → Channel) (s : State) : DriveOnly s (s.modChannel b f) := rfl

theorem driveOnly_freeChannel (b : BedId) (s : State) : DriveOnly s (s.freeChannel b) := rfl

/-! ### A close request (R130, R133, R134) -/

/-- Whether a close request shuts at once is a matter of the valve drive and the setup. -/
theorem shutsAtOnce_congr {s t : State} (hvd : t.vd = s.vd) (hsl : t.sl = s.sl) (b : BedId) :
    t.shutsAtOnce b ↔ s.shutsAtOnce b := by
  simp only [State.shutsAtOnce, State.valve, State.setupOf, State.queued, State.pulsing, State.channelOf, hvd, hsl]

/-- A held valve in OPENING that is not in pull-in gives its channel up and is CLOSED (R134). -/
theorem closeHeldOpening_released {b : BedId} {s : State}
    (idle : ∀ c x y, s.channelOf b = some c → c.phase ≠ .pullIn x y) :
    s.closeHeldOpening b = (s.freeChannel b).valveClosed b := by
  unfold State.closeHeldOpening
  split
  case h_1 since mark phase =>
    obtain ⟨c, hc, hp⟩ := Option.map_eq_some_iff.mp phase
    exact absurd hp (idle c _ _ hc)
  all_goals rfl

/-- A held valve in pull-in is marked for release at the pull-in's end (R134). -/
theorem closeHeldOpening_marked {b : BedId} {s : State} {c : Channel} {since : Nat} {mark : Bool}
    (hc : s.channelOf b = some c) (hp : c.phase = .pullIn since mark) :
    s.closeHeldOpening b = s.modChannel b fun c => { c with phase := .pullIn since true } := by
  simp [State.closeHeldOpening, hc, hp]

/-- A valve that shuts at once is CLOSED, and the bed hears of it. -/
theorem closeRequest_of_shutsAtOnce {b : BedId} {s : State} (h : s.shutsAtOnce b) :
    ∃ u, DriveOnly s u ∧ u.valve b = .closed ∧ s.closeRequest b = u.bedClosed b := by
  rcases h with shut | ⟨held, opened⟩ | ⟨latch, opening, waits, quiet⟩ | ⟨held, opening, idle⟩
  · exact ⟨s, rfl, shut, by cases kind : (s.setupOf b).kind <;> simp [State.closeRequest, kind, shut]⟩
  · exact ⟨(s.freeChannel b).setValve b .closed, rfl, valve_setValve .., by
      simp [State.closeRequest, held, opened, State.valveClosed]⟩
  · exact ⟨State.setValve b .closed { s with vd.queue := s.vd.queue.filter fun r => decide (r.bed ≠ b) }, rfl,
      valve_setValve .., by
        simp [State.closeRequest, latch, opening, State.closeOpening, waits, quiet, State.valveClosed]⟩
  · exact ⟨(s.freeChannel b).setValve b .closed, rfl, valve_setValve .., by
      simp [State.closeRequest, held, opening, closeHeldOpening_released idle, State.valveClosed]⟩

/-- Any other valve is still to close: an OPEN one is CLOSING, the rest stay as they are until their pulse or pull-in ends. -/
theorem closeRequest_of_not_shutsAtOnce {b : BedId} {s : State} (h : ¬ s.shutsAtOnce b) :
    DriveOnly s (s.closeRequest b)
      ∧ (s.closeRequest b).valve b = if s.valve b = .opened then .closing else s.valve b := by
  simp only [State.shutsAtOnce, not_or, not_and] at h
  obtain ⟨unshut, heldOpen, latchOpening, heldOpening⟩ := h
  unfold State.closeRequest
  cases kind : (s.setupOf b).kind with
  | latch =>
    cases valve : s.valve b with
    | closed => exact absurd valve unshut
    | opening =>
      have waits : (s.queued b && !s.pulsing b) = false := by
        have := latchOpening kind valve
        cases q : s.queued b <;> simp_all
      simp only [State.closeOpening, waits, Bool.false_eq_true, if_false]
      exact ⟨driveOnly_queueRequest .., by simp [valve]⟩
    | opened => exact ⟨(driveOnly_setValve ..).trans (driveOnly_queueRequest ..), by simp⟩
    | closing => exact ⟨rfl, by simp [valve]⟩
    | unknown => exact ⟨driveOnly_queueRequest .., by simp [valve]⟩
  | held =>
    cases valve : s.valve b with
    | closed => exact absurd valve unshut
    | opening =>
      have pulls := heldOpening kind valve
      push Not at pulls
      obtain ⟨c, since, mark, hc, hp⟩ := pulls
      simp only [closeHeldOpening_marked hc hp]
      exact ⟨driveOnly_modChannel .., valve⟩
    | opened => exact absurd valve (heldOpen kind)
    | closing => exact ⟨rfl, by simp [valve]⟩
    | unknown => exact ⟨rfl, by simp [valve]⟩

/-! ### One bed at rest changes, with the book and the queue -/

/-- `t` comes from `s` by inner operations of bed `b` that leave the valve drive and every other bed alone, and that bring
the bed into no cycle. -/
structure OnlyBed (b : BedId) (s t : State) : Prop extends Inside s t where
  vd : t.vd = s.vd
  others : ∀ d, d ≠ b → t.bed d = s.bed d
  rests : (s.bed b).state.cycling = false → (t.bed b).state.cycling = false

variable {b : BedId} {s t u : State}

theorem OnlyBed.refl (b : BedId) (s : State) : OnlyBed b s s := ⟨.refl s, rfl, fun _ _ => rfl, id⟩

theorem OnlyBed.trans (h : OnlyBed b s t) (k : OnlyBed b t u) : OnlyBed b s u where
  toInside := h.toInside.trans k.toInside
  vd := k.vd.trans h.vd
  others d hd := (k.others d hd).trans (h.others d hd)
  rests e := k.rests (h.rests e)

/-- An inner operation that leaves drive and beds alone. -/
theorem onlyBed_of_beds (h : Inside s t) (hvd : t.vd = s.vd) (hbeds : t.bc.beds = s.bc.beds) : OnlyBed b s t :=
  have same : ∀ d, t.bed d = s.bed d := fun d => congrArg (fun p => PerBed.get p d) hbeds
  ⟨h, hvd, fun d _ => same d, fun e => by rw [same b, e]⟩

theorem onlyBed_modBed (b : BedId) (f : Bed → Bed) (s : State) (hc : (f (s.bed b)).core = (s.bed b).core)
    (ha : (f (s.bed b)).waitAge ≤ (s.bed b).waitAge) (hst : (f (s.bed b)).state = (s.bed b).state) :
    OnlyBed b s (s.modBed b f) where
  toInside := inside_modBed b f s hc ha
  vd := rfl
  others d hd := by rw [State.bed_modBed, if_neg hd]
  rests e := by rw [State.bed_modBed_same, hst, e]

theorem bed_moveBed (b d : BedId) (st : BedState) (s : State) :
    (s.moveBed b st).bed d
      = if d = b then { s.bed b with state := st, backoffEnd := none, soakSince := none } else s.bed d :=
  State.bed_modBed b d (fun x => { x with state := st, backoffEnd := none, soakSince := none }) s

theorem onlyBed_moveBed {st : BedState} (hst : st.cycling = false) (b : BedId) (s : State) : OnlyBed b s (s.moveBed b st) where
  toInside := inside_moveBed ..
  vd := rfl
  others d hd := by rw [bed_moveBed, if_neg hd]
  rests _ := by rw [bed_moveBed, if_pos rfl]; exact hst

theorem onlyBed_setFaulted (b : BedId) (f : BedFault) (s : State) : OnlyBed b s (s.setFaulted b f) :=
  (onlyBed_moveBed rfl ..).trans (onlyBed_modBed _ _ _ rfl le_rfl rfl)

theorem onlyBed_setIdle (b : BedId) (s : State) : OnlyBed b s (s.setIdle b) := by
  unfold State.setIdle
  split
  · exact onlyBed_setFaulted ..
  · exact (onlyBed_moveBed rfl ..).trans (onlyBed_modBed _ _ _ rfl (Nat.zero_le _) rfl)

theorem onlyBed_noteOccasion (b : BedId) (s : State) : OnlyBed b s s.noteOccasion :=
  onlyBed_of_beds (inside_noteOccasion s) rfl rfl

theorem noteOccasion_bed (d : BedId) (s : State) : s.noteOccasion.bed d = s.bed d := rfl

/-- What an entry to WAITING makes of the bed (R97, R98). -/
theorem bed_setWaiting (b : BedId) (d : Nat) (s : State) :
    (s.setWaiting b d).bed b = { s.bed b with
      state := .waiting
      soakSince := none
      backoffEnd := if d = 0 then none else some (s.now + d)
      waitAge := if (s.bed b).state = .idle then 0 else (s.bed b).waitAge
      ageSince := if (s.bed b).state = .idle then some s.now else (s.bed b).ageSince } := by
  simp only [State.setWaiting, noteOccasion_bed, State.bed_modBed_same, bed_moveBed, if_true, decide_eq_true_eq]

theorem setWaiting_tq (b : BedId) (d : Nat) (s : State) : (s.setWaiting b d).tq = s.tq := rfl

theorem onlyBed_setWaiting (b : BedId) (d : Nat) (s : State) : OnlyBed b s (s.setWaiting b d) := by
  refine ((onlyBed_moveBed rfl ..).trans (onlyBed_modBed _ _ _ rfl ?_ rfl)).trans (onlyBed_noteOccasion _ _)
  dsimp only
  split <;> simp

theorem onlyBed_setUrgency (b : BedId) (r : Urgency) (s : State) : OnlyBed b s (s.setUrgency b r) := by
  have h := onlyBed_modBed b (fun x => { x with urgency := r }) s rfl le_rfl rfl
  unfold State.setUrgency
  dsimp only
  split
  · exact .refl ..
  · split
    · exact h.trans (onlyBed_noteOccasion ..)
    · refine h.trans ((onlyBed_of_beds (inside_claim { s.sb.claim with urgency := r } _) rfl rfl).trans ?_)
      split
      · exact onlyBed_of_beds (inside_updateOwn b.val (fun e => { e with urgency := r }) (fun _ => ⟨rfl, rfl⟩) _) rfl rfl
      · exact .refl ..
    · exact h

theorem onlyBed_takeUrgency (b : BedId) (r : Option (Nat × Urgency)) (s : State) : OnlyBed b s (s.takeUrgency b r) := by
  unfold State.takeUrgency
  split
  · exact onlyBed_setUrgency ..
  · split
    · exact onlyBed_setUrgency ..
    · exact .refl ..

theorem onlyBed_takeNeed (b : BedId) (r : Option (Nat × Urgency)) (s : State) : OnlyBed b s (s.takeNeed b r) := by
  unfold State.takeNeed
  split
  · split
    · exact .refl ..
    · exact onlyBed_modBed _ _ _ rfl le_rfl rfl
  · exact .refl ..

theorem onlyBed_evaluate (b : BedId) (fresh : Bool) (s : State) : OnlyBed b s (s.evaluate b fresh) := by
  unfold State.evaluate
  dsimp only
  split
  · exact .refl ..
  · split
    · split
      · exact onlyBed_setFaulted ..
      · split
        · exact (onlyBed_setWaiting ..).trans (onlyBed_modBed _ _ _ rfl le_rfl rfl)
        · exact .refl ..
    · split
      · exact onlyBed_setIdle ..
      · split
        · exact onlyBed_setIdle ..
        · split
          · exact onlyBed_takeUrgency ..
          · exact (onlyBed_takeNeed ..).trans (onlyBed_takeUrgency ..)
    · split
      · exact onlyBed_takeUrgency ..
      · exact (onlyBed_takeNeed ..).trans (onlyBed_takeUrgency ..)
    · exact .refl ..

theorem onlyBed_bringTargets (b : BedId) (s : State) : OnlyBed b s (s.bringTargets b) := by
  unfold State.bringTargets
  rcases (s.bed b).targets with _ | ⟨start, stop⟩
  · exact .refl ..
  · have h := onlyBed_modBed b (fun x => { x with start := start, stop := stop, targets := none }) s rfl le_rfl rfl
    dsimp only
    split
    · exact h.trans (onlyBed_evaluate ..)
    · exact h

theorem onlyBed_toIdle (b : BedId) (s : State) : OnlyBed b s (s.toIdle b) :=
  (onlyBed_setIdle ..).trans (onlyBed_bringTargets ..)

theorem onlyBed_enterAfter (b : BedId) (a : After) (s : State) : OnlyBed b s (s.enterAfter b a) := by
  cases a with
  | soak =>
    exact (onlyBed_moveBed (st := .soaking) rfl b s).trans
      (onlyBed_modBed b (fun x => { x with soakSince := some s.now }) _ rfl le_rfl rfl)
  | wait d => exact (onlyBed_setWaiting ..).trans (onlyBed_bringTargets ..)
  | idle => exact onlyBed_toIdle ..
  | fault f => exact (onlyBed_setFaulted ..).trans (onlyBed_bringTargets ..)

theorem onlyBed_applyWater (b : BedId) (n : Nat) (s : State) : OnlyBed b s (s.applyWater b n) := by
  unfold State.applyWater
  refine (onlyBed_modBed b (fun x => { x with ordered := true, skip := false }) s rfl le_rfl rfl).trans ?_
  dsimp only
  split
  · exact (onlyBed_modBed _ _ _ rfl le_rfl rfl).trans (onlyBed_setUrgency ..)
  · split
    · exact (onlyBed_setWaiting ..).trans (onlyBed_modBed _ _ _ rfl le_rfl rfl)
    · exact (onlyBed_modBed _ _ _ rfl le_rfl rfl).trans (onlyBed_setUrgency ..)

theorem onlyBed_applyKept (b : BedId) (k : Option Nat) (s : State) : OnlyBed b s (s.applyKept b k) := by
  unfold State.applyKept
  split
  · exact .refl ..
  · split
    · exact onlyBed_of_beds (inside_noteRefusal ..) rfl rfl
    · split
      · exact .refl ..
      · exact (onlyBed_modBed _ _ _ rfl le_rfl rfl).trans (onlyBed_applyWater ..)

/-! ### The close reaches the supply book (R56) -/

theorem offer_rest (n : Notice) (s : State) : s.offer n = { s with tq := (s.offer n).tq, au := (s.offer n).au } := by
  unfold State.offer
  split
  · rfl
  · split
    · rw [State.setPending_rest]
    · rfl

theorem remove_rest (st bd : Nat) (s : State) : s.remove st bd = { s with sb := (s.remove st bd).sb } := by
  unfold State.remove
  split <;> rfl

theorem hasEntry_remove (st bd : Nat) (s : State) : (s.remove st bd).hasEntry st bd = false := by
  unfold State.remove
  split
  case isTrue => simp [State.hasEntry, removeEntry]
  case isFalse h => exact Bool.eq_false_iff.mpr h

theorem freeBed_rest (b : BedId) (s : State) :
    s.freeBed b = { s with tq := (s.freeBed b).tq, sb := (s.freeBed b).sb, au := (s.freeBed b).au } := by
  unfold State.freeBed
  rw [remove_rest, offer_rest]

@[simp] theorem freeBed_now (b : BedId) (s : State) : (s.freeBed b).now = s.now := by rw [freeBed_rest]
@[simp] theorem freeBed_sl (b : BedId) (s : State) : (s.freeBed b).sl = s.sl := by rw [freeBed_rest]
@[simp] theorem freeBed_bed (b d : BedId) (s : State) : (s.freeBed b).bed d = s.bed d := by rw [freeBed_rest]; rfl

theorem freeBed_queue (b : BedId) {s : State} (active : s.sl.station = .active) :
    (s.freeBed b).tq.queue = s.tq.queue ++ [⟨.free b.val, 0, false⟩] := by
  have admitted : s.admits (.free b.val) = true := by simp [State.admits, active, StationState.admits, Notice.essential]
  rw [State.freeBed, remove_rest, State.offer, if_pos admitted]

theorem hasEntry_freeBed (b : BedId) (s : State) : (s.freeBed b).hasEntry s.sl.own b.val = false := hasEntry_remove ..

theorem onlyBed_freeBed (b : BedId) (s : State) : OnlyBed b s (s.freeBed b) :=
  onlyBed_of_beds (inside_freeBed b s) (by rw [freeBed_rest]) (by rw [freeBed_rest])

theorem hasEntry_eq_false_iff (st bd : Nat) (s : State) : s.hasEntry st bd = false ↔ (st, bd) ∉ names s.sb.book := by
  simp [State.hasEntry, names, Entry.named]

/-- Inner operations bring no entry into the book. -/
theorem hasEntry_of_inside {st bd : Nat} (h : Inside s t) (gone : s.hasEntry st bd = false) : t.hasEntry st bd = false := by
  rw [hasEntry_eq_false_iff] at gone ⊢
  exact fun here => gone (h.names.subset here)

/-! ### CLOSED is reported (R124, R125) -/

theorem onlyBed_freeBed_bedClosed (closing : (s.bed b).state = .closing) : OnlyBed b (s.freeBed b) (s.bedClosed b) := by
  unfold State.bedClosed
  rw [if_pos closing]
  refine (onlyBed_bringTargets ..).trans ?_
  dsimp only
  split
  · exact (onlyBed_enterAfter ..).trans (onlyBed_applyKept ..)
  · exact onlyBed_toIdle ..

theorem onlyBed_bedClosed (closing : (s.bed b).state = .closing) : OnlyBed b s (s.bedClosed b) :=
  (onlyBed_freeBed ..).trans (onlyBed_freeBed_bedClosed closing)

theorem hasEntry_bedClosed (closing : (s.bed b).state = .closing) : (s.bedClosed b).hasEntry s.sl.own b.val = false :=
  hasEntry_of_inside (onlyBed_freeBed_bedClosed closing).toInside (hasEntry_freeBed ..)

theorem bringTargets_none (h : (s.bed b).targets = none) : s.bringTargets b = s := by
  simp [State.bringTargets, h]

/-- On the first day after LOADING no run is a day old. -/
theorem dayOld_of_first_day (r : Run) (early : s.now < s.sl.loadingEnd + 1439 * 720000) : s.dayOld r = false := by
  have clock : s.runClock < 1440 := by
    unfold State.runClock Config.minute
    omega
  unfold State.dayOld
  exact decide_eq_false (by omega)

/-- A run that the limits let go on waits. -/
theorem limited_wait {r : Run} (d : Nat) (active : s.sl.station = .active) (cycles : r.cycle < 12)
    (young : s.dayOld r = false) : s.limited r (.wait d) = .wait d := by
  simp [State.limited, cycleLimit, active, young, Nat.not_le.mpr cycles]

/-- A run cut by the overdraw check, with nothing kept for its close, goes back to WAITING. -/
theorem bedClosed_overdraw {r : Run} (closing : (s.bed b).state = .closing) (run : (s.bed b).run = some r)
    (cause : r.endCause = some .overdraw) (kept : r.keptOrder = none) (targets : (s.bed b).targets = none)
    (active : s.sl.station = .active) (cycles : r.cycle < 12) (early : s.now < s.sl.loadingEnd + 1439 * 720000) :
    s.bedClosed b = (s.freeBed b).setWaiting b (30 * Config.second) := by
  have young : (s.freeBed b).dayOld r = false := dayOld_of_first_day r (by simpa using early)
  have waits : (s.freeBed b).limited r (.wait (30 * Config.second)) = .wait (30 * Config.second) :=
    limited_wait _ (by simpa using active) cycles young
  have still : ((s.freeBed b).setWaiting b (30 * Config.second)).bringTargets b
      = (s.freeBed b).setWaiting b (30 * Config.second) := bringTargets_none (by simp [bed_setWaiting, targets])
  unfold State.bedClosed
  rw [if_pos closing, bringTargets_none (by simpa using targets)]
  simp only [freeBed_bed, run, cause, kept, afterCause, waits, State.enterAfter, State.toWaiting, still, State.applyKept]

/-! ### What a cut leaves (R54, R113, R120) -/

/-- The bed's cycle has ended with this cause; the close request has not gone out yet. -/
def ending (b : BedId) (c : EndCause) (s : State) : State :=
  (s.moveBed b .closing).modBed b fun x =>
    { x with run := x.run.map fun r => { r with
        endCause := some c
        need := if c = .skip ∨ c = .barred then r.delivered else r.need } }

theorem cut_of_resting (c : EndCause) (resting : (s.bed b).state.cycling = false) : s.cut b c = s := by
  simp [State.cut, resting]

theorem cut_of_cycling {c : EndCause} (cycling : (s.bed b).state.cycling = true) (hc : c ≠ .supply) :
    s.cut b c = (ending b c s).closeRequest b := by
  rw [State.cut, if_pos cycling]
  exact if_neg hc

theorem bed_ending (b : BedId) (s : State) :
    (ending b .overdraw s).bed b = { s.bed b with
      state := .closing
      backoffEnd := none
      soakSince := none
      run := (s.bed b).run.map fun r => { r with endCause := some .overdraw } } := by
  simp [ending, bed_moveBed]

theorem bed_ending_of_ne {b d : BedId} (c : EndCause) (s : State) (hd : d ≠ b) : (ending b c s).bed d = s.bed d := by
  rw [ending, State.bed_modBed, if_neg hd, bed_moveBed, if_neg hd]

theorem ending_state (b : BedId) (c : EndCause) (s : State) : ((ending b c s).bed b).state = .closing := by
  simp [ending, bed_moveBed]

theorem ending_tq (b : BedId) (c : EndCause) (s : State) : (ending b c s).tq = s.tq := rfl

/-- A close request leaves other beds alone, and a bed in CLOSING in no cycle. -/
theorem closeRequest_beds (closing : (s.bed b).state = .closing) :
    ((s.closeRequest b).bed b).state.cycling = false ∧ ∀ d, d ≠ b → (s.closeRequest b).bed d = s.bed d := by
  by_cases shuts : s.shutsAtOnce b
  · obtain ⟨u, drive, -, report⟩ := closeRequest_of_shutsAtOnce shuts
    have closed := onlyBed_bedClosed (s := u) (b := b) (by rw [drive.bed, closing])
    rw [report]
    exact ⟨closed.rests (by rw [drive.bed, closing]; rfl), fun d hd => (closed.others d hd).trans (drive.bed d)⟩
  · have drive := (closeRequest_of_not_shutsAtOnce shuts).1
    exact ⟨by rw [drive.bed, closing]; rfl, fun d _ => drive.bed d⟩

theorem cut_beds {c : EndCause} (cycling : (s.bed b).state.cycling = true) (hc : c ≠ .supply) :
    ((s.cut b c).bed b).state.cycling = false ∧ ∀ d, d ≠ b → (s.cut b c).bed d = s.bed d := by
  obtain ⟨rests, others⟩ := closeRequest_beds (ending_state b c s)
  rw [cut_of_cycling cycling hc]
  exact ⟨rests, fun d hd => (others d hd).trans (bed_ending_of_ne c s hd)⟩

theorem ending_shutsAtOnce (b : BedId) (c : EndCause) (s : State) : (ending b c s).shutsAtOnce b ↔ s.shutsAtOnce b :=
  shutsAtOnce_congr rfl rfl b

/-- With a valve still to close, the cut leaves book and queue as they were and the bed CLOSING with its run. -/
theorem cut_of_not_shutsAtOnce (cycling : (s.bed b).state.cycling = true) (unshut : ¬ s.shutsAtOnce b) :
    (s.cut b .overdraw).sb.book = s.sb.book ∧ (s.cut b .overdraw).tq = s.tq
      ∧ ∀ r, (s.bed b).run = some r → CycleEnded b r .overdraw s (s.cut b .overdraw) := by
  obtain ⟨drive, valve⟩ := closeRequest_of_not_shutsAtOnce (mt (ending_shutsAtOnce b .overdraw s).mp unshut)
  rw [cut_of_cycling cycling (by decide)]
  refine ⟨congrArg (·.book) drive.sb, drive.tq, fun r run => ⟨?_, ?_, valve⟩⟩
  · rw [drive.bed, ending_state]
  · rw [drive.bed, bed_ending, run]
    rfl

/-- With a valve that shuts at once, the cut takes the own entry out of the book and the valve is CLOSED. -/
theorem cut_of_shutsAtOnce (cycling : (s.bed b).state.cycling = true) (shuts : s.shutsAtOnce b) :
    (s.cut b .overdraw).hasEntry s.sl.own b.val = false ∧ (s.cut b .overdraw).valve b = .closed := by
  obtain ⟨u, drive, shut, report⟩ := closeRequest_of_shutsAtOnce ((ending_shutsAtOnce b .overdraw s).mpr shuts)
  have closing : (u.bed b).state = .closing := by rw [drive.bed, ending_state]
  have own : u.sl.own = s.sl.own := congrArg (·.own) drive.sl
  rw [cut_of_cycling cycling (by decide), report]
  refine ⟨own ▸ hasEntry_bedClosed closing, ?_⟩
  rw [State.valve, (onlyBed_bedClosed closing).vd]
  exact shut

/-- And its run, where the limits let it go on, waits again for 30 s, with a FREE queued. -/
theorem cut_waits {r : Run} (cycling : (s.bed b).state.cycling = true) (shuts : s.shutsAtOnce b)
    (run : (s.bed b).run = some r) (kept : r.keptOrder = none) (targets : (s.bed b).targets = none)
    (active : s.sl.station = .active) (cycles : r.cycle < 12) (early : s.now < s.sl.loadingEnd + 1439 * 720000) :
    ((s.cut b .overdraw).bed b).state = .waiting
      ∧ ((s.cut b .overdraw).bed b).backoffEnd = some (s.now + 30 * 12000)
      ∧ ((s.cut b .overdraw).bed b).run = some { r with endCause := some .overdraw }
      ∧ (s.cut b .overdraw).tq.queue = s.tq.queue ++ [⟨.free b.val, 0, false⟩] := by
  obtain ⟨u, drive, -, report⟩ := closeRequest_of_shutsAtOnce ((ending_shutsAtOnce b .overdraw s).mpr shuts)
  have now : u.now = s.now := drive.now
  have sl : u.sl = s.sl := drive.sl
  have bed : u.bed b = _ := (drive.bed b).trans (bed_ending b s)
  have runEnded : (u.bed b).run = some { r with endCause := some .overdraw } := by rw [bed, run]; rfl
  have waits := bedClosed_overdraw (s := u) (by rw [bed]) runEnded rfl kept (by rw [bed]; exact targets)
    (by rw [sl, active]) cycles (by rw [now, sl]; exact early)
  rw [cut_of_cycling cycling (by decide), report, waits]
  refine ⟨?_, ?_, ?_, ?_⟩
  · rw [bed_setWaiting]
  · rw [bed_setWaiting, freeBed_now, now]
    rfl
  · rw [bed_setWaiting, freeBed_bed, runEnded]
  · rw [setWaiting_tq, freeBed_queue b (by rw [sl, active]), drive.tq, ending_tq]

/-! ### The cut of an over entry (R54) -/

theorem cutOver_of_foreign {e : Entry} (foreign : e.station ≠ s.sl.own ∨ bedOf e.bed = none) : s.cutOver e = s := by
  unfold State.cutOver
  rcases foreign with peer | draw
  · rw [if_neg peer]
  · simp [draw]

theorem cutOver_of_own {e : Entry} (own : e.station = s.sl.own) (bed : bedOf e.bed = some b) :
    s.cutOver e = s.cut b .overdraw := by
  simp [State.cutOver, own, bed]

/-- Settles O50: the walk carries the COMMITTED sum up to the first over entry; a cut is its close request, which either leaves
the valve to close or has CLOSED reported within the event. -/
theorem overdrawFindsTheFirstOverEntry : Obligations.OverdrawFindsTheFirstOverEntry := by
  intro budget book s
  refine ⟨?_, ?_, rfl, fun e foreign => cutOver_of_foreign foreign, fun e b own bed => ?_⟩
  · have walk := overEntries_eq_nil_iff book 0 (Nat.zero_le budget)
    rw [Nat.zero_add] at walk
    exact walk.trans (committedSum_le_or_none budget book).symm
  · rintro before e after rfl committed fits exceeds
    have sum : 0 + committedSum before ≤ budget := by
      rw [Nat.zero_add]
      exact (committedSum_le_or_none budget before).mp fits
    rw [overEntries_append before (e :: after) 0 sum, Nat.zero_add]
    exact overEntries_firstOver committed exceeds
  · have peers := (inside_cutOver e s).peers
    rw [cutOver_of_own own bed] at peers ⊢
    refine ⟨cut_of_resting .overdraw, fun cycling => ?_⟩
    obtain ⟨rests, others⟩ := cut_beds (c := .overdraw) cycling (by decide)
    refine ⟨rests, others, peers, cut_of_not_shutsAtOnce cycling, fun shuts => ?_⟩
    obtain ⟨gone, shut⟩ := cut_of_shutsAtOnce cycling shuts
    exact ⟨gone, shut, fun active _ r run kept targets cycles early =>
      cut_waits cycling shuts run kept targets active cycles early⟩

end Sys2Proof.Overdraw

/-! PROOFS. Every command that is no start is `Within`: the bounds stay, the waiting commands stay, time goes on, and all but
a CLEAR keep the locked record and the pending causes. From this the invariant of every step. -/

namespace Sys2Proof.EveryStep

open Sys2Proof.Machine

variable {k : Bool}

/-- The command answers a next state that stands in this relation to the state it was given. -/
def Answers (i : Instr) (R : State → State → Prop) : Prop := ∀ s, ∃ t, exec i s = .next t ∧ R s t

/-- A CLEAR, of one cause or of ALL. -/
def isClear : Instr → Bool
  | .clear .. => true
  | _ => false

/-! ### The valve drive and CHECKING -/

theorem reserveWaitTimeout_within : Answers .reserveWaitTimeout (Within k) := fun s => ⟨_, rfl, within_take _ (fun s => by
  split
  · exact within_ite (fun _ => ((within_advanceTo _ s).trans (within_supplyGoes _)).trans (within_startCoils _)) fun _ => .refl _
  · exact .refl _) s⟩

theorem coilCheck_within (ohms : Nat) : Answers (.coilCheck ohms) (Within k) := fun s => ⟨_, rfl, within_take _ (fun s =>
  within_ite (fun _ => by
    unfold State.testCoil
    split
    · extract_lets u
      have h : Within k s u := (within_advanceTo _ s).trans (within_coilResult ..)
      exact h.trans (within_ite (fun _ => within_startUpClosure _) fun _ => within_check _ _)
    all_goals exact .refl _) fun _ => .refl _) s⟩

theorem pulseEnd_within : Answers .pulseEnd (Within k) := fun s => ⟨_, rfl, within_take _ (fun s => by
  split
  · exact ((within_advanceTo _ s).trans (inside_endPulse ..).within).trans (within_checkStartUp _)
  all_goals exact .refl _) s⟩

theorem recoveryEnd_within : Answers .recoveryEnd (Within k) := fun s => ⟨_, rfl, within_take _ (fun s => by
  split
  · extract_lets u
    exact (within_advanceTo _ s).trans ((within_vd { u.vd with generator := .idle } u rfl rfl).trans (inside_kick _).within)
  all_goals exact .refl _) s⟩

theorem pullInEnd_within (b : BedId) : Answers (.pullInEnd b) (Within k) := fun s => ⟨_, rfl, within_take _ (fun s => by
  split
  · exact (within_advanceTo _ s).trans (inside_endPullIn ..).within
  all_goals exact .refl _) s⟩

theorem coilSupplyMeasurement_within (volts : Nat) : Answers (.coilSupplyMeasurement volts) (Within k) :=
  fun s => ⟨_, rfl, within_take _ (fun s =>
    ((within_advanceTo _ s).trans (within_vd { s.vd with coilVolts := volts, measureSince := _ } _ rfl rfl)).trans
      (inside_mapChannels _ _).within) s⟩

theorem supplyLoss_within : Answers .supplyLoss (Within k) := fun s => ⟨_, rfl, within_take _ (fun s =>
  within_ite (fun _ => ((within_supplyGoes s).trans
    ((((inside_cutPulse _).trans (inside_flushQueue _)).trans (inside_releaseChannels _)).trans
      (inside_reserveClosure ..)).within).trans (within_checkStartUp _)) fun _ => .refl _) s⟩

theorem supplyReturn_within : Answers .supplyReturn (Within k) := fun s => ⟨_, rfl, within_take _ (fun s =>
  within_ite (fun _ => ((within_leaveHold .supply s).trans (within_supplyComes _)).trans
    (inside_forBeds _ inside_recloseBed _).within) fun _ => .refl _) s⟩

theorem reserveReady_within : Answers .reserveReady (Within k) := fun s => ⟨_, rfl, within_take _ (fun s => by
  split
  · extract_lets u _ v
    have h : Within k s v := ((within_advanceTo _ s).trans
      (within_vd { u.vd with ready := true, chargeSince := none } u rfl rfl)).trans (inside_noteOccasion _).within
    exact h.trans (within_ite (fun _ => within_startCoils _) fun _ => .refl _)
  all_goals exact .refl _) s⟩

/-! ### The flow monitor -/

theorem flowEdge_within : Answers .flowEdge (Within k) := fun s => ⟨_, rfl, within_take _ (fun s =>
  within_ite (fun _ => by
    extract_lets u
    have h : Within k s u := (within_changeLevel s).trans (within_captureEdge _)
    exact h.trans (within_fm { u.fm with pulses := u.fm.pulses + 1 } u id)) fun _ => .refl _) s⟩

theorem edgeCounterOverflow_within : Answers .edgeCounterOverflow (Within k) := fun s => ⟨_, rfl, within_take _ (fun s => by
  split
  · extract_lets u
    exact (within_advanceTo _ s).trans (within_fm { u.fm with edge := _, lastInterval := none } u id)
  · exact .refl _) s⟩

theorem confirmTimerExpiry_within (b : BedId) : Answers (.confirmTimerExpiry b) (Within k) :=
  fun s => ⟨_, rfl, within_take _ (fun s => by
    split
    · exact (within_advanceTo _ s).trans (inside_bedConfirmed ..).within
    · exact .refl _) s⟩

theorem confirmLimit_within (b : BedId) : Answers (.confirmLimit b) (Within k) := fun s => ⟨_, rfl, within_take _ (fun s => by
  split
  · exact within_ite (fun _ => (within_advanceTo _ s).trans (inside_giveUpConfirm ..).within) fun _ => .refl _
  · exact .refl _) s⟩

/-! ### Probes and weather -/

theorem dayClockTick_within : Answers .dayClockTick (Within k) := fun s =>
  ⟨_, rfl, within_ite (fun _ => within_ite (fun _ => (within_tickClock s).trans (within_finish _)) fun _ => within_tickClock s)
    fun _ => .refl _⟩

theorem scanStart_within : Answers .scanStart (Within k) := fun s => ⟨_, rfl, within_take _ (fun s =>
  within_ite (fun _ => by
    extract_lets u
    exact ((within_advanceTo _ s).trans (within_pw { u.pw with scanDue := u.now + Config.scanTime } u id)).trans (within_visitFrom ..))
    fun _ => .refl _) s⟩

theorem probeSettleEnd_within : Answers .probeSettleEnd (Within k) := fun s => ⟨_, rfl, within_take _ (fun s => by
  split
  · extract_lets u
    exact (within_advanceTo _ s).trans (within_pw { u.pw with scan := _ } u id)
  all_goals exact .refl _) s⟩

theorem probeMeasurementEnd_within (gaps : List Nat) : Answers (.probeMeasurementEnd gaps) (Within k) :=
  fun s => ⟨_, rfl, within_take _ (fun s => by
    split
    · extract_lets m u _ v w
      have h : Within k s v := (within_advanceTo _ s).trans
        (within_pw { u.pw with counter := m.counter } u fun h => ⟨(measurePeriods_spec gaps).2.1, h.2⟩)
      have g : Within k v w := by
        show Within k v (match bedOf _ with | some b => v.readProbe b m.ending | none => v.readTemperature m.ending)
        split
        · exact within_readProbe ..
        · exact within_readTemperature ..
      exact (h.trans g).trans (within_visitFrom ..)
    all_goals exact .refl _) s⟩

theorem rainTip_within : Answers .rainTip (Within k) := fun s => ⟨_, rfl, within_take _ (fun s =>
  within_ite (fun _ => by
    extract_lets u _ v
    have h : Within k s v := (within_advanceTo _ s).trans
      (within_pw { u.pw with rainLevel := false, rainSince := _, current := _ } u
        fun h => ⟨h.1, h.2.1, h.2.2.1, min_le_right .., h.2.2.2.2⟩)
    exact within_ite (fun _ => h.trans (within_skyDue _)) fun _ => h) fun _ => .refl _) s⟩

theorem rainFilteredLevelChange_within : Answers .rainFilteredLevelChange (Within k) :=
  fun s => ⟨_, rfl, within_take _ (fun s =>
    within_ite (fun _ => by
      extract_lets u
      exact (within_advanceTo _ s).trans (within_pw { u.pw with rainLevel := true, rainSince := _ } u id)) fun _ => .refl _) s⟩

theorem skyTimerExpiry_within : Answers .skyTimerExpiry (Within k) := fun s => ⟨_, rfl, within_take _ (fun s => by
  split
  · extract_lets u
    exact ((within_advanceTo _ s).trans (within_pw { u.pw with skySince := some u.now } u id)).trans (within_skyDue _)
  · exact .refl _) s⟩

/-! ### Timers of the book, the claim and the beds -/

theorem peerExpiry_within (n : Nat) : Answers (.peerExpiry n) (Within k) := fun s => ⟨_, rfl, within_take _ (fun s => by
  split
  · exact within_ite (fun _ => .refl _) fun _ => (within_advanceTo _ s).trans (within_expire ..)
  · exact .refl _) s⟩

theorem pendingLapse_within (n d : Nat) : Answers (.pendingLapse n d) (Within k) := fun s => ⟨_, rfl, within_take _ (fun s => by
  split
  · exact within_ite (fun _ => .refl _) fun _ => (within_advanceTo _ s).trans (within_remove ..)
  · exact .refl _) s⟩

theorem resolutionTimerExpiry_within : Answers .resolutionTimerExpiry (Within k) := fun s => ⟨_, rfl, within_take _ (fun s => by
  split
  · exact (within_advanceTo _ s).trans ((inside_claim _ _).trans (inside_resolve _)).within
  · exact .refl _) s⟩

theorem victimTimerExpiry_within : Answers .victimTimerExpiry (Within k) := fun s => ⟨_, rfl, within_take _ (fun s => by
  split
  · exact (within_advanceTo _ s).trans (inside_dropClaim _).within
  · exact .refl _) s⟩

theorem courtesyDelayEnd_within (u : Urgency) : Answers (.courtesyDelayEnd u) (Within k) :=
  fun s => ⟨_, rfl, within_take _ (fun s => by
    split
    · exact within_ite (fun _ => .refl _) fun _ => (within_advanceTo _ s).trans (inside_noteOccasion _).within
    · exact .refl _) s⟩

theorem backoffEnd_within (b : BedId) : Answers (.backoffEnd b) (Within k) := fun s => ⟨_, rfl, within_take _ (fun s => by
  split
  · exact (within_advanceTo _ s).trans ((inside_modBed _ _ _ rfl le_rfl).trans (inside_noteOccasion _)).within
  · exact .refl _) s⟩

theorem waitAgeTick_within (b : BedId) : Answers (.waitAgeTick b) (Within k) := fun s => ⟨_, rfl, within_take _ (fun s => by
  split
  · exact (within_advanceTo _ s).trans (within_modBed _ _ _ fun h => ⟨(h b).1, (h b).2.1, min_le_right ..⟩)
  · exact .refl _) s⟩

theorem runDayLimit_within (b : BedId) : Answers (.runDayLimit b) (Within k) := fun s => ⟨_, rfl, within_take _ (fun s => by
  split
  · exact (within_advanceTo _ s).trans (inside_toIdle ..).within
  · exact .refl _) s⟩

theorem soakEnd_within (b : BedId) : Answers (.soakEnd b) (Within k) := fun s => ⟨_, rfl, within_take _ (fun s => by
  split
  · exact (within_advanceTo _ s).trans (inside_endSoak ..).within
  · exact .refl _) s⟩

/-! ### The line -/

theorem transmissionCompletes_within (slot : Option SlotByte) : Answers (.transmissionCompletes slot) (Within k) := fun s =>
  ⟨_, rfl, by
    show Within k s (match s.li.attempt with | some a => if s.live then (s.complete a slot).finish else s | none => s)
    split
    · exact within_ite (fun _ => (within_complete ..).trans (within_finish _)) fun _ => .refl _
    · exact .refl _⟩

theorem answerByteStart_within : Answers .answerByteStart (Within k) := fun s => ⟨_, rfl, by
  split
  · exact within_ite (fun _ => (within_advanceTo _ s).trans (within_li ..)) fun _ => .refl _
  all_goals exact .refl _⟩

theorem answerCollision_within : Answers .answerCollision (Within k) := fun s => ⟨_, rfl, by
  split
  · exact within_ite (fun _ => (within_li _ s).trans (within_countCollision _)) fun _ => .refl _
  all_goals exact .refl _⟩

theorem tallyFallsDue_within : Answers .tallyFallsDue (Within k) := fun s => ⟨_, rfl, within_take _ (fun s => by
  split
  · extract_lets u
    exact ((within_advanceTo _ s).trans (within_tq { u.tq with tallySince := some u.now } u id)).trans (within_tallyDue _)
  · exact .refl _) s⟩

/-- RSTN's return and ATTN's turn write the square wave's half alone. -/
theorem within_half (low h : Bool) (n : Nat) (s : State) :
    Within k s { s with sl.rstnLow := low, au.half := h, au.halfSince := n } where
  sound x := ⟨x.1, x.2, x.3, x.4, x.5, x.6, x.7, x.8, x.9⟩
  setup := rfl
  own := rfl
  time := le_rfl
  pending := rfl
  record _ _ h := h
  latched _ _ h := h

/-! ### Orders -/

theorem query_within (src tgt sel form : Nat) : Answers (.query src tgt sel form) (Within k) := fun s =>
  ⟨_, rfl, within_hand _ _ _ _ _ _ (fun s => by
    split
    · exact within_bedOrder _ _ _ _ _ _ (fun _ _ => (inside_offer _ rfl _).within) s
    · exact within_stationOrder _ _ _ _ _ (fun _ => (inside_offer _ rfl _).within) s) s⟩

theorem clock_within (src tgt sel m : Nat) : Answers (.clock src tgt sel m) (Within k) := fun s => by
  by_cases hm : m < 1440
  · exact ⟨_, rfl, within_hand _ _ _ _ _ _ (fun s => within_stationOrder _ _ _ _ _ (fun s => within_setClock m hm s) s) s⟩
  · have args : decide (m ≤ 1439) = false := by simpa using by omega
    refine ⟨_, rfl, within_hand _ _ _ _ _ _ (fun s => ?_) s⟩
    rw [args]
    have idle : State.stationOrder tgt sel .clock false (State.setClock m) s = State.stationOrder tgt sel .clock false id s := by
      unfold State.stationOrder State.groupOrder
      simp
    rw [idle]
    exact within_stationOrder _ _ _ _ _ (fun s => .refl s) s

/-! ### Every command -/

/-- A command that is no start keeps all that `Within` says, a CLEAR the bounds, the queue and time alone. -/
theorem answers_within (i : Instr) (h : Instr.isStart i = false) : Answers i (Within (isClear i)) := by
  cases i with
  | coldStart | warmStart | setupImageRead => exact nomatch h
  | rstnReturnsHigh => exact fun s => ⟨_, rfl, within_ite (fun _ => within_half ..) fun _ => .refl _⟩
  | reserveWaitTimeout => exact reserveWaitTimeout_within
  | coilCheck => exact coilCheck_within _
  | listeningTimerExpiry =>
    exact fun s => ⟨_, rfl, within_take _ (fun s => within_ite (fun _ => ((within_advanceTo _ s).trans
      (within_station .active _)).trans (inside_noteOccasion _).within) fun _ => .refl _) s⟩
  | frameAbandoned =>
    exact fun s => ⟨_, rfl, within_ite (fun _ => (within_li _ s).trans (within_receiveError _)) fun _ => .refl _⟩
  | discardQuietEnd =>
    exact fun s => ⟨_, rfl, within_ite (fun _ => (within_advanceTo _ s).trans (within_li ..)) fun _ => .refl _⟩
  | slotEnd =>
    exact fun s => ⟨_, rfl, within_ite (fun _ => (within_enterOwnSlot s).trans (within_endSlot _)) fun _ => .refl _⟩
  | invalidFrame =>
    exact fun s => ⟨_, rfl, within_ite (fun _ => ((within_frameOver _ s).trans (within_receiveError _)).trans (within_finish _))
      fun _ => .refl _⟩
  | malformedNotice => exact fun s => ⟨_, rfl, within_hand _ _ _ _ _ _ (fun s => .refl s) s⟩
  | duplicateNumberEvent => exact fun s => ⟨_, rfl, within_receive _ _ _ _ (fun s => .refl s) s⟩
  | unhandedFrameReceived => exact fun s => ⟨_, rfl, within_receive _ _ _ _ (fun s => .refl s) s⟩
  | tallyReceived => exact fun s => ⟨_, rfl, within_hand _ _ _ _ _ _ (fun s => within_takeTally _ _ s) s⟩
  | claimReceived => exact fun s => ⟨_, rfl, within_hand _ _ _ _ _ _ (fun s => within_takeClaim _ _ _ _ _ s) s⟩
  | commitReceived => exact fun s => ⟨_, rfl, within_hand _ _ _ _ _ _ (fun s => within_takeCommit _ _ s) s⟩
  | dropReceived => exact fun s => ⟨_, rfl, within_hand _ _ _ _ _ _ (fun s => within_remove _ _ s) s⟩
  | freeReceived => exact fun s => ⟨_, rfl, within_hand _ _ _ _ _ _ (fun s => within_takeFree _ _ s) s⟩
  | shedReceived => exact fun s => ⟨_, rfl, within_hand _ _ _ _ _ _ (fun s => within_takeShed _ _ _ s) s⟩
  | skyReceived =>
    exact fun s => ⟨_, rfl, within_hand _ _ _ _ _ _ (fun s => within_ite (fun _ => within_adopt _ _ s) fun _ => .refl _) s⟩
  | water => exact fun s => ⟨_, rfl, within_hand _ _ _ _ _ _ (fun s => within_bedOrder _ _ _ _ _ _
      (fun b s => (inside_waterBed _ b s).within) s) s⟩
  | skip => exact fun s => ⟨_, rfl, within_hand _ _ _ _ _ _ (fun s => within_bedOrder _ _ _ _ _ _
      (fun b s => (inside_skipBed b s).within) s) s⟩
  | pause => exact fun s => ⟨_, rfl, within_hand _ _ _ _ _ _ (fun s => within_stationOrder _ _ _ _ _
      (fun s => within_joinHold _ s) s) s⟩
  | resume => exact fun s => ⟨_, rfl, within_hand _ _ _ _ _ _ (fun s => within_stationOrder _ _ _ _ _
      (fun s => within_leaveHold _ s) s) s⟩
  | target => exact fun s => ⟨_, rfl, within_hand _ _ _ _ _ _ (fun s => within_bedOrder _ _ _ _ _ _
      (fun b s => (inside_targetBed _ _ b s).within) s) s⟩
  | clear => exact fun s => ⟨_, rfl, within_hand _ _ _ _ _ _ (fun s => within_stationOrder _ _ _ _ _
      (fun s => within_clearOrder _ s) s) s⟩
  | query => exact query_within _ _ _ _
  | clock => exact clock_within _ _ _ _
  | answerByteStart => exact answerByteStart_within
  | answerCollision => exact answerCollision_within
  | attemptBegin =>
    exact fun s => ⟨_, rfl, within_ite (fun _ => (within_advanceTo _ s).trans (within_beginAttempt _)) fun _ => .refl _⟩
  | yieldingClear =>
    exact fun s => ⟨_, rfl, within_ite (fun _ => (within_advanceTo _ s).trans (within_li ..)) fun _ => .refl _⟩
  | collision => exact fun s => ⟨_, rfl, within_ite (fun _ => (within_collide s).trans (within_finish _)) fun _ => .refl _⟩
  | transmissionCompletes => exact transmissionCompletes_within _
  | lineLossClosure =>
    exact fun s => ⟨_, rfl, within_take _ (fun s => within_ite (fun _ => (within_advanceTo _ s).trans
      (inside_closeLine _).within) fun _ => .refl _) s⟩
  | tallyFallsDue => exact tallyFallsDue_within
  | peerExpiry => exact peerExpiry_within _
  | pendingLapse => exact pendingLapse_within _ _
  | resolutionTimerExpiry => exact resolutionTimerExpiry_within
  | victimTimerExpiry => exact victimTimerExpiry_within
  | courtesyDelayEnd => exact courtesyDelayEnd_within _
  | backoffEnd => exact backoffEnd_within _
  | waitAgeTick => exact waitAgeTick_within _
  | dayClockTick => exact dayClockTick_within
  | hourBoundary => exact fun s => ⟨_, rfl, within_take _ within_hourBoundary s⟩
  | dayRollover => exact fun s => ⟨_, rfl, within_take _ within_dayBoundary s⟩
  | runDayLimit => exact runDayLimit_within _
  | soakEnd => exact soakEnd_within _
  | pulseEnd => exact pulseEnd_within
  | recoveryEnd => exact recoveryEnd_within
  | pullInEnd => exact pullInEnd_within _
  | coilSupplyMeasurement => exact coilSupplyMeasurement_within _
  | supplyGood =>
    exact fun s => ⟨_, rfl, within_take _ (fun s => within_ite (fun _ => within_supplyComes s) fun _ => .refl _) s⟩
  | supplyLoss => exact supplyLoss_within
  | supplyReturn => exact supplyReturn_within
  | reserveReady => exact reserveReady_within
  | flowEdge => exact flowEdge_within
  | edgeCounterOverflow => exact edgeCounterOverflow_within
  | rateWindowEnd => exact fun s => ⟨_, rfl, within_take _ (fun s => (within_advanceTo _ s).trans (within_endWindow _)) s⟩
  | confirmTimerExpiry => exact confirmTimerExpiry_within _
  | confirmLimit => exact confirmLimit_within _
  | scanStart => exact scanStart_within
  | probeSettleEnd => exact probeSettleEnd_within
  | probeMeasurementEnd => exact probeMeasurementEnd_within _
  | rainTip => exact rainTip_within
  | skyTimerExpiry => exact skyTimerExpiry_within
  | weatherRecordStale =>
    exact fun s => ⟨_, rfl, within_take _ (fun s => within_ite (fun _ => .refl _) fun _ =>
      (within_advanceTo _ s).trans (within_goStale _)) s⟩
  | attnToggle =>
    exact fun s => ⟨_, rfl, within_ite (fun _ => (within_advanceTo _ s).trans (within_half ..)) fun _ => .refl _⟩
  | frameBegins => exact fun s => ⟨_, rfl, within_ite (fun _ => within_li ..) fun _ => .refl _⟩
  | dominantLevel => exact fun s => ⟨_, rfl, within_ite (fun _ => within_li ..) fun _ => .refl _⟩
  | flowFilteredLevelChange =>
    exact fun s => ⟨_, rfl, within_take _ (fun s => within_ite (fun _ => within_changeLevel s) fun _ => .refl _) s⟩
  | rainFilteredLevelChange => exact rainFilteredLevelChange_within
  | pwmPeriodBoundary => exact fun s => ⟨_, rfl, within_take _ (fun s => (inside_mapChannels _ s).within) s⟩

/-! ### Starts -/

/-- What a start keeps, whatever becomes of setup and number: the bounds, the waiting commands, the course of time, the locked
record and the pending causes. -/
structure Started (s t : State) : Prop where
  sound : Sound s → Sound t
  time : s.now ≤ t.now
  pending : t.pending = s.pending
  record : ∀ f, s.au.record = some f → t.au.record = some f
  latched : ∀ c, (s.latch c).pending = true → (t.latch c).pending = true

theorem Started.refl (s : State) : Started s s := ⟨id, le_rfl, rfl, fun _ h => h, fun _ h => h⟩

theorem Started.trans {s t u : State} (h : Started s t) (g : Started t u) : Started s u :=
  ⟨g.sound ∘ h.sound, h.time.trans g.time, g.pending.trans h.pending, fun f e => g.record f (h.record f e),
    fun c e => g.latched c (h.latched c e)⟩

theorem started_of_within {s t : State} (h : Within false s t) : Started s t :=
  ⟨h.sound, h.time, h.pending, h.record rfl, h.latched rfl⟩

theorem sound_reset : Sound State.reset where
  book := ⟨List.nodup_nil, Nat.zero_le _⟩
  queue := ⟨Nat.zero_le _, Nat.zero_le _⟩
  beds b := by
    rw [show State.reset.bed b = Bed.fresh from PerBed.get_const ..]
    decide
  drive := ⟨List.nodup_nil, Nat.zero_le _⟩
  counts := ⟨Nat.zero_le _, Nat.zero_le _⟩
  budget := rfl
  presence := List.nodup_nil
  weather := by
    refine ⟨by decide, by decide, by decide, by decide, ?_, fun b => ?_⟩
    · intro n hn
      rw [List.eq_of_mem_replicate hn]
      decide
    · rw [show State.reset.pw.probes.get b = Probe.fresh from PerBed.get_const ..]
      decide
  flow := by
    refine ⟨by decide, by decide, by decide, by decide, fun b => ?_⟩
    rw [show State.reset.fm.bedCarry.get b = 0 from PerBed.get_const ..]
    decide

theorem sound_coldStart (s : State) : Sound s.coldStart :=
  have h := sound_reset
  ⟨h.book, h.queue, h.beds, h.drive, h.counts, h.budget, h.presence, h.weather, h.flow⟩

theorem bed_warmStart (b : BedId) (s : State) : s.warmStart.bed b = (s.bed b).kept := PerBed.get_map ..

theorem started_warmStart (s : State) : Started s s.warmStart where
  sound h :=
    have r := sound_reset
    { book := r.book, queue := r.queue, drive := r.drive, counts := r.counts, budget := r.budget, presence := r.presence
      flow := r.flow
      beds := fun b => by
        rw [bed_warmStart]
        exact ⟨(h.beds b).1, (h.beds b).2.1, Nat.zero_le _⟩
      weather := by
        obtain ⟨-, minute, buckets, current, complete, -⟩ := h.weather
        exact ⟨r.weather.1, minute, buckets, current, complete, r.weather.2.2.2.2.2⟩ }
  time := le_rfl
  pending := rfl
  record _ h := h
  latched _ h := h

theorem within_endLoading (f r : Bool) (s : State) : Within k s (s.endLoading f r) :=
  within_same rfl rfl rfl rfl rfl rfl rfl rfl rfl rfl id id le_rfl rfl

theorem inside_bedFaults (image : List Byte) (s : State) : Inside s (s.bedFaults image) :=
  inside_forBeds _ (fun b s => by
    split
    · exact inside_raise ..
    · exact .refl _) s

/-- A bed's first state keeps what a warm start keeps. -/
theorem first_ranges {x : Bed} (u : BedSetup) (h : x.delivered ≤ dayLimit ∧ x.debt ≤ 40000 ∧ x.waitAge ≤ 255) :
    (x.first u).delivered ≤ dayLimit ∧ (x.first u).debt ≤ 40000 ∧ (x.first u).waitAge ≤ 255 :=
  ⟨h.1, h.2.1, Nat.zero_le _⟩

theorem started_takeSetup (image : List Byte) (s : State) : Started s (s.takeSetup image) where
  sound x := by
    have h := inside_bedFaults image s
    have faults := h.sound x
    refine ⟨faults.book, faults.queue, fun b => ?_, faults.drive, faults.counts, ?_, faults.presence, faults.weather, faults.flow⟩
    · rw [show (s.takeSetup image).bed b = (s.bed b).first _ from PerBed.get_map ..]
      exact first_ranges _ (x.beds b)
    · exact congrArg (effectiveBudget _) h.presence.symm
  time := (inside_bedFaults image s).now.ge
  pending := (inside_bedFaults image s).pending
  record := (inside_bedFaults image s).record
  latched := (inside_bedFaults image s).latched

theorem started_takeNoSetup (image : List Byte) (o : Nat) (s : State) : Started s (s.takeNoSetup image o) where
  sound x := by
    have h := inside_raise .setup 15 0 0 0 o 0 s
    have fault := h.sound x
    refine ⟨fault.book, fault.queue, fun b => ?_, fault.drive, fault.counts, ?_, fault.presence, fault.weather, fault.flow⟩
    · rw [show (s.takeNoSetup image o).bed b = (s.bed b).first _ from PerBed.get_map ..]
      exact first_ranges _ (x.beds b)
    · exact congrArg (effectiveBudget _) h.presence.symm
  time := (inside_raise .setup 15 0 0 0 o 0 s).now.ge
  pending := (inside_raise .setup 15 0 0 0 o 0 s).pending
  record := (inside_raise .setup 15 0 0 0 o 0 s).record
  latched := (inside_raise .setup 15 0 0 0 o 0 s).latched

theorem within_takeKept (s : State) : Within k s s.takeKept := by
  unfold State.takeKept
  extract_lets u
  have h : Within k s u := (within_takeDue s).trans (within_weighWeather _)
  exact within_ite (fun _ => h.trans (within_goStale _)) fun _ => h

theorem within_firstTally (s : State) : Within k s s.firstTally :=
  within_ite (fun _ => (within_tq { s.tq with tallySince := some s.now } s id).trans (within_tallyDue _)) fun _ => .refl _

theorem started_loadImage (image : List Byte) (f r : Bool) (s : State) : Started s (s.loadImage image f r) := by
  have taken : Started (s.endLoading f r) (match imageError image with
      | none => (s.endLoading f r).takeSetup image
      | some o => (s.endLoading f r).takeNoSetup image o) := by
    split
    · exact started_takeSetup ..
    · exact started_takeNoSetup ..
  exact ((started_of_within (within_endLoading f r s)).trans taken).trans
    (started_of_within ((within_takeKept _).trans (within_firstTally _)))

theorem setupImageRead_started (image : List Byte) (f r : Bool) : Answers (.setupImageRead image f r) Started := fun s => by
  refine ⟨_, rfl, ?_⟩
  split
  · exact .refl s
  · exact (started_loadImage image f r s).trans (started_of_within (within_finish _))

/-- Every command but COLD_START keeps what a start keeps, a CLEAR apart. -/
theorem answers_started (i : Instr) (cold : i ≠ .coldStart) (clear : isClear i = false) : Answers i Started := by
  by_cases start : Instr.isStart i = true
  · cases i with
    | coldStart => exact absurd rfl cold
    | warmStart => exact fun s => ⟨_, rfl, started_warmStart s⟩
    | setupImageRead image f r => exact setupImageRead_started image f r
    | _ => exact nomatch start
  · intro s
    obtain ⟨t, answer, within⟩ := answers_within i (Bool.not_eq_true _ ▸ start) s
    exact ⟨t, answer, started_of_within (clear ▸ within)⟩

/-! ### The bounds, the queue of commands and the course of time -/

/-- What holds of every command: the bounds stay, the waiting commands stay, time does not run back. -/
theorem answers_bounds (i : Instr) :
    Answers i fun s t => (Sound s → Sound t) ∧ t.pending = s.pending ∧ s.now ≤ t.now := by
  by_cases start : Instr.isStart i = true
  · cases i with
    | coldStart => exact fun s => ⟨_, rfl, fun _ => sound_coldStart s, rfl, le_rfl⟩
    | warmStart => exact fun s => ⟨_, rfl, (started_warmStart s).sound, rfl, le_rfl⟩
    | setupImageRead image f r =>
      intro s
      obtain ⟨t, answer, h⟩ := setupImageRead_started image f r s
      exact ⟨t, answer, h.sound, h.pending, h.time⟩
    | _ => exact nomatch start
  · intro s
    obtain ⟨t, answer, h⟩ := answers_within i (Bool.not_eq_true _ ▸ start) s
    exact ⟨t, answer, h.sound, h.pending, h.time⟩

/-- The one answer of a command. -/
theorem answers_unique {i : Instr} {R : State → State → Prop} (h : Answers i R) {s t : State} (answer : exec i s = .next t) :
    R s t := by
  obtain ⟨u, e, holds⟩ := h s
  rw [answer] at e
  exact Host.Outcome.next.inj e ▸ holds

/-! ### No event is left half done -/

theorem settled_take (f : State → State) {s : State} (h : Settled s) : Settled (s.take f) := by
  unfold State.take
  split
  · exact settled_finish _
  · exact h

theorem settled_ite {p : Prop} [Decidable p] {t u : State} (ht : p → Settled t) (hu : ¬p → Settled u) :
    Settled (if p then t else u) := by
  split
  · exact ht ‹_›
  · exact hu ‹_›

theorem settled_receive (src kind len : Nat) (f : State → State) {s : State} (h : Settled s) :
    Settled (s.receive src kind len f) :=
  settled_ite (fun _ => settled_finish _) fun _ => h

theorem settled_tickClock {s : State} (h : Settled s) (quiet : s.live = false) : Settled s.tickClock := by
  unfold State.tickClock
  extract_lets u m _ _ v
  have loading : v.live = false := quiet
  exact settled_ite (fun e => by simp [loading] at e) fun _ => h

theorem enterOwnSlot_rest (s : State) :
    s.enterOwnSlot = { s with now := s.enterOwnSlot.now, li := s.enterOwnSlot.li } := by
  unfold State.enterOwnSlot
  split
  · split <;> rfl
  · rfl

/-- Every command either ends its event or touches neither mark. -/
theorem answers_settled (i : Instr) : Answers i fun s t => Settled s → Settled t := by
  cases i with
  | coldStart => exact fun s => ⟨_, rfl, fun _ => ⟨rfl, rfl⟩⟩
  | warmStart => exact fun s => ⟨_, rfl, fun _ => ⟨rfl, rfl⟩⟩
  | setupImageRead => exact fun s => ⟨_, rfl, fun h => settled_ite (fun _ => h) fun _ => settled_finish _⟩
  | invalidFrame => exact fun s => ⟨_, rfl, fun h => settled_ite (fun _ => settled_finish _) fun _ => h⟩
  | collision => exact fun s => ⟨_, rfl, fun h => settled_ite (fun _ => settled_finish _) fun _ => h⟩
  | malformedNotice | duplicateNumberEvent | unhandedFrameReceived | tallyReceived | claimReceived | commitReceived
  | dropReceived | freeReceived | shedReceived | skyReceived | water | skip | pause | resume | target | clear | query
  | clock => exact fun s => ⟨_, rfl, fun h => settled_receive _ _ _ _ h⟩
  | rstnReturnsHigh | frameAbandoned | discardQuietEnd | yieldingClear | attnToggle | frameBegins | dominantLevel =>
    exact fun s => ⟨_, rfl, fun h => settled_ite (fun _ => h) fun _ => h⟩
  | slotEnd =>
    exact fun s => ⟨_, rfl, fun h => settled_ite (fun _ => by rw [enterOwnSlot_rest]; exact h) fun _ => h⟩
  | attemptBegin =>
    refine fun s => ⟨_, rfl, fun h => settled_ite (fun _ => ?_) fun _ => h⟩
    unfold State.beginAttempt
    split <;> exact h
  | answerByteStart =>
    refine fun s => ⟨_, rfl, fun h => ?_⟩
    split
    · exact settled_ite (fun _ => h) fun _ => h
    all_goals exact h
  | answerCollision =>
    refine fun s => ⟨_, rfl, fun h => ?_⟩
    split
    · exact settled_ite (fun _ => h) fun _ => h
    all_goals exact h
  | transmissionCompletes =>
    refine fun s => ⟨_, rfl, fun h => ?_⟩
    split
    · exact settled_ite (fun _ => settled_finish _) fun _ => h
    · exact h
  | dayClockTick =>
    exact fun s => ⟨_, rfl, fun h => settled_ite (fun _ => settled_ite (fun _ => settled_finish _) fun quiet =>
      settled_tickClock h (by simpa using quiet)) fun _ => h⟩
  | _ => exact fun s => ⟨_, rfl, fun h => settled_take _ h⟩

/-! ### The fault record under a CLEAR of one cause (R176, R177) -/

/-- A locked record keeps its fields. -/
def RecordKept (s t : State) : Prop := ∀ f, s.au.record = some f → t.au.record = some f

theorem RecordKept.trans {s t u : State} (h : RecordKept s t) (g : RecordKept t u) : RecordKept s u := fun f e => g f (h f e)

theorem recordKept_of_within {s t : State} (h : Within false s t) : RecordKept s t := h.record rfl

/-- An order that keeps the record is handed over and carried out in a frame that keeps it. -/
theorem recordKept_hand (src tgt kind len : Nat) (fits : Bool) (f : State → State) (hf : ∀ s, RecordKept s (f s)) (s : State) :
    RecordKept s (s.hand src tgt kind len fits f) := by
  unfold State.hand State.receive
  split
  · extract_lets u
    have ended : RecordKept s u := recordKept_of_within (within_frameOver len s)
    refine (ended.trans ?_).trans (recordKept_of_within (within_finish _))
    split
    · exact recordKept_of_within (within_duplicate ..)
    · have heard : ∀ g : State → State, (∀ v, RecordKept v (g v)) → RecordKept u (u.heard src g) := fun g hg => by
        unfold State.heard
        extract_lets _ v
        have line : RecordKept u v := recordKept_of_within (within_li _ u)
        refine (line.trans ?_).trans (hg _)
        split
        · exact recordKept_of_within (within_refresh ..)
        · exact fun _ e => e
      refine heard _ fun v => ?_
      split
      · split
        · exact hf v
        · exact fun _ e => e
      · exact fun _ e => e
  · exact fun _ e => e

theorem recordKept_stationOrder (tgt sel : Nat) (o : OrderKind) (args : Bool) (act : State → State)
    (ha : args = true → ∀ s, RecordKept s (act s)) (s : State) : RecordKept s (s.stationOrder tgt sel o args act) := by
  have refused : ∀ r, RecordKept s (s.refuse tgt o r) := fun r => recordKept_of_within (within_refuse ..)
  unfold State.stationOrder State.groupOrder
  split
  · split
    · exact fun _ e => e
    · split
      · exact fun _ e => e
      · split
        · exact fun _ e => e
        · rename_i args
          exact ha (by simpa using args) s
  · split
    · exact refused _
    · split
      · exact refused _
      · rename_i args
        exact (ha (by simpa using args) s).trans (recordKept_of_within (within_answer ..))

theorem recordKept_clearCause (c : Cause) (s : State) : RecordKept s (s.clearCause c) :=
  (recordKept_of_within (within_returnBeds c (s.rearm c))).trans (recordKept_of_within (within_evaluateCause ..))

theorem causeOf_isSome {n : Nat} (one : n ≠ 0) (h : n ≤ 12) : ∃ c, causeOf n = some c := by
  interval_cases n
  · exact absurd rfl one
  all_goals exact ⟨_, rfl⟩

theorem clear_recordKept (src tgt sel n : Nat) (one : n ≠ 0) : Answers (.clear src tgt sel n) RecordKept := fun s =>
  ⟨_, rfl, recordKept_hand _ _ _ _ _ _ (fun s => recordKept_stationOrder _ _ _ _ _ (fun args s => by
    obtain ⟨c, hc⟩ := causeOf_isSome one (by simpa using args)
    unfold State.clearOrder
    rw [hc]
    exact recordKept_clearCause c s) s) s⟩

/-- Settles O56: what is no CLEAR keeps record and latches; a CLEAR of one cause keeps the record. -/
theorem lockedRecordAndPendingCausesStay : Obligations.LockedRecordAndPendingCausesStay := by
  refine ⟨fun i f s t locked cold all answer => ?_, fun i c s t pending cold clear answer => ?_⟩
  · by_cases clear : isClear i = true
    · cases i with
      | clear src tgt sel n =>
        have one : n ≠ 0 := fun zero => all src tgt sel (zero ▸ rfl)
        exact answers_unique (clear_recordKept src tgt sel n one) answer f locked
      | _ => exact nomatch clear
    · exact (answers_unique (answers_started i cold (Bool.not_eq_true _ ▸ clear)) answer).record f locked
  · have other : isClear i = false := by
      cases i with
      | clear src tgt sel n => exact absurd rfl (clear src tgt sel n)
      | _ => rfl
    exact (answers_unique (answers_started i cold other) answer).latched c pending

/-! ### The statements -/

/-- Settles O1: by the definition of a step. -/
theorem stepRunsTheFrontCommand : Obligations.StepRunsTheFrontCommand := fun _ _ _ => rfl

/-- Settles O2: every command answers, and what it answers is `Within` or a start. -/
theorem commandsLeaveTheQueueAndTimeMovesOn : Obligations.CommandsLeaveTheQueueAndTimeMovesOn := by
  refine ⟨fun i s => ?_, fun s idle => ?_⟩
  · obtain ⟨t, answer, -, pending, time⟩ := answers_bounds i s
    exact ⟨t, answer, pending, time⟩
  · unfold step
    split
    · rfl
    · rename_i waits
      exact nomatch idle.symm.trans waits

/-- Settles O54. -/
theorem resetIsSoundAndSettled : Obligations.ResetIsSoundAndSettled := ⟨sound_reset, rfl, rfl⟩

/-- Settles O55: the step is the front command's, with the rest of the queue waiting, or a millisecond of quiet. -/
theorem everyStepKeepsTheBounds : Obligations.EveryStepKeepsTheBounds := by
  have bounds : ∀ (rest : List Instr) (s : State), Sound s → Sound { s with pending := rest } := fun rest s h =>
    ⟨h.book, h.queue, h.beds, h.drive, h.counts, h.budget, h.presence, h.weather, h.flow⟩
  refine ⟨fun s t h answer => ?_, fun s t h answer => ?_⟩
  · unfold step at answer
    split at answer
    · obtain rfl := Host.Outcome.next.inj answer
      exact ⟨h.book, h.queue, h.beds, h.drive, h.counts, h.budget, h.presence, h.weather, h.flow⟩
    · exact (answers_unique (answers_bounds _) answer).1 (bounds _ s h)
  · unfold step at answer
    split at answer
    · obtain rfl := Host.Outcome.next.inj answer
      exact h
    · exact answers_unique (answers_settled _) answer h

end Sys2Proof.EveryStep

/-! PROOFS. The station state and delivered today through every command: most operations leave the setup loader alone and take
nothing from delivered today (`Steady`); the start-up closure's end and the entry to BARRED alone move the station state
on (`Onward`). -/

namespace Sys2Proof.StationStates

open Sys2Proof.Machine Sys2Proof.EveryStep

/-! ### What a station state can become inside one event -/

/-- The station state stays, or goes on by the end of the start-up closure, or to BARRED (R184, R186). -/
def Onward (x y : StationState) : Prop :=
  y = x ∨ (x = .checking ∧ y = .listening) ∨ ((x = .checking ∨ x = .listening ∨ x = .active) ∧ y = .barred)

theorem Onward.trans {x y z : StationState} (h : Onward x y) (g : Onward y z) : Onward x z := by
  rcases h with rfl | ⟨rfl, rfl⟩ | ⟨hx, rfl⟩
  · exact g
  · rcases g with rfl | ⟨h, -⟩ | ⟨-, rfl⟩
    · exact .inr (.inl ⟨rfl, rfl⟩)
    · exact absurd h (by decide)
    · exact .inr (.inr ⟨.inl rfl, rfl⟩)
  · rcases g with rfl | ⟨h, -⟩ | ⟨h, -⟩
    · exact .inr (.inr ⟨hx, rfl⟩)
    · exact absurd h (by decide)
    · exact absurd h (by decide)

theorem Onward.mayBecome {x y : StationState} (h : Onward x y) : x.mayBecome y = true := by
  rcases h with rfl | ⟨rfl, rfl⟩ | ⟨rfl | rfl | rfl, rfl⟩
  · cases y <;> rfl
  all_goals rfl

/-! ### Operations that leave the setup loader and take nothing from delivered today -/

/-- Delivered today is not below what it was, up to its limit. -/
def Delivers (s t : State) : Prop := ∀ b, min (s.bed b).delivered dayLimit ≤ (t.bed b).delivered

theorem Delivers.refl (s : State) : Delivers s s := fun _ => min_le_left ..

theorem Delivers.trans {s t u : State} (h : Delivers s t) (g : Delivers t u) : Delivers s u := fun b =>
  (le_min (h b) (min_le_right ..)).trans (g b)

/-- `d` says whether delivered today is looked at: a day boundary takes it back (R102). -/
structure Steady (d : Bool) (s t : State) : Prop where
  sl : t.sl = s.sl
  delivers : d = true → Delivers s t

variable {d : Bool} {s t u : State}

theorem Steady.refl (s : State) : Steady d s s := ⟨rfl, fun _ => .refl s⟩

theorem Steady.trans (h : Steady d s t) (g : Steady d t u) : Steady d s u :=
  ⟨g.sl.trans h.sl, fun e => (h.delivers e).trans (g.delivers e)⟩

theorem steady_of_inside (h : Inside s t) : Steady d s t :=
  ⟨h.sl, fun _ b => (min_le_left ..).trans (h.delivered b).ge⟩

/-- An operation that leaves setup loader and bed records alone. -/
theorem steady_same (hs : t.sl = s.sl) (hb : t.bc.beds = s.bc.beds) : Steady d s t :=
  ⟨hs, fun _ b => by
    rw [show t.bed b = s.bed b from congrArg (fun p => PerBed.get p b) hb]
    exact min_le_left ..⟩

/-- An operation after a change that leaves setup loader and bed records alone. -/
theorem Steady.after (g : Steady d t u) (s : State) (hs : t.sl = s.sl) (hb : t.bc.beds = s.bc.beds) : Steady d s u :=
  (steady_same hs hb).trans g

theorem steady_modBed (b : BedId) (f : Bed → Bed) (s : State)
    (hf : d = true → min (s.bed b).delivered dayLimit ≤ (f (s.bed b)).delivered) : Steady d s (s.modBed b f) :=
  ⟨rfl, fun e c => by
    rw [State.bed_modBed]
    split
    · rename_i same
      exact same ▸ hf e
    · exact min_le_left ..⟩

theorem steady_ite {p : Prop} [Decidable p] (ht : p → Steady d s t) (hu : ¬p → Steady d s u) :
    Steady d s (if p then t else u) := by
  split
  · exact ht ‹_›
  · exact hu ‹_›

theorem steady_foldl {α : Type} (f : State → α → State) (hf : ∀ s a, Steady d s (f s a)) (l : List α) (s : State) :
    Steady d s (l.foldl f s) := by
  induction l generalizing s with
  | nil => exact .refl _
  | cons a l ih => exact (hf s a).trans (ih _)

theorem steady_forBeds (f : BedId → State → State) (hf : ∀ b s, Steady d s (f b s)) (s : State) : Steady d s (s.forBeds f) :=
  steady_foldl _ (fun s b => hf b s) _ s

/-! ### The queue, the book and the presence table -/

theorem steady_tallyDue (s : State) : Steady d s s.tallyDue :=
  steady_ite (fun _ => .refl _) fun _ => by
    rw [Overdraw.offer_rest]
    exact steady_same rfl rfl

theorem steady_purge (s : State) : Steady d s s.purge := by
  unfold State.purge
  exact steady_ite (fun _ => steady_same rfl rfl) fun _ => steady_ite (fun _ => steady_same rfl rfl) fun _ => steady_same rfl rfl

theorem steady_insert (e : Entry) (s : State) : Steady d s (s.insert e) :=
  steady_ite (fun _ => steady_same rfl rfl) fun _ => steady_ite (fun _ => steady_same rfl rfl) fun _ =>
    steady_of_inside ((inside_saturated true s).trans (inside_setPending ..))

theorem steady_remove (st bd : Nat) (s : State) : Steady d s (s.remove st bd) := by
  rw [Overdraw.remove_rest]
  exact steady_same rfl rfl

theorem steady_changeEntry (st bd : Nat) (f : Entry → Entry) (s : State) : Steady d s (s.changeEntry st bd f) :=
  steady_ite (fun _ => steady_same rfl rfl) fun _ => steady_same rfl rfl

theorem steady_recomputeBudget (s : State) : Steady d s s.recomputeBudget :=
  steady_ite (fun _ => .refl _) fun _ => steady_same rfl rfl

theorem steady_refresh (src : Nat) (s : State) : Steady d s (s.refresh src) :=
  steady_ite (fun _ => steady_same rfl rfl) fun _ => steady_same rfl rfl

theorem steady_expire (n : Nat) (s : State) : Steady d s (s.expire n) := by
  unfold State.expire
  extract_lets book _ u
  refine Steady.trans ?_ (steady_recomputeBudget _)
  exact steady_ite (fun _ => steady_same rfl rfl) fun _ => steady_same rfl rfl

/-! ### Notices of peers -/

theorem steady_takeClaim (src bed flow : Nat) (r : Urgency) (age : Nat) (s : State) :
    Steady d s (s.takeClaim src bed flow r age) :=
  (steady_ite (fun _ => steady_changeEntry ..) fun _ => steady_insert ..).after s rfl rfl

theorem steady_takeCommit (src bed : Nat) (s : State) : Steady d s (s.takeCommit src bed) :=
  steady_ite (fun _ => steady_changeEntry ..) fun _ => by split <;> exact steady_insert ..

theorem steady_takeFree (src bed : Nat) (s : State) : Steady d s (s.takeFree src bed) :=
  (steady_remove src bed s).trans (steady_same rfl rfl)

theorem steady_takeBudget (src : Nat) (n : TallyNotice) (s : State) : Steady d s (s.takeBudget src n) := by
  unfold State.takeBudget
  extract_lets before v w
  have h : Steady d s w := (steady_recomputeBudget v).after s rfl rfl
  refine steady_ite (fun _ => h.trans (steady_of_inside ?_)) fun _ => h
  unfold State.mismatch
  extract_lets own x
  split
  · exact (inside_setPending ..).trans (inside_takeFault ..)
  · exact inside_setPending ..

theorem steady_takeTally (src : Nat) (n : TallyNotice) (s : State) : Steady d s (s.takeTally src n) := by
  have drop : ∀ v : State, Steady d v (v.dropUnlisted src n.entries) := fun v =>
    steady_ite (fun _ => .refl _) fun _ => steady_same rfl rfl
  refine ((steady_takeBudget src n s).trans (drop _)).trans (steady_foldl _ (fun v e => ?_) _ _)
  exact steady_ite (fun _ => steady_changeEntry ..) fun _ => steady_insert ..

theorem steady_answer (tgt : Nat) (r : Reply) (s : State) : Steady d s (s.answer tgt r) :=
  steady_ite (fun _ => steady_same rfl rfl) fun _ => .refl _

theorem steady_takeShed (tgt victim : Nat) (r : Urgency) (s : State) : Steady d s (s.takeShed tgt victim r) := by
  unfold State.takeShed
  split
  · exact (steady_answer ..).trans (steady_of_inside (inside_cut ..))
  · exact steady_answer ..

/-! ### Holds, clock and weather -/

theorem steady_joinHold (r : HoldReason) (s : State) : Steady d s (s.joinHold r) := by
  by_cases h : s.bc.holds.has r
  · unfold State.joinHold
    rw [if_pos h]
    exact .refl _
  · exact (steady_of_inside (inside_joinHold r s (by simpa using h))).after s rfl rfl

theorem steady_leaveHold (r : HoldReason) (s : State) : Steady d s (s.leaveHold r) :=
  steady_ite (fun _ => steady_same rfl rfl) fun _ => .refl _

theorem steady_setHold (r : HoldReason) (v : Bool) (s : State) : Steady d s (s.setHold r v) :=
  steady_ite (fun _ => steady_joinHold ..) fun _ => steady_leaveHold ..

theorem steady_weighWeather (s : State) : Steady d s s.weighWeather := by
  unfold State.weighWeather
  split <;> exact ((steady_setHold ..).trans (steady_setHold ..)).trans (steady_setHold ..)

theorem steady_setClock (m : Nat) (s : State) : Steady d s (s.setClock m) :=
  steady_ite (fun _ => steady_same rfl rfl) fun _ => steady_same rfl rfl

theorem steady_adopt (k : Sky) (src : Nat) (s : State) : Steady d s (s.adopt k src) := by
  unfold State.adopt
  extract_lets _ v
  have h : Steady d s v :=
    (steady_weighWeather _).after s rfl rfl
  have g : Steady d v (v.followMinute k.minute) := steady_ite (fun _ => steady_setClock ..) fun _ => .refl _
  exact (h.trans g).trans (steady_same rfl rfl)

theorem steady_skyDue (s : State) : Steady d s s.skyDue := by
  unfold State.skyDue
  split
  · exact .refl _
  · extract_lets k admitted v _ w
    have h : Steady d s v := steady_of_inside (inside_offer (.sky k) rfl s)
    have g : Steady d v w := steady_ite (fun _ => steady_same rfl rfl) fun _ => .refl _
    exact (h.trans g).trans (steady_adopt ..)

theorem steady_evaluateCause (c : Cause) (s : State) : Steady d s (s.evaluateCause c) :=
  steady_ite (fun _ => steady_of_inside (inside_setPending ..)) fun _ => .refl _

theorem steady_goStale (s : State) : Steady d s s.goStale :=
  ((steady_weighWeather { s with pw.staleNoted := true }).after s rfl rfl).trans (steady_evaluateCause ..)

/-! ### Hour and day boundaries -/

theorem steady_updateDebts (s : State) : Steady d s s.updateDebts := by
  unfold State.updateDebts
  extract_lets cls rain applied v
  have beds : Steady d s v :=
    steady_forBeds _ (fun b s => steady_ite (fun _ => steady_modBed b _ s fun _ => min_le_left ..) fun _ => .refl _) s
  exact beds.trans (steady_same rfl rfl)

theorem steady_rotateBuckets (i : Nat) (s : State) : Steady d s (s.rotateBuckets i) :=
  steady_ite (fun _ => steady_same rfl rfl) fun _ => .refl _

theorem steady_applyHour (i : Nat) (s : State) : Steady d s (s.applyHour i) :=
  ((steady_updateDebts s).trans (steady_forBeds _ (fun _ _ => steady_ite (fun _ => .refl _)
    fun _ => steady_of_inside (inside_evaluate ..)) _)).trans (steady_rotateBuckets ..)

/-- A day boundary leaves the setup loader alone; it takes delivered today back. -/
theorem steady_applyDay (s : State) : Steady false s s.applyDay := by
  unfold State.applyDay
  extract_lets v
  have beds : Steady false s v :=
    steady_forBeds _ (fun b s => steady_ite (fun _ => steady_modBed b _ s fun e => absurd e Bool.false_ne_true) fun _ => .refl _) s
  exact beds.trans
    (steady_forBeds _ (fun _ _ => steady_ite (fun _ => steady_of_inside (inside_evaluate ..)) fun _ => .refl _) _)

theorem steady_takeDue (s : State) : Steady false s s.takeDue := by
  refine (steady_foldl _ (fun s x => ?_) _ _).after s rfl rfl
  cases x with
  | day => exact steady_applyDay s
  | hour m => exact steady_applyHour _ s

theorem steady_dayBoundary (s : State) : Steady false s s.dayBoundary := by
  unfold State.dayBoundary
  split
  · exact (steady_applyDay _).after s rfl rfl
  · exact .refl _
  · exact steady_ite (fun _ => .refl _) fun _ => (steady_applyDay _).after s rfl rfl

theorem steady_countedHour (s : State) : Steady false s s.countedHour := by
  unfold State.countedHour
  extract_lets n v _ w _ x
  have h : Steady false s w := steady_same rfl rfl
  have g : Steady false w x := steady_ite
    (fun _ => (steady_applyDay { w with bc.days := w.bc.days + 1 }).after w rfl rfl) fun _ => .refl _
  exact (h.trans g).trans (steady_applyHour ..)

theorem steady_hourBoundary (s : State) : Steady false s s.hourBoundary := by
  unfold State.hourBoundary
  split
  · rename_i rest _
    exact ((steady_applyDay { s with bc.due := rest }).after s rfl rfl).trans (steady_applyHour ..)
  · rename_i rest _
    exact (steady_applyHour _ { s with bc.due := rest }).after s rfl rfl
  · exact .refl _
  · exact steady_ite (fun _ => .refl _) fun _ => steady_countedHour s

theorem steady_tickClock (s : State) : Steady d s s.tickClock :=
  steady_ite (fun _ => steady_same rfl rfl) fun _ => steady_same rfl rfl

theorem steady_takeKept (s : State) : Steady false s s.takeKept := by
  have h : Steady false s s.takeDue.weighWeather := (steady_takeDue s).trans (steady_weighWeather _)
  exact steady_ite (fun _ => h.trans (steady_goStale _)) fun _ => h

theorem steady_firstTally (s : State) : Steady d s s.firstTally :=
  steady_ite (fun _ => (steady_tallyDue _).after s rfl rfl) fun _ => .refl _

/-! ### Probes -/

theorem steady_handWetness (b : BedId) (w : Nat) (s : State) : Steady d s (s.handWetness b w) :=
  steady_ite (fun _ => .refl _) fun _ =>
    (steady_modBed b _ s fun _ => min_le_left ..).trans (steady_of_inside (inside_weighWetness ..))

theorem steady_probeLost (b : BedId) (s : State) : Steady d s (s.probeLost b) := by
  unfold State.probeLost
  extract_lets v
  have h : Steady d s v := steady_modBed b _ s fun _ => min_le_left ..
  refine steady_ite (fun _ => h.trans (steady_of_inside ?_)) fun _ => h.trans (steady_of_inside (inside_evaluate ..))
  split
  · exact inside_toFaulted ..
  · exact inside_toFaulted ..
  · exact (inside_withdraw _).trans (inside_toFaulted ..)
  all_goals exact .refl _

theorem steady_goodRead (b : BedId) (w : Nat) (s : State) : Steady d s (s.goodRead b w) := by
  have put : ∀ p, Steady d s (s.putProbe b p) := fun p => steady_same rfl rfl
  refine steady_ite (fun _ => steady_ite (fun _ => ?_) fun _ => put _) fun _ => (put _).trans (steady_handWetness ..)
  exact ((put _).trans (steady_modBed b _ _ fun _ => min_le_left ..)).trans (steady_handWetness ..)

theorem steady_badRead (b : BedId) (one two : Nat) (s : State) : Steady d s (s.badRead b one two) := by
  have put : ∀ p, Steady d s (s.putProbe b p) := fun p => steady_same rfl rfl
  exact steady_ite (fun _ => ((put _).trans (steady_of_inside (inside_raise ..))).trans (steady_probeLost ..)) fun _ => put _

theorem steady_readProbe (b : BedId) (r : ProbeResult) (s : State) : Steady d s (s.readProbe b r) := by
  unfold State.readProbe
  dsimp only
  split
  · exact steady_goodRead ..
  · exact .refl _
  · exact .refl _
  · exact steady_badRead ..

theorem steady_takeTemperature (x : Int) (s : State) : Steady d s (s.takeTemperature x) :=
  steady_ite (fun _ => (steady_skyDue _).after s rfl rfl) fun _ => steady_same rfl rfl

theorem steady_readTemperature (r : ProbeResult) (s : State) : Steady d s (s.readTemperature r) := by
  have good : ∀ x, Steady d s (s.goodTemperature x) := fun x =>
    steady_ite (fun _ => steady_ite (fun _ => (steady_takeTemperature ..).after s rfl rfl)
      fun _ => steady_same rfl rfl) fun _ => (steady_takeTemperature ..).after s rfl rfl
  have bad : ∀ n, Steady d s (s.badTemperature n) := fun n =>
    steady_ite (fun _ => (steady_of_inside (inside_raise ..)).after s rfl rfl) fun _ => steady_same rfl rfl
  cases r with
  | count c => exact good _
  | overrange => exact bad _
  | timeout => exact bad _

theorem steady_visitFrom (ch : Nat) (s : State) : Steady d s (s.visitFrom ch) := by
  unfold State.visitFrom
  split <;> exact steady_same rfl rfl

/-! ### The valve drive and the flow monitor -/

theorem steady_supplyComes (s : State) : Steady d s s.supplyComes :=
  (steady_of_inside ((inside_mapChannels _ _).trans (inside_kick _))).after s rfl rfl

theorem steady_supplyGoes (s : State) : Steady d s s.supplyGoes :=
  ((steady_joinHold .supply { s with vd.supply := .lost, vd.ready := false, vd.chargeSince := none }).after s rfl rfl).trans
    (steady_of_inside (inside_setPending ..))

theorem steady_coilResult (b : BedId) (ohms : Nat) (s : State) : Steady d s (s.coilResult b ohms) := by
  unfold State.coilResult
  split
  · exact steady_same rfl rfl
  · exact steady_of_inside (((inside_stopDriving ..).trans (inside_setOff ..)).trans (inside_raise ..))

theorem steady_credit (b : BedId) (v : Nat) (s : State) : Steady d s (s.credit b v) := by
  unfold State.credit
  have add : Steady d s (s.addCredit b v) :=
    steady_modBed b _ s fun _ => le_min ((min_le_left ..).trans (Nat.le_add_right ..)) (min_le_right ..)
  refine steady_ite (fun _ => .refl _) fun _ => add.trans ?_
  dsimp only
  split
  · exact .refl _
  · split
    · exact steady_of_inside (inside_endCycle ..)
    · exact .refl _

theorem steady_creditWindow (w : Window) (s : State) : Steady d s (s.creditWindow w) := by
  refine steady_ite (fun _ => steady_ite (fun _ => steady_same rfl rfl) fun _ => ?_) fun _ => steady_foldl _ (fun s b => ?_) _ s
  · exact (steady_foldl _ (fun s x => steady_credit ..) _ _).after s rfl rfl
  · exact (steady_credit ..).after s rfl rfl

theorem steady_placeDraw (flow : Nat) (s : State) : Steady d s (s.placeDraw flow) := by
  unfold State.placeDraw
  refine steady_ite (fun _ => steady_changeEntry ..) fun _ => ?_
  extract_lets v
  have h : Steady d s v := steady_insert ..
  exact steady_ite (fun _ => h.trans (steady_of_inside (inside_ownCommitted _))) fun _ => h

theorem steady_removeDraw (s : State) : Steady d s s.removeDraw := by
  unfold State.removeDraw
  refine steady_ite (fun _ => ?_) fun _ => .refl _
  refine Steady.trans ?_ (steady_remove ..)
  exact steady_ite (fun _ => .refl _) fun _ => steady_of_inside (inside_offer _ rfl _)

theorem steady_checkBranch (w : Window) (s : State) : Steady d s (s.checkBranch w) := by
  have leak : ∀ s, Steady d s (s.leakCheck w) := fun s =>
    steady_ite (fun _ => (steady_of_inside (inside_fireBranch ..)).after s rfl rfl) fun _ => steady_same rfl rfl
  have noflow : ∀ s, Steady d s (s.noflowCheck w) := fun s =>
    steady_ite (fun _ => (steady_of_inside (inside_fireBranch ..)).after s rfl rfl) fun _ => steady_same rfl rfl
  have stuck : ∀ s, Steady d s (s.stuckCheck w) := fun s =>
    steady_ite (fun _ => (steady_of_inside (inside_setPending ..)).trans
      ((steady_placeDraw ..).after _ rfl rfl)) fun _ => steady_same rfl rfl
  have draw : ∀ s, Steady d s (s.drawStep w) := fun s =>
    steady_ite (fun _ => .refl _) fun _ => steady_ite (fun _ => (steady_placeDraw ..).after s rfl rfl)
      fun _ => steady_ite (fun _ => (steady_removeDraw _).after s rfl rfl) fun _ => steady_same rfl rfl
  have checks := ((leak s).trans (noflow _)).trans (stuck _)
  exact steady_ite (fun _ => steady_ite (fun _ => checks.trans (draw _)) fun _ => checks) fun _ => .refl _

theorem steady_endWindow (s : State) : Steady d s s.endWindow := by
  unfold State.endWindow
  extract_lets w _ v
  have h : Steady d s v := steady_same rfl rfl
  exact ((h.trans (steady_creditWindow ..)).trans (steady_of_inside (inside_confirmFlows ..))).trans (steady_checkBranch ..)

/-! ### Orders and the line -/

theorem steady_groupOrder (sel : Nat) (o : OrderKind) (args : Bool) (act : List BedId → State → State)
    (ha : ∀ l s, Steady d s (act l s)) (s : State) : Steady d s (s.groupOrder sel o args act) := by
  unfold State.groupOrder
  split
  · exact .refl _
  · exact steady_ite (fun _ => steady_same rfl rfl) fun _ => steady_ite (fun _ => steady_same rfl rfl) fun _ => ha _ _

theorem steady_refuse (tgt : Nat) (o : OrderKind) (r : RefusalReason) (s : State) : Steady d s (s.refuse tgt o r) :=
  (steady_answer ..).after s rfl rfl

theorem steady_stationOrder (tgt sel : Nat) (o : OrderKind) (args : Bool) (act : State → State)
    (ha : ∀ s, Steady d s (act s)) (s : State) : Steady d s (s.stationOrder tgt sel o args act) :=
  steady_ite (fun _ => steady_groupOrder _ _ _ _ (fun _ s => ha s) s) fun _ => steady_ite (fun _ => steady_refuse ..)
    fun _ => steady_ite (fun _ => steady_refuse ..) fun _ => (ha s).trans (steady_answer ..)

theorem steady_bedOrder (tgt sel : Nat) (o : OrderKind) (args : Bool) (takes : BedId → State → Bool)
    (act : BedId → State → State) (ha : ∀ b s, Steady d s (act b s)) (s : State) :
    Steady d s (s.bedOrder tgt sel o args takes act) := by
  have bed : ∀ b s, Steady d s (s.groupBed o takes act b) := fun b s =>
    steady_ite (fun _ => steady_same rfl rfl) fun _ => steady_ite (fun _ => steady_same rfl rfl) fun _ => ha b s
  unfold State.bedOrder
  refine steady_ite (fun _ => steady_groupOrder _ _ _ _ (fun l s => steady_foldl _ (fun s b => bed b s) l s) s)
    fun _ => steady_ite (fun _ => steady_refuse ..) fun _ => ?_
  split
  · exact steady_refuse ..
  · exact steady_ite (fun _ => steady_refuse ..) fun _ => steady_ite (fun _ => steady_refuse ..)
      fun _ => (ha _ s).trans (steady_answer ..)

theorem steady_emptyRecord (s : State) : Steady d s s.emptyRecord := steady_same rfl rfl

theorem steady_clearOrder (n : Nat) (s : State) : Steady d s (s.clearOrder n) := by
  have back : ∀ b s, Steady d s (State.returnBed b s) := fun b s => by
    unfold State.returnBed
    extract_lets v
    have h : Steady d s v := steady_of_inside ((inside_toIdle b s).trans (inside_evaluate ..))
    have free : Steady d v (v.raiseFree b) :=
      (steady_of_inside (inside_raise _ _ _ _ _ _ _ { v with free := v.free + 2 })).after v rfl rfl
    exact steady_ite (fun _ => h.trans free) fun _ => h
  have one : ∀ s c, Steady d s (s.clearCause c) := fun s c =>
    ((steady_forBeds _ (fun b s => steady_ite (fun _ => back b s)
      fun _ => .refl _) (s.rearm c)).after s rfl rfl).trans (steady_evaluateCause ..)
  unfold State.clearOrder
  split
  · exact one ..
  · exact (steady_foldl _ one _ s).trans (steady_emptyRecord _)

theorem steady_completed (s : State) : Steady d s s.completed :=
  (steady_leaveHold .line { s with li.attempt := none, li.yielding := true, tq.headRun := 0, li.lossSince := s.now }).after s
    rfl rfl

theorem steady_claimOnLine (s : State) : Steady d s s.claimOnLine := by
  unfold State.claimOnLine
  extract_lets c placed
  have h : Steady d s placed := steady_insert ..
  exact steady_ite (fun _ => h.trans (steady_of_inside (inside_endClaim _))) fun _ =>
    steady_ite (fun _ => h.trans (steady_of_inside (inside_dropClaim _))) fun _ => h.trans (steady_same rfl rfl)

theorem steady_onLine (n : Notice) (s : State) : Steady d s (s.onLine n) := by
  have ends : ∀ s : State, Steady d s s.claimOver := fun s =>
    steady_ite (fun _ => steady_of_inside (inside_clearClaim s)) fun _ => .refl _
  cases n with
  | claim => exact steady_claimOnLine s
  | commit => exact ends s
  | drop => exact ends s
  | _ => exact .refl _

theorem steady_complete (a : Attempt) (slot : Option SlotByte) (s : State) : Steady d s (s.complete a slot) := by
  unfold State.complete
  split
  · exact .refl _
  · split
    · have slotted : Steady d s s.enterOwnSlot := by
        rw [enterOwnSlot_rest]
        exact steady_same rfl rfl
      extract_lets v
      have timed : Steady d s v := slotted.trans (steady_same rfl rfl)
      exact (timed.trans (steady_completed _)).trans (steady_of_inside (inside_shedOnLine ..))
    · extract_lets v
      have done : Steady d s (State.completed { v with li.rx := .slot, li.slotSince := v.now }).popHead :=
        ((steady_completed { v with li.rx := .slot, li.slotSince := v.now }).after s rfl rfl).trans (steady_same rfl rfl)
      exact done.trans (steady_onLine ..)

/-! ### Operations that move the station state on -/

/-- What every event does: the station state goes on, nothing is taken from delivered today. -/
structure Carried (d : Bool) (s t : State) : Prop where
  onward : Onward s.sl.station t.sl.station
  delivers : d = true → Delivers s t

theorem Steady.carried (h : Steady d s t) : Carried d s t := ⟨.inl (by rw [h.sl]), h.delivers⟩

theorem carried_of_inside (h : Inside s t) : Carried d s t := (steady_of_inside h).carried

theorem Carried.refl (s : State) : Carried d s s := (Steady.refl s).carried

theorem Carried.trans (h : Carried d s t) (g : Carried d t u) : Carried d s u :=
  ⟨h.onward.trans g.onward, fun e => (h.delivers e).trans (g.delivers e)⟩

theorem carried_same (hs : t.sl = s.sl) (hb : t.bc.beds = s.bc.beds) : Carried d s t := (steady_same hs hb).carried

/-- A change after it that leaves setup loader and bed records alone. -/
theorem Carried.before (h : Carried d s t) (hs : u.sl = t.sl) (hb : u.bc.beds = t.bc.beds) : Carried d s u :=
  h.trans (steady_same hs hb).carried

theorem Carried.after (g : Carried d t u) (s : State) (hs : t.sl = s.sl) (hb : t.bc.beds = s.bc.beds) : Carried d s u :=
  (carried_same hs hb).trans g

theorem carried_ite {p : Prop} [Decidable p] (ht : p → Carried d s t) (hu : ¬p → Carried d s u) :
    Carried d s (if p then t else u) := by
  split
  · exact ht ‹_›
  · exact hu ‹_›

theorem carried_enterBarred (s : State) (from' : s.sl.station = .checking ∨ s.sl.station = .listening ∨ s.sl.station = .active) :
    Carried d s s.enterBarred := by
  have bars : Carried d s { s with sl.station := .barred } := ⟨.inr (.inr ⟨from', rfl⟩), fun _ => .refl s⟩
  have work : Steady d { s with sl.station := .barred } s.enterBarred :=
    (((steady_of_inside (inside_forBeds _ inside_barBed _)).trans (steady_purge _)).trans (steady_removeDraw _)).trans
      (steady_same rfl rfl)
  exact bars.trans work.carried

theorem carried_duplicate (kind : Nat) (s : State) : Carried d s (s.duplicate kind) := by
  have clash : Inside s (s.raiseClash kind) := inside_raise ..
  unfold State.duplicate
  split
  · exact .refl s
  · exact ⟨.inl (by show (s.raiseClash kind).sl.station = _; rw [clash.sl]), (carried_of_inside clash).delivers⟩
  · rename_i e
    exact (carried_of_inside clash).trans (carried_enterBarred _ (.inr (.inl (by rw [clash.sl, e]))))
  · rename_i e
    exact (carried_of_inside clash).trans (carried_enterBarred _ (.inr (.inr (by rw [clash.sl, e]))))
  · exact carried_of_inside clash
  · exact carried_of_inside (inside_setPending ..)

theorem carried_startUpDone (s : State) (checking : s.sl.station = .checking) : Carried d s s.startUpDone := by
  have listens : Carried d s { s with
      vd.check := .done, sl.station := .listening, sl.listenSince := s.now, tq.tallySince := some s.now } :=
    ⟨.inr (.inl ⟨checking, rfl⟩), fun _ => .refl s⟩
  unfold State.startUpDone
  extract_lets _ _ _ v
  have tally : Steady d _ v := steady_tallyDue _
  have started : Carried d s v := listens.trans tally.carried
  have listening : v.sl.station = .listening := congrArg SetupLoader.station tally.sl
  exact carried_ite (fun _ => started.trans (carried_enterBarred v (.inr (.inl listening)))) fun _ => started

theorem carried_checkStartUp (s : State) : Carried d s s.checkStartUp :=
  carried_ite (fun h => carried_startUpDone s h.1) fun _ => .refl s

theorem carried_startUpClosure (s : State) (checking : s.sl.station = .checking) : Carried d s s.startUpClosure := by
  unfold State.startUpClosure
  extract_lets _ v
  have closes : Steady d s v :=
    (steady_of_inside (inside_forBeds _ (fun b s => by
      split
      · exact inside_queueRequest ..
      · exact .refl s) _)).after s rfl rfl
  exact carried_ite (fun _ => closes.carried.trans (carried_checkStartUp _)) fun _ =>
    closes.carried.trans (carried_startUpDone _ (by rw [closes.sl, checking]))

theorem carried_startCoils (s : State) (checking : s.sl.station = .checking) : Carried d s s.startCoils := by
  unfold State.startCoils
  split
  · exact carried_startUpClosure s checking
  · exact carried_same rfl rfl

/-! ### Events -/

theorem carried_finish (s : State) : Carried d s s.finish := carried_of_inside (inside_finish s)

theorem carried_take (f : State → State) (hf : ∀ s, Carried d s (f s)) (s : State) : Carried d s (s.take f) :=
  carried_ite (fun _ => (hf s).trans (carried_finish _)) fun _ => .refl s

theorem steady_heard (src : Nat) (f : State → State) (hf : ∀ s, Steady d s (f s)) (s : State) : Steady d s (s.heard src f) := by
  unfold State.heard
  extract_lets _ v
  have line : Steady d s v := steady_same rfl rfl
  exact (line.trans (steady_ite (fun _ => steady_refresh ..) fun _ => .refl v)).trans (hf _)

theorem carried_receive (src kind len : Nat) (f : State → State) (hf : ∀ s, Steady d s (f s)) (s : State) :
    Carried d s (s.receive src kind len f) := by
  unfold State.receive
  refine carried_ite (fun _ => ?_) fun _ => .refl s
  extract_lets u
  have ended : Steady d s u := steady_same rfl rfl
  exact (ended.carried.trans (carried_ite (fun _ => carried_duplicate ..) fun _ => (steady_heard _ f hf u).carried)).trans
    (carried_finish _)

theorem carried_hand (src tgt kind len : Nat) (fits : Bool) (f : State → State) (hf : ∀ s, Steady d s (f s)) (s : State) :
    Carried d s (s.hand src tgt kind len fits f) := by
  refine carried_receive _ _ _ _ (fun s => ?_) s
  split
  · exact steady_ite (fun _ => hf s) fun _ => steady_same rfl rfl
  · exact .refl s

/-! ### Every command -/

theorem reserveReady_carried : Answers .reserveReady (Carried d) := fun s => ⟨_, rfl, carried_take _ (fun s => by
  split
  · extract_lets u _ v
    have h : Carried d s v := carried_same rfl rfl
    exact carried_ite (fun e => h.trans (carried_startCoils _ e.1)) fun _ => h
  all_goals exact .refl _) s⟩

theorem reserveWaitTimeout_carried : Answers .reserveWaitTimeout (Carried d) := fun s => ⟨_, rfl, carried_take _ (fun s => by
  split
  · rename_i t _
    refine carried_ite (fun e => ?_) fun _ => .refl s
    have lost : Steady d s (s.advanceTo (t + Config.reserveWaitTime)).supplyGoes := (steady_supplyGoes _).after s rfl rfl
    exact lost.carried.trans (carried_startCoils _ (by rw [lost.sl]; exact e.1))
  · exact .refl s) s⟩

theorem coilCheck_carried (ohms : Nat) : Answers (.coilCheck ohms) (Carried d) := fun s => ⟨_, rfl, carried_take _ (fun s =>
  carried_ite (fun checking => by
    unfold State.testCoil
    split
    · extract_lets u
      have judged : Steady d s u := (steady_coilResult _ _ (s.advanceTo _)).after s rfl rfl
      refine carried_ite (fun _ => judged.carried.trans (carried_startUpClosure _ (by rw [judged.sl, checking]))) fun _ => ?_
      exact judged.carried.before rfl rfl
    all_goals exact .refl s) fun _ => .refl s) s⟩

theorem pulseEnd_carried : Answers .pulseEnd (Carried d) := fun s => ⟨_, rfl, carried_take _ (fun s => by
  split
  · exact ((steady_of_inside (inside_endPulse _ (s.advanceTo _))).after s rfl rfl).carried.trans (carried_checkStartUp _)
  all_goals exact .refl s) s⟩

theorem supplyLoss_carried : Answers .supplyLoss (Carried d) := fun s => ⟨_, rfl, carried_take _ (fun s =>
  carried_ite (fun _ => ((steady_supplyGoes s).trans (steady_of_inside
    ((((inside_cutPulse _).trans (inside_flushQueue _)).trans (inside_releaseChannels _)).trans
      (inside_reserveClosure ..)))).carried.trans (carried_checkStartUp _)) fun _ => .refl s) s⟩

theorem probeMeasurementEnd_steady (m : Measurement) (b : Option BedId) (s : State) :
    Steady d s (match b with | some b => s.readProbe b m.ending | none => s.readTemperature m.ending) := by
  split
  · exact steady_readProbe ..
  · exact steady_readTemperature ..

/-- An event whose operation leaves the setup loader alone. -/
theorem carried_event (f : State → State) (hf : ∀ s, Steady d s (f s)) (s : State) : Carried d s (s.take f) :=
  carried_take _ (fun s => (hf s).carried) s

theorem carried_row (tgt sel : Nat) (o : OrderKind) (args : Bool) (takes : BedId → State → Bool) (act : BedId → State → State)
    (ha : ∀ b s, Inside s (act b s)) (src len : Nat) (s : State) :
    Carried d s (s.order src tgt len (State.bedOrder tgt sel o args takes act)) :=
  carried_hand _ _ _ _ _ _ (fun s => steady_bedOrder _ _ _ _ _ _ (fun b s => steady_of_inside (ha b s)) s) s

/-- The commands that bring a day boundary with them, or can. -/
def takesDay : Instr → Bool
  | .dayRollover | .hourBoundary => true
  | _ => false

/-- Every command that is no start and does not begin ACTIVE lets the station state go on, and takes nothing from delivered
today but at a day boundary. -/
theorem answers_carried (i : Instr) (start : Instr.isStart i = false) (active : i ≠ .listeningTimerExpiry) :
    Answers i (Carried !takesDay i) := by
  cases i with
  | coldStart | warmStart | setupImageRead => exact nomatch start
  | listeningTimerExpiry => exact absurd rfl active
  | reserveWaitTimeout => exact reserveWaitTimeout_carried
  | coilCheck => exact coilCheck_carried _
  | reserveReady => exact reserveReady_carried
  | pulseEnd => exact pulseEnd_carried
  | supplyLoss => exact supplyLoss_carried
  | hourBoundary => exact fun s => ⟨_, rfl, carried_event _ steady_hourBoundary s⟩
  | dayRollover => exact fun s => ⟨_, rfl, carried_event _ steady_dayBoundary s⟩
  | rstnReturnsHigh => exact fun s => ⟨_, rfl, carried_ite (fun _ => ⟨.inl rfl, fun _ => .refl s⟩) fun _ => .refl s⟩
  | attnToggle | frameBegins | dominantLevel | frameAbandoned | discardQuietEnd | yieldingClear =>
    exact fun s => ⟨_, rfl, carried_ite (fun _ => carried_same rfl rfl) fun _ => .refl s⟩
  | slotEnd =>
    refine fun s => ⟨_, rfl, carried_ite (fun _ => ?_) fun _ => .refl s⟩
    rw [enterOwnSlot_rest]
    exact carried_same rfl rfl
  | attemptBegin =>
    refine fun s => ⟨_, rfl, carried_ite (fun _ => ?_) fun _ => .refl s⟩
    unfold State.beginAttempt
    split <;> exact carried_same rfl rfl
  | answerByteStart =>
    refine fun s => ⟨_, rfl, ?_⟩
    split
    · exact carried_ite (fun _ => carried_same rfl rfl) fun _ => .refl s
    all_goals exact .refl s
  | answerCollision =>
    refine fun s => ⟨_, rfl, ?_⟩
    split
    · exact carried_ite (fun _ => carried_same rfl rfl) fun _ => .refl s
    all_goals exact .refl s
  | invalidFrame =>
    exact fun s => ⟨_, rfl, carried_ite (fun _ => (carried_finish _).after s rfl rfl) fun _ => .refl s⟩
  | malformedNotice => exact fun s => ⟨_, rfl, carried_hand _ _ _ _ _ _ (fun s => .refl s) s⟩
  | duplicateNumberEvent => exact fun s => ⟨_, rfl, carried_receive _ _ _ _ (fun s => .refl s) s⟩
  | unhandedFrameReceived => exact fun s => ⟨_, rfl, carried_receive _ _ _ _ (fun s => .refl s) s⟩
  | tallyReceived => exact fun s => ⟨_, rfl, carried_hand _ _ _ _ _ _ (fun s => steady_takeTally _ _ s) s⟩
  | claimReceived => exact fun s => ⟨_, rfl, carried_hand _ _ _ _ _ _ (fun s => steady_takeClaim _ _ _ _ _ s) s⟩
  | commitReceived => exact fun s => ⟨_, rfl, carried_hand _ _ _ _ _ _ (fun s => steady_takeCommit _ _ s) s⟩
  | dropReceived => exact fun s => ⟨_, rfl, carried_hand _ _ _ _ _ _ (fun s => steady_remove _ _ s) s⟩
  | freeReceived => exact fun s => ⟨_, rfl, carried_hand _ _ _ _ _ _ (fun s => steady_takeFree _ _ s) s⟩
  | shedReceived => exact fun s => ⟨_, rfl, carried_hand _ _ _ _ _ _ (fun s => steady_takeShed _ _ _ s) s⟩
  | skyReceived =>
    exact fun s => ⟨_, rfl, carried_hand _ _ _ _ _ _ (fun s => steady_ite (fun _ => steady_adopt _ _ s) fun _ => .refl s) s⟩
  | water => exact fun s => ⟨_, rfl, carried_row _ _ _ _ _ _ (fun b s => inside_waterBed _ b s) _ _ s⟩
  | skip => exact fun s => ⟨_, rfl, carried_row _ _ _ _ _ _ (fun b s => inside_skipBed b s) _ _ s⟩
  | target => exact fun s => ⟨_, rfl, carried_row _ _ _ _ _ _ (fun b s => inside_targetBed _ _ b s) _ _ s⟩
  | pause =>
    exact fun s => ⟨_, rfl, carried_hand _ _ _ _ _ _ (fun s => steady_stationOrder _ _ _ _ _ (fun s => steady_joinHold _ s) s) s⟩
  | resume =>
    exact fun s => ⟨_, rfl, carried_hand _ _ _ _ _ _ (fun s => steady_stationOrder _ _ _ _ _ (fun s => steady_leaveHold _ s) s) s⟩
  | clear =>
    exact fun s => ⟨_, rfl, carried_hand _ _ _ _ _ _ (fun s => steady_stationOrder _ _ _ _ _ (fun s => steady_clearOrder _ s) s) s⟩
  | clock =>
    exact fun s => ⟨_, rfl, carried_hand _ _ _ _ _ _ (fun s => steady_stationOrder _ _ _ _ _ (fun s => steady_setClock _ s) s) s⟩
  | query =>
    refine fun s => ⟨_, rfl, carried_hand _ _ _ _ _ _ (fun s => ?_) s⟩
    split
    · exact steady_bedOrder _ _ _ _ _ _ (fun _ _ => steady_of_inside (inside_offer _ rfl _)) s
    · exact steady_stationOrder _ _ _ _ _ (fun _ => steady_of_inside (inside_offer _ rfl _)) s
  | collision =>
    refine fun s => ⟨_, rfl, carried_ite (fun _ => Carried.trans (Steady.carried ?_) (carried_finish _)) fun _ => .refl s⟩
    exact (steady_of_inside ((inside_raiseRun _).trans (inside_dropCancelled _))).after s rfl rfl
  | transmissionCompletes =>
    refine fun s => ⟨_, rfl, ?_⟩
    split
    · exact carried_ite (fun _ => (steady_complete ..).carried.trans (carried_finish _)) fun _ => .refl s
    · exact .refl s
  | dayClockTick =>
    exact fun s => ⟨_, rfl, carried_ite (fun _ => carried_ite (fun _ => (steady_tickClock s).carried.trans (carried_finish _))
      fun _ => (steady_tickClock s).carried) fun _ => .refl s⟩
  | lineLossClosure =>
    refine fun s => ⟨_, rfl, carried_event _ (fun s => ?_) s⟩
    exact steady_ite
      (fun _ => (steady_of_inside (inside_closeLine (s.advanceTo _))).after s rfl rfl) fun _ => .refl s
  | tallyFallsDue =>
    refine fun s => ⟨_, rfl, carried_event _ (fun s => ?_) s⟩
    split
    · exact (steady_tallyDue _).after s rfl rfl
    · exact .refl s
  | peerExpiry =>
    refine fun s => ⟨_, rfl, carried_event _ (fun s => ?_) s⟩
    split
    · exact steady_ite (fun _ => .refl s) fun _ => (steady_expire _ (s.advanceTo _)).after s rfl rfl
    · exact .refl s
  | pendingLapse =>
    refine fun s => ⟨_, rfl, carried_event _ (fun s => ?_) s⟩
    split
    · exact steady_ite (fun _ => .refl s) fun _ => (steady_remove _ _ (s.advanceTo _)).after s rfl rfl
    · exact .refl s
  | resolutionTimerExpiry =>
    refine fun s => ⟨_, rfl, carried_event _ (fun s => ?_) s⟩
    split
    · exact (steady_of_inside (inside_resolve _)).after s rfl rfl
    · exact .refl s
  | victimTimerExpiry =>
    refine fun s => ⟨_, rfl, carried_event _ (fun s => ?_) s⟩
    split
    · exact (steady_of_inside (inside_dropClaim (s.advanceTo _))).after s rfl rfl
    · exact .refl s
  | courtesyDelayEnd =>
    refine fun s => ⟨_, rfl, carried_event _ (fun s => ?_) s⟩
    split
    · exact steady_ite (fun _ => .refl s) fun _ => steady_same rfl rfl
    · exact .refl s
  | backoffEnd b =>
    refine fun s => ⟨_, rfl, carried_event _ (fun s => ?_) s⟩
    split
    · have ended : ∀ t, Steady (!takesDay (.backoffEnd b)) s ((s.advanceTo t).modBed b fun x => { x with backoffEnd := none }) :=
        fun t => (steady_modBed b _ (s.advanceTo t) fun _ => min_le_left ..).after s rfl rfl
      exact (ended _).trans (steady_same rfl rfl)
    · exact .refl s
  | waitAgeTick b =>
    refine fun s => ⟨_, rfl, carried_event _ (fun s => ?_) s⟩
    split
    · exact (steady_modBed b _ (s.advanceTo _) fun _ => min_le_left ..).after s rfl rfl
    · exact .refl s
  | runDayLimit b =>
    refine fun s => ⟨_, rfl, carried_event _ (fun s => ?_) s⟩
    split
    · exact (steady_of_inside (inside_toIdle b (s.advanceTo _))).after s rfl rfl
    · exact .refl s
  | soakEnd b =>
    refine fun s => ⟨_, rfl, carried_event _ (fun s => ?_) s⟩
    split
    · exact (steady_of_inside (inside_endSoak b (s.advanceTo _))).after s rfl rfl
    · exact .refl s
  | recoveryEnd =>
    refine fun s => ⟨_, rfl, carried_event _ (fun s => ?_) s⟩
    split
    · exact (steady_of_inside (inside_kick _)).after s rfl rfl
    all_goals exact .refl s
  | pullInEnd b =>
    refine fun s => ⟨_, rfl, carried_event _ (fun s => ?_) s⟩
    split
    · exact (steady_of_inside (inside_endPullIn b _ (s.advanceTo _))).after s rfl rfl
    all_goals exact .refl s
  | coilSupplyMeasurement =>
    refine fun s => ⟨_, rfl, carried_event _ (fun s => ?_) s⟩
    exact steady_same rfl rfl
  | supplyGood =>
    refine fun s => ⟨_, rfl, carried_event _ (fun s => ?_) s⟩
    exact steady_ite (fun _ => steady_supplyComes s) fun _ => .refl s
  | supplyReturn =>
    refine fun s => ⟨_, rfl, carried_event _ (fun s => ?_) s⟩
    exact steady_ite (fun _ => ((steady_leaveHold .supply s).trans
      (steady_supplyComes _)).trans (steady_of_inside (inside_forBeds _ inside_recloseBed _))) fun _ => .refl s
  | flowEdge | flowFilteredLevelChange | rainFilteredLevelChange =>
    refine fun s => ⟨_, rfl, carried_event _ (fun s => ?_) s⟩
    exact steady_ite (fun _ => steady_same rfl rfl) fun _ => .refl s
  | edgeCounterOverflow =>
    refine fun s => ⟨_, rfl, carried_event _ (fun s => ?_) s⟩
    split
    · exact steady_same rfl rfl
    · exact .refl s
  | rateWindowEnd =>
    refine fun s => ⟨_, rfl, carried_event _ (fun s => ?_) s⟩
    exact (steady_endWindow (s.advanceTo _)).after s rfl rfl
  | confirmTimerExpiry b =>
    refine fun s => ⟨_, rfl, carried_event _ (fun s => ?_) s⟩
    split
    · exact (steady_of_inside (inside_bedConfirmed b (s.advanceTo _))).after s rfl rfl
    · exact .refl s
  | confirmLimit b =>
    refine fun s => ⟨_, rfl, carried_event _ (fun s => ?_) s⟩
    split
    · exact steady_ite (fun _ => (steady_of_inside (inside_giveUpConfirm b (s.advanceTo _))).after s rfl rfl) fun _ => .refl s
    · exact .refl s
  | scanStart =>
    refine fun s => ⟨_, rfl, carried_event _ (fun s => ?_) s⟩
    exact steady_ite (fun _ => (steady_visitFrom ..).after s rfl rfl) fun _ => .refl s
  | probeSettleEnd =>
    refine fun s => ⟨_, rfl, carried_event _ (fun s => ?_) s⟩
    split
    · exact steady_same rfl rfl
    all_goals exact .refl s
  | probeMeasurementEnd =>
    refine fun s => ⟨_, rfl, carried_event _ (fun s => ?_) s⟩
    split
    · extract_lets m u _ v w
      have read : Steady true s w := (probeMeasurementEnd_steady m _ v).after s rfl rfl
      exact read.trans (steady_visitFrom ..)
    all_goals exact .refl s
  | rainTip =>
    refine fun s => ⟨_, rfl, carried_event _ (fun s => ?_) s⟩
    exact steady_ite (fun _ => steady_ite
      (fun _ => (steady_skyDue _).after s rfl rfl) fun _ => steady_same rfl rfl) fun _ => .refl s
  | skyTimerExpiry =>
    refine fun s => ⟨_, rfl, carried_event _ (fun s => ?_) s⟩
    split
    · exact (steady_skyDue _).after s rfl rfl
    · exact .refl s
  | weatherRecordStale =>
    refine fun s => ⟨_, rfl, carried_event _ (fun s => ?_) s⟩
    exact steady_ite (fun _ => .refl s)
      fun _ => (steady_goStale (s.advanceTo _)).after s rfl rfl
  | pwmPeriodBoundary =>
    refine fun s => ⟨_, rfl, carried_event _ (fun s => ?_) s⟩
    exact steady_same rfl rfl

/-! ### Starts -/

/-- The end of LOADING leads to CHECKING or to UNCONFIGURED. -/
theorem station_loadImage (image : List Byte) (f r : Bool) (s : State) :
    (s.loadImage image f r).sl.station = .checking ∨ (s.loadImage image f r).sl.station = .unconfigured := by
  unfold State.loadImage
  extract_lets u v
  have kept : v.takeKept.firstTally.sl = v.sl := ((steady_takeKept v).trans (steady_firstTally _)).sl
  rw [kept]
  show (match imageError image with | none => u.takeSetup image | some o => u.takeNoSetup image o).sl.station = _
    ∨ (match imageError image with | none => u.takeSetup image | some o => u.takeNoSetup image o).sl.station = _
  split
  · exact .inl rfl
  · exact .inr rfl

theorem setupImageRead_mayBecome (image : List Byte) (f r : Bool) :
    Answers (.setupImageRead image f r) fun s t => s.sl.station.mayBecome t.sl.station = true := fun s => by
  refine ⟨_, rfl, ?_⟩
  split
  · exact Onward.mayBecome (.inl rfl)
  · rename_i held
    have loading : s.sl.station = .loading := by
      simp only [State.live, Bool.or_eq_true, decide_eq_true_eq, not_or, not_not] at held
      exact held.1
    rw [(inside_finish _).sl, loading]
    rcases station_loadImage image f r s with e | e <;> rw [e] <;> rfl

theorem listeningTimerExpiry_mayBecome :
    Answers .listeningTimerExpiry fun s t => s.sl.station.mayBecome t.sl.station = true := fun s => by
  refine ⟨_, rfl, ?_⟩
  unfold State.take
  split
  · rw [(inside_finish _).sl]
    dsimp only
    split
    · rename_i listening
      rw [listening]
      rfl
    · exact Onward.mayBecome (.inl rfl)
  · exact Onward.mayBecome (.inl rfl)

theorem listeningTimerExpiry_delivers : Answers .listeningTimerExpiry Delivers := fun s => by
  refine ⟨_, rfl, ?_⟩
  unfold State.take
  split
  · refine Delivers.trans ?_ ((carried_finish (d := true) _).delivers rfl)
    dsimp only
    split
    · exact .refl s
    · exact .refl s
  · exact .refl s

/-! ### The statements -/

/-- Settles O57: no command but a start touches setup and number; the state's table by what each command lets go on. -/
theorem stationStateAndSetupChangeByTheTable : Obligations.StationStateAndSetupChangeByTheTable := by
  refine ⟨fun i s t start answer => ?_, fun i s t cold warm answer => ?_, fun i s t start answer => ?_⟩
  · have within := answers_unique (answers_within i start) answer
    exact ⟨within.setup, within.own⟩
  · by_cases active : i = .listeningTimerExpiry
    · exact answers_unique (active ▸ listeningTimerExpiry_mayBecome) answer
    · by_cases start : Instr.isStart i = true
      · cases i with
        | coldStart => exact absurd rfl cold
        | warmStart => exact absurd rfl warm
        | setupImageRead image f r => exact answers_unique (setupImageRead_mayBecome image f r) answer
        | _ => exact nomatch start
      · exact (answers_unique (answers_carried i (Bool.not_eq_true _ ▸ start) active) answer).onward.mayBecome
  · rcases start with rfl | rfl <;> exact Host.Outcome.next.inj answer ▸ rfl

/-- Settles O58: a warm start keeps delivered today, and every other command lets it be or adds a credit. -/
theorem deliveredFallsAtADayBoundaryAlone : Obligations.DeliveredFallsAtADayBoundaryAlone := by
  intro i s t cold day hour image answer
  show Delivers s t
  by_cases active : i = .listeningTimerExpiry
  · exact answers_unique (active ▸ listeningTimerExpiry_delivers) answer
  · by_cases start : Instr.isStart i = true
    · cases i with
      | coldStart => exact absurd rfl cold
      | warmStart =>
        obtain rfl := Host.Outcome.next.inj answer
        intro b
        rw [bed_warmStart]
        exact min_le_left ..
      | setupImageRead im f r => exact absurd rfl (image im f r)
      | _ => exact nomatch start
    · have other : takesDay i = false := by
        cases i with
        | dayRollover => exact absurd rfl day
        | hourBoundary => exact absurd rfl hour
        | _ => rfl
      exact (answers_unique (answers_carried i (Bool.not_eq_true _ ▸ start) active) answer).delivers (by rw [other]; rfl)

end Sys2Proof.StationStates

/-! PROOFS. The starts, ATTN and the end of LISTENING. -/

namespace Sys2Proof.StartValues

open Sys2Proof.Machine

/-! ### Starts -/

/-- Settles O3: the reset state is written out, and COLD_START is the reset state with time, pins and queue kept. -/
theorem coldStartReachesTheStartValues : Obligations.ColdStartReachesTheStartValues := by
  refine ⟨⟨rfl, rfl, rfl, rfl, rfl, rfl, rfl, rfl, rfl, rfl, rfl, rfl, rfl, rfl, rfl, rfl, fun b => ?_, rfl, rfl, rfl, rfl,
    rfl, rfl, rfl, rfl, rfl, rfl, rfl, rfl, rfl, rfl, rfl, rfl, rfl, rfl, rfl, rfl, rfl, fun c => ?_, rfl, rfl, rfl, rfl, rfl,
    rfl⟩, fun _ => rfl⟩
  · fin_cases b <;> decide
  · cases c <;> decide

/-- Settles O4: every bed of the warm start is the old one's kept part. -/
theorem warmStartKeepsTheRecordsAndClearsTheRest : Obligations.WarmStartKeepsTheRecordsAndClearsTheRest := by
  intro s
  have kept (b : BedId) : s.warmStart.bed b = (s.bed b).kept := EveryStep.bed_warmStart b s
  refine ⟨s.warmStart, rfl, rfl, rfl, rfl, fun b => ?_, rfl, rfl, rfl, rfl, rfl, rfl, rfl, rfl, rfl, rfl, rfl, rfl, rfl, rfl,
    rfl, rfl, rfl, rfl, rfl, fun b => ?_, ?_, rfl, rfl, rfl, rfl, rfl, rfl, rfl, rfl, rfl, rfl, rfl, rfl, rfl, rfl, rfl, rfl, rfl⟩
  · rw [kept b]; exact ⟨rfl, rfl, rfl⟩
  · rw [kept b]
    refine ⟨rfl, rfl, rfl, ?_, rfl, rfl, rfl, rfl, rfl, rfl, rfl, rfl, rfl, ?_, ?_⟩ <;> fin_cases b <;> rfl
  · have off (b : BedId) : decide ((s.warmStart.bed b).state = .waiting) = false := by rw [kept b]; rfl
    simp [State.waitQueue, off]

/-! ### LISTENING -/

/-- Settles O6: the timer's event sets ACTIVE and notes an occasion, and its end is further work. -/
theorem listeningEndsInActive : Obligations.ListeningEndsInActive := by
  intro s listening
  have live : s.live = true := by simp [State.live, listening]
  refine ⟨_, rfl, ?_⟩
  simp only [State.take, live, if_true, listening]
  exact ((inside_noteOccasion _).trans (inside_finish _)).further

/-! ### ATTN -/

/-- Settles O59. -/
theorem attnFollowsTheLatches : Obligations.AttnFollowsTheLatches := by
  intro s
  refine ⟨fun low => ?_, fun high quiet => ?_, fun high pending => ⟨_, ?_, rfl, ?_⟩⟩
  · exact ⟨by simp [State.attn, low], by simp [exec, execRstnReturnsHigh, low]⟩
  · simp [State.attn, high, quiet]
  · simp [exec, execAttnToggle, high, pending, State.advanceTo, Config.attnHalf, Config.millisecond]
  · have same (h : Bool) (n m : Nat) : State.anyPending { s with au.half := h, now := n, au.halfSince := m } = true := pending
    simp only [State.attn, high, pending, same]
    rfl

end Sys2Proof.StartValues

/-! PROOFS. The rules of needs and of a credit's end, as functions. -/

namespace Sys2Proof.NeedRules

open Sys2Proof.Machine

/-- Settles O45: the four branches of the end test, read off one after the other. -/
theorem endTestsInOrder : Obligations.EndTestsInOrder := by
  intro u x r
  unfold endTest
  by_cases met : r.need ≤ r.delivered
  · simp [met, not_lt.2 met]
  · by_cases cap : x.ordered = false ∧ 10 * u.cap ≤ x.delivered
    · have reached : ¬ x.delivered < 10 * u.cap := not_lt.2 cap.2
      simp [met, not_le.1 met, cap.1, cap.2]
    · have under : x.ordered = true ∨ x.delivered < 10 * u.cap := by
        cases h : x.ordered
        · exact .inr (not_le.1 fun le => cap ⟨h, le⟩)
        · exact .inl rfl
      have skip : ¬ ((!x.ordered && decide (10 * u.cap ≤ x.delivered)) = true) := by
        simpa using fun h => not_le.1 fun le => cap ⟨h, le⟩
      by_cases done : 10 * u.cycle ≤ r.cycleDelivered
      · simp [met, not_le.1 met, under, cap, done, skip]
      · simp [met, not_le.1 met, under, cap, done, skip, not_le.1 done]

/-- A need under probe rules is positive, and its urgency is the wetness's. -/
theorem probeNeed_eq_some {u : BedSetup} {x : Bed} {cls room w n : Nat} {v : Urgency} (h : probeNeed u x cls room w = some (n, v)) :
    v = probeUrgency u.floor x.start w := by
  unfold probeNeed at h
  split at h
  · cases h
  · dsimp only at h
    split at h <;> simp_all

/-- Settles O47: the urgency's three ranges; with no room the need is 0. -/
theorem probeUrgencyFollowsTheWetness : Obligations.ProbeUrgencyFollowsTheWetness := by
  intro u x cls room w
  refine ⟨fun n v h => ?_, by simp [probeNeed]⟩
  rw [probeNeed_eq_some h]
  unfold probeUrgency
  refine ⟨fun severe => if_pos severe, fun above dry => ?_, fun above wetter => ?_⟩
  · rw [if_neg (by omega), if_pos (by omega)]
  · rw [if_neg (by omega), if_neg (by omega)]

/-- Settles O48: both rules, branch by branch. -/
theorem needsFollowWetnessAndDebt : Obligations.NeedsFollowWetnessAndDebt := by
  refine ⟨fun u x cls room w _ => ⟨fun above => ?_, fun below => ⟨fun zero => ?_, fun some => ?_⟩⟩,
    fun threshold debt room => ⟨fun small => ?_, fun zero => ?_, fun need some twice => ?_, fun need some once => ?_⟩⟩
  · exact if_pos above
  · exact (if_neg (not_lt.2 below)).trans (if_pos zero)
  · exact ⟨_, (if_neg (not_lt.2 below)).trans (if_neg some.ne')⟩
  · exact if_pos small
  · unfold debtNeed
    split
    · rfl
    · exact if_pos zero
  · simp [debtNeed, not_lt.2 need, some.ne', twice]
  · simp [debtNeed, not_lt.2 need, some.ne', not_le.2 once]

end Sys2Proof.NeedRules

/-! PROOFS. The order of the wait queue and the choice of a shed's victim. -/

namespace Sys2Proof.Queues

open Sys2Proof.Machine

/-! ### The wait queue (R96) -/

theorem rank_inj {u v : Urgency} : Urgency.rank u = Urgency.rank v ↔ u = v := by cases u <;> cases v <;> decide

theorem ahead_iff (s : State) (a b : BedId) : s.ahead a b = true ↔
    Urgency.rank (s.bed b).urgency < Urgency.rank (s.bed a).urgency
      ∨ Urgency.rank (s.bed a).urgency = Urgency.rank (s.bed b).urgency
        ∧ ((s.bed b).waitAge < (s.bed a).waitAge ∨ (s.bed a).waitAge = (s.bed b).waitAge ∧ a.val < b.val) := by
  simp [State.ahead]

theorem ahead_trans {s : State} {a b c : BedId} (h : s.ahead a b = true) (g : s.ahead b c = true) : s.ahead a c = true := by
  simp only [ahead_iff] at *
  omega

theorem ahead_of_not_ahead {s : State} {a b : BedId} (ne : a ≠ b) (h : ¬ s.ahead a b = true) : s.ahead b a = true := by
  simp only [ahead_iff] at *
  have : a.val ≠ b.val := fun e => ne (Fin.ext e)
  omega

theorem place_perm (s : State) (b : BedId) (l : List BedId) : (s.place b l).Perm (b :: l) := by
  induction l with
  | nil => exact .refl _
  | cons a l ih =>
    unfold State.place
    split
    · exact .refl _
    · exact (ih.cons a).trans (.swap ..)

/-- A bed that takes its place keeps the order. -/
theorem place_pairwise {s : State} {b : BedId} {l : List BedId} (new : b ∉ l) (h : l.Pairwise fun x y => s.ahead x y = true) :
    (s.place b l).Pairwise fun x y => s.ahead x y = true := by
  induction l with
  | nil => exact List.pairwise_singleton ..
  | cons a l ih =>
    obtain ⟨first, rest⟩ := List.pairwise_cons.1 h
    obtain ⟨ne, new⟩ := not_or.1 (mt List.mem_cons.2 new)
    unfold State.place
    split
    · rename_i before
      exact List.pairwise_cons.2 ⟨fun x hx => (List.mem_cons.1 hx).elim (fun e => e ▸ before) fun m => ahead_trans before (first x m), h⟩
    · rename_i behind
      refine List.pairwise_cons.2 ⟨fun x hx => ?_, ih new rest⟩
      rcases List.mem_cons.1 ((place_perm s b l).mem_iff.1 hx) with rfl | m
      · exact ahead_of_not_ahead ne behind
      · exact first x m

/-- Beds that take their places one after the other. -/
theorem placeAll {s : State} (l q : List BedId) (distinct : (q ++ l).Nodup) (h : q.Pairwise fun x y => s.ahead x y = true) :
    (l.foldl (fun q b => s.place b q) q).Perm (q ++ l)
      ∧ (l.foldl (fun q b => s.place b q) q).Pairwise fun x y => s.ahead x y = true := by
  induction l generalizing q with
  | nil => exact ⟨by simp, h⟩
  | cons b l ih =>
    have perm : (s.place b q ++ l).Perm (q ++ b :: l) := ((place_perm s b q).append_right l).trans List.perm_middle.symm
    have new : b ∉ q := fun m => by
      have := List.disjoint_of_nodup_append distinct m
      simp at this
    obtain ⟨p, sorted⟩ := ih (s.place b q) (perm.nodup_iff.2 distinct) (place_pairwise new h)
    exact ⟨p.trans perm, sorted⟩

theorem waitQueue_sorted (s : State) : s.waitQueue.Perm (allBeds.filter fun b => decide ((s.bed b).state = .waiting))
    ∧ s.waitQueue.Pairwise fun x y => s.ahead x y = true := by
  have distinct : allBeds.Nodup := by decide
  exact placeAll (s := s) (allBeds.filter fun b => decide ((s.bed b).state = .waiting)) [] ((List.nil_append _).symm ▸ distinct.filter _) .nil

/-- Settles O49: the queue is the WAITING beds, placed one by one. -/
theorem waitQueueIsOrdered : Obligations.WaitQueueIsOrdered := by
  intro s
  obtain ⟨perm, sorted⟩ := waitQueue_sorted s
  have distinct : allBeds.Nodup := by decide
  refine ⟨perm.nodup_iff.2 (distinct.filter _), fun b => ?_, sorted.imp fun h => ?_⟩
  · rw [perm.mem_iff]
    simp [mem_allBeds]
  · rw [ahead_iff, rank_inj] at h
    exact h

/-! ### The victim (R73) -/

/-- Settles O51: the first that qualifies from the book's end. -/
theorem victimIsTheLatestThatQualifies : Obligations.VictimIsTheLatestThatQualifies := by
  intro shortfall age book good
  have qualifies (e : Entry) : e.sheddable shortfall age = true ↔ good e := by
    simp [Entry.sheddable, good, and_assoc, Nat.lt_succ_iff]
  refine ⟨?_, fun e => ?_⟩
  · simp [victimOf, qualifies]
  · simp only [victimOf, List.find?_eq_some_iff_append, List.reverse_eq_append_iff, List.reverse_cons, List.append_assoc,
      List.singleton_append, qualifies, Bool.not_eq_true', ← Bool.not_eq_true]
    constructor
    · rintro ⟨g, as, bs, book, h⟩
      exact ⟨_, _, book, g, fun d hd => h d (List.mem_reverse.1 hd)⟩
    · rintro ⟨before, after, book, g, h⟩
      exact ⟨g, after.reverse, before.reverse, by simpa using book, fun d hd => h d (List.mem_reverse.1 hd)⟩

end Sys2Proof.Queues

/-! PROOFS. A frame is read back to the command it was laid out from (section 2.1, R16, R20). -/

namespace Sys2Proof.ReadBack

open Sys2Proof.Machine

/-! ### Fields -/

theorem toNat_byte {n : Nat} (h : n ≤ 255) : (byte n).toNat = n := by
  simp [byte]; omega

theorem word2_bytes2 {n : Nat} (h : n ≤ 65535) : word2 (byte (n % 256)) (byte (n / 256)) = n := by
  rw [word2, toNat_byte (by omega), toNat_byte (by omega)]
  omega

theorem urgencyOf_code (u : Urgency) : urgencyOf (byte u.code).toNat = some u := by cases u <;> rfl

theorem toInt_ofInt {t : Int} (low : -128 ≤ t) (high : t ≤ 127) : (BitVec.ofInt 8 t).toInt = t := by
  rw [BitVec.toInt_ofInt]
  exact Int.bmod_eq_of_le (by omega) (by omega)

/-! ### Payloads -/

/-- The layout of this command's payload is read back, and a station hands its kind on. -/
def Reads (i : Instr) (kind : Nat) (p : List Byte) : Prop :=
  readPayload i.route.1 i.route.2 kind p = some i ∧ handedKind kind = true ∧ (i.route.1 ≠ 0 ∨ kind = 9)

theorem readBed_byte {hi bed : Nat} (k : Nat → Instr) (h : bed ≤ hi) (top : hi ≤ 255) : readBed hi k [byte bed] = some (k bed) := by
  simp [readBed, toNat_byte (h.trans top), h]

theorem reads_claim {s t b f : Nat} {u : Urgency} {a : Nat} (w : Instr.wf (.claimReceived s t b f u a) = true) :
    Reads (.claimReceived s t b f u a) 2 [byte b, byte f, byte u.code, byte a] := by
  simp only [Instr.wf, peerSource, inRange, claimFits, Bool.and_eq_true, decide_eq_true_eq] at w
  refine ⟨?_, rfl, .inl (by simp only [Instr.route]; omega)⟩
  simp [readPayload, readClaim, urgencyOf_code, Instr.route, toNat_byte (show b ≤ 255 by omega), toNat_byte (show f ≤ 255 by omega),
    toNat_byte (show a ≤ 255 by omega), claimFits, inRange, w]

theorem reads_shed {s t v c : Nat} {u : Urgency} (w : Instr.wf (.shedReceived s t v c u) = true) :
    Reads (.shedReceived s t v c u) 6 [byte v, byte c, byte u.code] := by
  simp only [Instr.wf, peerSource, inRange, shedFits, Bool.and_eq_true, decide_eq_true_eq] at w
  refine ⟨?_, rfl, .inl (by simp only [Instr.route]; omega)⟩
  simp [readPayload, readShed, urgencyOf_code, Instr.route, toNat_byte (show v ≤ 255 by omega), toNat_byte (show c ≤ 255 by omega),
    shedFits, inRange, w]

theorem reads_sky {s t : Nat} {k : Sky} (w : Instr.wf (.skyReceived s t k) = true) : Reads (.skyReceived s t k) 7 k.layout := by
  obtain ⟨temperature, recentRain, dayRain, hourRain, hourIndex, evapClass, minute⟩ := k
  have fits : Sky.fits ⟨temperature, recentRain, dayRain, hourRain, hourIndex, evapClass, minute⟩ = true := by
    simp only [Instr.wf, Bool.and_eq_true] at w
    exact w.2
  simp only [Instr.wf, peerSource, inRange, Sky.fits, Bool.and_eq_true, Bool.or_eq_true, decide_eq_true_eq, beq_iff_eq] at w
  refine ⟨?_, rfl, .inl (by simp only [Instr.route]; omega)⟩
  simp only [readPayload, Sky.layout, bytes2, List.cons_append, List.nil_append, readSky, Instr.route]
  rw [toInt_ofInt (by omega) (by omega), word2_bytes2 (by omega), word2_bytes2 (by omega), word2_bytes2 (by omega),
    word2_bytes2 (by omega), toNat_byte (by omega), toNat_byte (by omega), fits]
  rfl

theorem status_urgency (u : Urgency) (c : Bool) : urgencyOf ((byte (u.code + bitAt c 2)).toNat % 4) = some u := by
  cases u <;> cases c <;> rfl

theorem status_committed (u : Urgency) (c : Bool) : (byte (u.code + bitAt c 2)).getLsbD 2 = c := by
  cases u <;> cases c <;> rfl

theorem readEntries_layout (l : List TallyEntry) (h : l.all TallyEntry.fits = true) :
    readEntries (l.flatMap TallyEntry.layout) = some l := by
  induction l with
  | nil => rfl
  | cons e l ih =>
    obtain ⟨bed, flow, urgency, committed⟩ := e
    obtain ⟨fits, rest⟩ := Bool.and_eq_true_iff.1 ((List.all_cons ..).symm.trans h)
    have ranges := fits
    simp only [TallyEntry.fits, inRange, Bool.and_eq_true, decide_eq_true_eq] at ranges
    simp only [List.flatMap_cons, TallyEntry.layout, List.cons_append, List.nil_append, readEntries, status_urgency, ih rest,
      status_committed]
    rw [toNat_byte (by omega), toNat_byte (by omega), if_pos fits]

/-- The five marks of a TALLY in one byte. -/
theorem marks_bits (a b c d e : Bool) :
    let m := byte (bitAt a 0 + bitAt b 1 + bitAt c 2 + bitAt d 3 + bitAt e 4)
    m.getLsbD 0 = a ∧ m.getLsbD 1 = b ∧ m.getLsbD 2 = c ∧ m.getLsbD 3 = d ∧ m.getLsbD 4 = e := by
  revert a b c d e
  decide

theorem reads_tally {s t : Nat} {y : TallyNotice} (w : Instr.wf (.tallyReceived s t y) = true) : Reads (.tallyReceived s t y) 1 y.layout := by
  obtain ⟨weatherSource, saturated, unconfigured, barred, holds, budget, entries⟩ := y
  have fits : TallyNotice.fits ⟨weatherSource, saturated, unconfigured, barred, holds, budget, entries⟩ = true := by
    simp only [Instr.wf, Bool.and_eq_true] at w
    exact w.2
  simp only [Instr.wf, peerSource, inRange, TallyNotice.fits, Bool.and_eq_true, Bool.or_eq_true, decide_eq_true_eq, beq_iff_eq] at w
  obtain ⟨m0, m1, m2, m3, m4⟩ := marks_bits weatherSource saturated unconfigured barred holds
  refine ⟨?_, rfl, .inl (by simp only [Instr.route]; omega)⟩
  simp only [readPayload, TallyNotice.layout, readTally, Instr.route, readEntries_layout entries w.2.2, m0, m1, m2, m3, m4]
  rw [toNat_byte (by omega), toNat_byte (by omega), fits]
  simp

/-- The payload of every well-formed command but a malformed notice is read back. -/
theorem reads_payload {i : Instr} {kind : Nat} {p : List Byte} (w : i.wf = true) (h : i.payload = some (kind, p))
    (formed : ∀ s t k q, i ≠ .malformedNotice s t k q) : Reads i kind p := by
  cases i <;> simp only [Instr.payload, Option.some.injEq, Prod.mk.injEq, reduceCtorEq] at h <;> obtain ⟨rfl, rfl⟩ := h
  case tallyReceived => exact reads_tally w
  case claimReceived => exact reads_claim w
  case shedReceived => exact reads_shed w
  case skyReceived => exact reads_sky w
  case malformedNotice s t k q => exact absurd rfl (formed s t k q)
  case commitReceived | dropReceived | freeReceived =>
    simp only [Instr.wf, peerSource, inRange, Bool.and_eq_true, decide_eq_true_eq] at w
    exact ⟨readBed_byte _ w.2.2 (by omega), rfl, .inl (by simp only [Instr.route]; omega)⟩
  all_goals
    simp only [Instr.wf, orderSource, byteValue, word2Value, inRange, Bool.and_eq_true, decide_eq_true_eq] at w
    refine ⟨?_, rfl, .inr rfl⟩
    simp [readPayload, readOrder, bytes2, Instr.route, toNat_byte, word2_bytes2, w]

/-! ### Frames -/

/-- A well-formed command's payload and its numbers fit the line (section 1.2). -/
theorem wire_limits {i : Instr} {kind : Nat} {p : List Byte} (w : i.wf = true) (h : i.payload = some (kind, p)) :
    p.length ≤ 24 ∧ i.route.1 ≤ 15 ∧ i.route.2 ≤ 15 := by
  cases i <;> simp only [Instr.payload, reduceCtorEq] at h
  case tallyReceived => exact Laws.Wire.tallyReceived _ _ _ w _ h
  case claimReceived => exact Laws.Wire.claimReceived _ _ _ _ _ _ w _ h
  case commitReceived => exact Laws.Wire.commitReceived _ _ _ w _ h
  case dropReceived => exact Laws.Wire.dropReceived _ _ _ w _ h
  case freeReceived => exact Laws.Wire.freeReceived _ _ _ w _ h
  case shedReceived => exact Laws.Wire.shedReceived _ _ _ _ _ w _ h
  case skyReceived => exact Laws.Wire.skyReceived _ _ _ w _ h
  case water => exact Laws.Wire.water _ _ _ _ w _ h
  case skip => exact Laws.Wire.skip _ _ _ w _ h
  case pause => exact Laws.Wire.pause _ _ _ w _ h
  case resume => exact Laws.Wire.resume _ _ _ w _ h
  case target => exact Laws.Wire.target _ _ _ _ _ w _ h
  case clear => exact Laws.Wire.clear _ _ _ _ w _ h
  case query => exact Laws.Wire.query _ _ _ _ w _ h
  case clock => exact Laws.Wire.clock _ _ _ _ w _ h
  case malformedNotice => exact Laws.Wire.malformedNotice _ _ _ _ w _ h


/-- A station reads the frame of a notice that is for it, and not from its own number. -/
theorem frameCommand_frameBytes {own src tgt kind : Nat} {p : List Byte} (room : p.length ≤ 24) (source : src ≤ 15) (target : tgt ≤ 15)
    (handed : handedKind kind = true) (other : src ≠ own) (here : tgt = 0 ∨ tgt = own) (peer : src ≠ 0 ∨ kind = 9) :
    frameCommand own (frameBytes src tgt kind p) = (readPayload src tgt kind p).getD (.malformedNotice src tgt kind p) := by
  have kinds : kind ≤ 255 := by
    simp only [handedKind, inRange, Bool.or_eq_true, Bool.and_eq_true, decide_eq_true_eq, beq_iff_eq] at handed
    omega
  have passed : (decide (15 < src) || !(tgt == 0 || tgt == own) || !handedKind kind || (src == 0 && kind != 9)) = false := by
    simp only [handed, Bool.or_eq_false_iff, Bool.and_eq_false_iff, Bool.not_eq_false', Bool.or_eq_true, beq_iff_eq, bne_eq_false_iff_eq,
      decide_eq_false_iff_not, beq_eq_false_iff_ne, here, not_lt.2 source, peer, not_false_eq_true, and_self]
  obtain ⟨check1, check2, bytes⟩ : ∃ x y, frameBytes src tgt kind p
      = byte 0x6B :: byte kind :: byte src :: byte tgt :: byte p.length :: (p ++ [x, y]) := ⟨_, _, rfl⟩
  have matched := LineCheck.checkMatches_frameBytes src tgt kind p
  rw [bytes] at matched ⊢
  unfold frameCommand
  simp only [matched, List.getD_cons_succ, List.getD_cons_zero, toNat_byte kinds, toNat_byte (show src ≤ 255 by omega),
    toNat_byte (show tgt ≤ 255 by omega), toNat_byte (show p.length ≤ 255 by omega), List.drop_succ_cons, List.drop_zero,
    List.take_left, passed, beq_eq_false_iff_ne.2 other]
  rfl

/-- Settles O53: the frame's fields are the command's, and its payload is read back. -/
theorem framesReadBackToTheirCommand : Obligations.FramesReadBackToTheirCommand := by
  intro own i f w laid other here
  obtain ⟨⟨kind, p⟩, payload, rfl⟩ := Option.map_eq_some_iff.1 laid
  obtain ⟨room, source, target⟩ := wire_limits w payload
  by_cases formed : ∀ s t k q, i ≠ .malformedNotice s t k q
  · obtain ⟨read, handed, peer⟩ := reads_payload w payload formed
    rw [frameCommand_frameBytes room source target handed other here peer, read]
    rfl
  · simp only [not_forall, not_not] at formed
    obtain ⟨s, t, k, q, rfl⟩ := formed
    obtain ⟨rfl, rfl⟩ := Prod.mk.inj (Option.some.inj payload)
    simp only [Instr.wf, peerSource, inRange, Bool.and_eq_true, Bool.or_eq_true, decide_eq_true_eq, beq_iff_eq,
      Option.isNone_iff_eq_none] at w
    obtain ⟨⟨⟨⟨sources, _⟩, handed⟩, _⟩, unread⟩ := w
    rw [frameCommand_frameBytes room source target handed other here (by simp only [Instr.route]; omega)]
    simp only [Instr.route, unread]
    rfl

end Sys2Proof.ReadBack

/-! PROOFS. The receiver's marks, the answer byte and the beginning of an attempt. -/

namespace Sys2Proof.LineMarks

open Sys2Proof.Machine

/-! ### The receiver (R5, R7, R8, R12) -/

/-- An own SHED's slot is known from its attempt (R7). -/
theorem ownSlot_shed {s : State} {a : Attempt} {h : Queued} {q : List Queued} (attempt : s.li.attempt = some a)
    (queue : s.tq.queue = h :: q) (shed : h.notice.isShed = true) : s.ownSlot = some (a.start + 50 * a.bytes.length) := by
  simp only [State.ownSlot, attempt, queue, shed, if_true, attemptEnd, Config.bitTime]

/-- Outside FRAME no slot of an own SHED begins. -/
theorem enterOwnSlot_of_ne {s : State} (h : s.li.rx ≠ .frame) : s.enterOwnSlot = s := by
  unfold State.enterOwnSlot
  split
  · exact if_neg h
  · rfl

/-- Settles O9: each row's arm, at the state it is enabled in. -/
theorem receiverMarksAndAnswersChange : Obligations.ReceiverMarksAndAnswersChange := by
  refine ⟨fun why s live => ⟨fun rx quiet => ?_, fun rx quiet => ?_, fun rx => ?_, fun rx => ?_, fun rx => ?_⟩,
    fun r s live => ⟨fun yielding rx => ?_, fun answer rx => ?_, fun answer => ?_⟩, fun a h q s live attempt queue shed rx => ?_⟩
  · simp [exec, execFrameBegins, live, rx, quiet]
  · simp [exec, execFrameAbandoned, State.receiving, live, rx, quiet, State.receiveError]
  · simp [exec, execDiscardQuietEnd, live, rx, State.advanceTo, Config.slotTime, Config.bitTime]
  · have same : s.enterOwnSlot = s := enterOwnSlot_of_ne (by simp [rx])
    simp [exec, execSlotEnd, live, rx, same, State.endSlot, State.advanceTo, Config.slotTime, Config.bitTime]
  · rcases rx with rx | rx <;> simp [exec, execDominantLevel, live, rx]
  · rcases rx with rx | rx <;>
      simp [exec, execYieldingClear, live, rx, yielding, State.advanceTo, Config.yieldTime, Config.bitTime]
  · simp [exec, execAnswerByteStart, live, rx, answer, State.advanceTo, Config.answerTime, Config.bitTime]
  · simp [exec, execAnswerCollision, live, answer, State.countCollision]
  · have slot := ownSlot_shed attempt queue shed
    have receiver : s.receiver = if a.start + 50 * a.bytes.length ≤ s.now then .slot else .frame := by
      simp [State.receiver, State.inOwnSlot, slot, rx]
    have entered : s.enterOwnSlot = { s.advanceTo (a.start + 50 * a.bytes.length) with
        li.rx := .slot, li.slotSince := a.start + 50 * a.bytes.length } := by simp [State.enterOwnSlot, slot, rx]
    refine ⟨receiver, by simp [State.idleCount, rx], fun past => ?_, ?_⟩
    · simp [exec, execCollision, receiver, past]
    · simp [exec, execSlotEnd, live, entered, State.endSlot, State.advanceTo, Config.slotTime, Config.bitTime]

/-! ### Attempts (R3, R10, R11, R21) -/

/-- Settles O10: the arm at an enabled state, and the frames as they are defined. -/
theorem attemptBeginsAfterTheGap : Obligations.AttemptBeginsAfterTheGap := by
  refine ⟨fun h q s live rx quiet clear queue => ?_, fun s => ⟨rfl, fun _ _ _ _ => rfl, fun _ => rfl, fun _ => rfl, fun _ => rfl,
    fun _ _ _ => rfl, fun _ => rfl, fun _ _ _ => rfl, fun _ => rfl, fun _ => rfl⟩, fun s => ⟨rfl, rfl, ?_, ?_, ?_, rfl, rfl⟩⟩
  · have begins : s.gapEnd = s.li.idleSince + (16 + 3 * s.sl.own) * 5 := rfl
    have enabled : s.mayBegin = true := by simp [State.mayBegin, live, rx, quiet, clear, queue]
    simp [exec, execAttemptBegin, enabled, State.beginAttempt, queue, begins, State.advanceTo]
  · simp [State.tally]
  · simp [State.tally]
  · have every (h : Holds) : h.any = true ↔ ∃ r, h.has r = true := by
      constructor
      · intro any
        simp only [Holds.any, Bool.or_eq_true] at any
        rcases any with ((((a | a) | a) | a) | a) | a
        exacts [⟨.rain, a⟩, ⟨.defer, a⟩, ⟨.freeze, a⟩, ⟨.pause, a⟩, ⟨.supply, a⟩, ⟨.line, a⟩]
      · rintro ⟨r, has⟩
        cases r <;> simp_all [Holds.any, Holds.has]
    exact every s.bc.holds

end Sys2Proof.LineMarks

/-! PROOFS. The end of an event, field by field: after its ALERTs alone, and after an offer occasion. -/

namespace Sys2Proof.Machine

variable {s t u : State}

/-! ### After the ALERTs -/

namespace AfterAlerts

theorem now (h : AfterAlerts s t) : t.now = s.now := by rw [h.1]
theorem sl (h : AfterAlerts s t) : t.sl = s.sl := by rw [h.1]
theorem li (h : AfterAlerts s t) : t.li = s.li := by rw [h.1]
theorem sb (h : AfterAlerts s t) : t.sb = s.sb := by rw [h.1]
theorem bc (h : AfterAlerts s t) : t.bc = s.bc := by rw [h.1]
theorem vd (h : AfterAlerts s t) : t.vd = s.vd := by rw [h.1]
theorem fm (h : AfterAlerts s t) : t.fm = s.fm := by rw [h.1]
theorem pw (h : AfterAlerts s t) : t.pw = s.pw := by rw [h.1]
theorem headRun (h : AfterAlerts s t) : t.tq.headRun = s.tq.headRun := by rw [h.1]
theorem tallySince (h : AfterAlerts s t) : t.tq.tallySince = s.tq.tallySince := by rw [h.1]
theorem record (h : AfterAlerts s t) : t.au.record = s.au.record := by rw [h.1]
theorem more (h : AfterAlerts s t) : t.au.more = s.au.more := by rw [h.1]
theorem refused (h : AfterAlerts s t) : t.au.refused = s.au.refused := by rw [h.1]
theorem collisions (h : AfterAlerts s t) : t.au.collisions = s.au.collisions := by rw [h.1]
theorem bed (h : AfterAlerts s t) (b : BedId) : t.bed b = s.bed b := by rw [State.bed, h.bc]; rfl
theorem valve (h : AfterAlerts s t) (b : BedId) : t.valve b = s.valve b := by rw [State.valve, h.vd]; rfl
theorem peers (h : AfterAlerts s t) : t.peers = s.peers := by rw [State.peers, h.sb, h.sl]; rfl

/-- What waits goes on waiting, in its place. -/
theorem queue (h : AfterAlerts s t) : ∃ l, t.tq.queue = s.tq.queue ++ l := by
  obtain ⟨_, ⟨l, e, _⟩, _⟩ := h
  exact ⟨l, e⟩

theorem mem_queue (h : AfterAlerts s t) {q : Queued} (m : q ∈ s.tq.queue) : q ∈ t.tq.queue := by
  obtain ⟨l, e⟩ := h.queue
  rw [e]
  exact List.mem_append_left _ m

end AfterAlerts

/-- The ALERTs alone, said of a taken event by its state before the end. -/
theorem take_alerts {f : State → State} (live : s.live = true) (h : Settled (f s)) : AfterAlerts (f s) (s.take f) :=
  take_settled live rfl h

/-! ### After an offer occasion -/

/-- A WAITING bed that was offered (R66). -/
def Bed.claims (x : Bed) : Bed := { x with state := .claiming, backoffEnd := none, soakSince := none }

/-- A bed's record is as it was, or the bed stood in WAITING and was offered. -/
def MayClaim (x y : Bed) : Prop := y = x ∨ x.state = .waiting ∧ y = x.claims

theorem MayClaim.of_not_waiting {x y : Bed} (h : MayClaim x y) (w : x.state ≠ .waiting) : y = x :=
  h.resolve_right fun g => w g.1

/-- What an offer keeps of a bed. -/
theorem MayClaim.kept {x y : Bed} (h : MayClaim x y) : y.run = x.run ∧ y.need = x.need ∧ y.urgency = x.urgency
    ∧ y.ordered = x.ordered ∧ y.skip = x.skip ∧ y.waitAge = x.waitAge ∧ y.targets = x.targets ∧ y.start = x.start ∧ y.stop = x.stop
    ∧ y.fault = x.fault := by
  rcases h with rfl | ⟨_, rfl⟩ <;> exact ⟨rfl, rfl, rfl, rfl, rfl, rfl, rfl, rfl, rfl, rfl⟩

/-- A bed in WAITING waits on or claims. -/
theorem MayClaim.waiting {x y : Bed} (h : MayClaim x y) (w : x.state = .waiting) : y.state = .waiting ∨ y.state = .claiming := by
  rcases h with rfl | ⟨_, rfl⟩
  · exact .inl w
  · exact .inr rfl

/-- What weighing an occasion can change: one WAITING bed is offered. -/
structure Offered (s t : State) : Prop extends Inside s t where
  beds : ∀ b, MayClaim (s.bed b) (t.bed b)
  book : t.sb.book = s.sb.book
  vd : t.vd = s.vd
  sameHolds : t.bc.holds = s.bc.holds
  waits : ∃ l, t.tq.queue = s.tq.queue ++ l
  claim : t.sb.claim.phase = .sending ∨ t.sb.claim = s.sb.claim
  more : t.au.more = s.au.more
  sameRecord : t.au.record = s.au.record

theorem Offered.refl (s : State) : Offered s s :=
  ⟨.refl s, fun _ => .inl rfl, rfl, rfl, rfl, ⟨[], by simp⟩, .inr rfl, rfl, rfl⟩

theorem Offered.alerts (h : Offered s t) (k : Inside t u) (a : AfterAlerts t u) : Offered s u where
  toInside := h.toInside.trans k
  beds b := by rw [a.bed]; exact h.beds b
  book := by rw [a.sb, h.book]
  vd := by rw [a.vd, h.vd]
  sameHolds := by rw [a.bc, h.sameHolds]
  waits := by
    obtain ⟨l, e⟩ := h.waits
    obtain ⟨m, g⟩ := a.queue
    exact ⟨l ++ m, by rw [g, e, List.append_assoc]⟩
  claim := by rw [a.sb]; exact h.claim
  more := by rw [a.more, h.more]
  sameRecord := by rw [a.record, h.sameRecord]

theorem offer_waits (n : Notice) (s : State) : ∃ l, (s.offer n).tq.queue = s.tq.queue ++ l := by
  unfold State.offer
  split
  · exact ⟨_, rfl⟩
  · split
    · rw [State.setPending_rest]; exact ⟨[], (List.append_nil _).symm⟩
    · exact ⟨[], (List.append_nil _).symm⟩

theorem offer_fault (n : Notice) (s : State) : (s.offer n).au.record = s.au.record ∧ (s.offer n).au.more = s.au.more := by
  unfold State.offer
  split
  · exact ⟨rfl, rfl⟩
  · split
    · unfold State.setPending
      split <;> exact ⟨rfl, rfl⟩
    · exact ⟨rfl, rfl⟩

theorem moveBed_waits (b : BedId) (st : BedState) (s : State) : (s.moveBed b st).tq = s.tq ∧ (s.moveBed b st).sb = s.sb
    ∧ (s.moveBed b st).vd = s.vd ∧ (s.moveBed b st).au = s.au ∧ (s.moveBed b st).bc.holds = s.bc.holds := ⟨rfl, rfl, rfl, rfl, rfl⟩

theorem offered_offerBed {b : BedId} (waiting : (s.bed b).state = .waiting) : Offered s (s.offerBed b) where
  toInside := inside_offerBed b s
  beds d := by
    unfold State.offerBed
    simp only [Overdraw.bed_moveBed]
    rw [Overdraw.offer_rest]
    split
    · rename_i e
      subst e
      exact .inr ⟨waiting, rfl⟩
    · exact .inl rfl
  book := by
    unfold State.offerBed
    rw [(moveBed_waits ..).2.1, Overdraw.offer_rest]
  vd := by
    unfold State.offerBed
    rw [(moveBed_waits ..).2.2.1, Overdraw.offer_rest]
  sameHolds := by
    unfold State.offerBed
    rw [(moveBed_waits ..).2.2.2.2, Overdraw.offer_rest]
  waits := by
    unfold State.offerBed
    rw [(moveBed_waits ..).1]
    exact offer_waits ..
  claim := by
    unfold State.offerBed
    rw [(moveBed_waits ..).2.1, Overdraw.offer_rest]
    exact .inl rfl
  more := by
    unfold State.offerBed
    rw [(moveBed_waits ..).2.2.2.1]
    exact (offer_fault ..).2
  sameRecord := by
    unfold State.offerBed
    rw [(moveBed_waits ..).2.2.2.1]
    exact (offer_fault ..).1

/-- The bed that an occasion finds stands in WAITING. -/
theorem waiting_of_find {p : BedId → Bool} {b : BedId} (h : s.waitQueue.find? p = some b) : (s.bed b).state = .waiting := by
  have m := List.mem_of_find?_eq_some h
  rw [(Queues.waitQueue_sorted s).1.mem_iff] at m
  simpa [mem_allBeds] using m

theorem offered_weighOccasion (s : State) : Offered s s.weighOccasion := by
  unfold State.weighOccasion
  split
  · split
    · rename_i found
      exact offered_offerBed (waiting_of_find found)
    · exact .refl s
  · exact .refl s

theorem offered_same (hb : t.bc.beds = s.bc.beds) (book : t.sb.book = s.sb.book) (claim : t.sb.claim = s.sb.claim)
    (vd : t.vd = s.vd) (holds : t.bc.holds = s.bc.holds) (tq : t.tq = s.tq) (au : t.au = s.au) (k : Inside s t) : Offered s t where
  toInside := k
  beds b := .inl (by rw [State.bed, hb]; rfl)
  book := book
  vd := vd
  sameHolds := holds
  waits := ⟨[], by rw [tq, List.append_nil]⟩
  claim := .inr claim
  more := by rw [au]
  sameRecord := by rw [au]

/-- Weighing an occasion comes after a change that it does not see. -/
theorem Offered.after (h : Offered t u) (k : Offered s t) (none : t.sb.claim = s.sb.claim) (same : t.bc.beds = s.bc.beds) : Offered s u where
  toInside := k.toInside.trans h.toInside
  beds b := by
    have e : t.bed b = s.bed b := by rw [State.bed, same]; rfl
    rw [← e]; exact h.beds b
  book := h.book.trans k.book
  vd := h.vd.trans k.vd
  sameHolds := h.sameHolds.trans k.sameHolds
  waits := by
    obtain ⟨l, e⟩ := k.waits
    obtain ⟨m, g⟩ := h.waits
    exact ⟨l ++ m, by rw [g, e, List.append_assoc]⟩
  claim := by rw [← none]; exact h.claim
  more := h.more.trans k.more
  sameRecord := h.sameRecord.trans k.sameRecord

/-- An event that changed no book ends with an offer at most, and its ALERTs. -/
theorem offered_finish (clean : s.sb.dirty = false) : Offered s s.finish := by
  cases noted : s.bc.occasion with
  | false =>
    exact (Offered.refl s).alerts (inside_finish s) (finish_settled s ⟨clean, noted⟩)
  | true =>
    unfold State.finish
    rw [settle_occasion s clean noted]
    have k : Inside s { s with bc.occasion := false } := by
      have h := inside_marks s.sb.dirty false s
      exact h
    have h : Offered s { s with bc.occasion := false } := offered_same rfl rfl rfl rfl rfl rfl rfl k
    exact ((offered_weighOccasion _).after h rfl rfl).alerts (inside_offerAlerts _) (afterAlerts_offerAlerts _)

end Sys2Proof.Machine

/-! PROOFS. Frames that are not handed on, the order gate, group addressing and QUERY. -/

namespace Sys2Proof.FramesAndOrders

open Sys2Proof.Machine

variable {s t : State}

/-! ### What a frame's end leaves as it was -/

@[simp] theorem frameTaken_bed (src len : Nat) (b : BedId) (s : State) : (s.frameTaken src len).bed b = s.bed b := by
  rw [frameTaken_rest]; rfl

@[simp] theorem frameTaken_setupOf (src len : Nat) (b : BedId) (s : State) : (s.frameTaken src len).setupOf b = s.setupOf b := by
  rw [frameTaken_rest]; rfl

@[simp] theorem frameTaken_presentBed (src len sel : Nat) (s : State) : (s.frameTaken src len).presentBed sel = s.presentBed sel := by
  rw [frameTaken_rest]; rfl

@[simp] theorem frameTaken_groupBeds (src len code : Nat) (s : State) : (s.frameTaken src len).groupBeds code = s.groupBeds code := by
  rw [frameTaken_rest]; rfl

@[simp] theorem frameTaken_tq (src len : Nat) (s : State) : (s.frameTaken src len).tq = s.tq := by
  rw [frameTaken_rest]

@[simp] theorem frameTaken_bc (src len : Nat) (s : State) : (s.frameTaken src len).bc = s.bc := by
  rw [frameTaken_rest]

@[simp] theorem frameTaken_vd (src len : Nat) (s : State) : (s.frameTaken src len).vd = s.vd := by
  rw [frameTaken_rest]

@[simp] theorem frameTaken_fm (src len : Nat) (s : State) : (s.frameTaken src len).fm = s.fm := by
  rw [frameTaken_rest]

@[simp] theorem frameTaken_pw (src len : Nat) (s : State) : (s.frameTaken src len).pw = s.pw := by
  rw [frameTaken_rest]

@[simp] theorem frameTaken_au (src len : Nat) (s : State) : (s.frameTaken src len).au = s.au := by
  rw [frameTaken_rest]

@[simp] theorem frameTaken_book (src len : Nat) (s : State) : (s.frameTaken src len).sb.book = s.sb.book := by
  rw [frameTaken_rest]

@[simp] theorem frameTaken_claim (src len : Nat) (s : State) : (s.frameTaken src len).sb.claim = s.sb.claim := by
  rw [frameTaken_rest]

@[simp] theorem frameTaken_stationReply (src len : Nat) (s : State) : (s.frameTaken src len).stationReply = s.stationReply := by
  rw [frameTaken_rest]; rfl

@[simp] theorem frameTaken_bedReply (src len : Nat) (b : BedId) (s : State) : (s.frameTaken src len).bedReply b = s.bedReply b := by
  rw [frameTaken_rest]; rfl

theorem frameTaken_answer (src len : Nat) (s : State) : (s.frameTaken src len).li.answer = .none := by
  unfold State.frameTaken State.refresh
  dsimp only
  split
  · split <;> rfl
  · rfl

theorem answer_own (r : Reply) (s : State) : s.answer s.sl.own r = { s with li.answer := .waiting r } := if_pos rfl

theorem answer_rest (tgt : Nat) (r : Reply) (s : State) : s.answer tgt r = { s with li := (s.answer tgt r).li } := by
  unfold State.answer
  split <;> rfl

@[simp] theorem answer_bc (tgt : Nat) (r : Reply) (s : State) : (s.answer tgt r).bc = s.bc := by rw [answer_rest]
@[simp] theorem answer_sb (tgt : Nat) (r : Reply) (s : State) : (s.answer tgt r).sb = s.sb := by rw [answer_rest]
@[simp] theorem answer_sl (tgt : Nat) (r : Reply) (s : State) : (s.answer tgt r).sl = s.sl := by rw [answer_rest]
@[simp] theorem answer_au (tgt : Nat) (r : Reply) (s : State) : (s.answer tgt r).au = s.au := by rw [answer_rest]

theorem answer_answer {own : Nat} (r : Reply) {s : State} (h : s.sl.own = own) : (s.answer own r).li.answer = .waiting r := by
  rw [← h, answer_own]

theorem settled_answer (tgt : Nat) (r : Reply) {s : State} (h : Settled s) : Settled (s.answer tgt r) := by
  rw [answer_rest]; exact h

/-! ### Frames (R6, R16, R20) -/

/-- A receive error, counted from a known count. -/
theorem receiveError_of {n : Nat} (h : s.au.rxErrors = n) : s.receiveError = { s with au.rxErrors := min (n + 1) 255 } := by
  rw [← h]; rfl

/-- Settles O15: each frame is its effect at the frame's end, with nothing to settle. -/
theorem framesNotHandedOn : Obligations.FramesNotHandedOn := by
  refine ⟨fun s settled receiving => ⟨fun bytes => ⟨_, rfl, ?_⟩, fun src tgt kind p other here from' => ⟨_, rfl, ?_⟩⟩,
    fun src tgt kind len s settled receiving other => ⟨_, rfl, ?_⟩⟩
  · rw [if_pos receiving]
    exact finish_settled _ settled
  · rw [hand_unfit src tgt kind p.length receiving other here from']
    have counted : (s.frameTaken src p.length).receiveError
        = { s.frameTaken src p.length with au.rxErrors := min (s.au.rxErrors + 1) 255 } := receiveError_of (by rw [frameTaken_au])
    rw [counted]
    exact finish_settled _ (frameTaken_settled src p.length settled)
  · rw [receive_other src kind len receiving other]
    exact finish_settled _ (frameTaken_settled src len settled)

/-! ### The order gate (R103, R179) -/

/-- A station that an order hears is past LOADING. -/
theorem station_ne_loading (h : s.receiving = true) : s.sl.station ≠ .loading := by
  simp only [State.receiving, State.live, Bool.and_eq_true, decide_eq_true_eq] at h
  exact h.1.1

/-- WATER, SKIP, PAUSE, RESUME and TARGET pass in the same station states. -/
theorem passes_as_water (st : StationState) {k : OrderKind} (h : k ≠ .query ∧ k ≠ .clear ∧ k ≠ .clock) : st.passes k = st.passes .water := by
  obtain ⟨q, c, k'⟩ := h
  cases st <;> cases k <;> first | rfl | contradiction

theorem passes_query (h : s.receiving = true) : s.sl.station.passes .query = true := by
  have loaded := station_ne_loading h
  cases e : s.sl.station <;> first | rfl | exact absurd e loaded

theorem bedOrder_station {own sel : Nat} {k : OrderKind} {args : Bool} {takes : BedId → State → Bool} {act : BedId → State → State}
    (number : own ≠ 0) (station : s.sl.station.passes k = false) :
    s.bedOrder own sel k args takes act = s.refuse own k .stationState := by
  simp [State.bedOrder, number, station]

theorem bedOrder_range {own sel : Nat} {k : OrderKind} {args : Bool} {takes : BedId → State → Bool} {act : BedId → State → State}
    (number : own ≠ 0) (station : s.sl.station.passes k = true) (absent : s.presentBed sel = none) :
    s.bedOrder own sel k args takes act = s.refuse own k .bedRange := by
  simp [State.bedOrder, number, station, absent]

theorem bedOrder_argument {own sel : Nat} {k : OrderKind} {takes : BedId → State → Bool} {act : BedId → State → State}
    {b : BedId} (number : own ≠ 0) (station : s.sl.station.passes k = true) (present : s.presentBed sel = some b) :
    s.bedOrder own sel k false takes act = s.refuse own k .argument := by
  simp [State.bedOrder, number, station, present]

theorem bedOrder_bedOff {own sel : Nat} {k : OrderKind} {takes : BedId → State → Bool} {act : BedId → State → State}
    {b : BedId} (number : own ≠ 0) (station : s.sl.station.passes k = true) (present : s.presentBed sel = some b)
    (off : takes b s = false) : s.bedOrder own sel k true takes act = s.refuse own k .bedOff := by
  simp [State.bedOrder, number, station, present, off]

theorem bedOrder_taken {own sel : Nat} {k : OrderKind} {takes : BedId → State → Bool} {act : BedId → State → State}
    {b : BedId} (number : own ≠ 0) (station : s.sl.station.passes k = true) (present : s.presentBed sel = some b)
    (taken : takes b s = true) : s.bedOrder own sel k true takes act = (act b s).answer own .ack := by
  simp [State.bedOrder, number, station, present, taken]

theorem stationOrder_station {own sel : Nat} {k : OrderKind} {args : Bool} {act : State → State} (number : own ≠ 0)
    (station : s.sl.station.passes k = false) : s.stationOrder own sel k args act = s.refuse own k .stationState := by
  simp [State.stationOrder, number, station]

theorem stationOrder_argument {own sel : Nat} {k : OrderKind} {act : State → State} (number : own ≠ 0)
    (station : s.sl.station.passes k = true) : s.stationOrder own sel k false act = s.refuse own k .argument := by
  simp [State.stationOrder, number, station]

theorem stationOrder_taken {own sel : Nat} {k : OrderKind} {act : State → State} (number : own ≠ 0)
    (station : s.sl.station.passes k = true) : s.stationOrder own sel k true act = (act s).answer own .ack := by
  simp [State.stationOrder, number, station]

/-- By group the whole set takes the order where a window matches. -/
theorem groupOrder_taken {sel : Nat} {k : OrderKind} {act : List BedId → State → State} {l : List BedId}
    (station : s.sl.station.passes k = true) (group : s.groupBeds sel = some l) : s.groupOrder sel k true act = act l s := by
  simp [State.groupOrder, station, group]

theorem groupOrder_none {sel : Nat} {k : OrderKind} {args : Bool} {act : List BedId → State → State}
    (group : s.groupBeds sel = none) : s.groupOrder sel k args act = s := by
  simp [State.groupOrder, group]

theorem stationOrder_group {sel : Nat} {k : OrderKind} {act : State → State} {l : List BedId}
    (station : s.sl.station.passes k = true) (group : s.groupBeds sel = some l) : s.stationOrder 0 sel k true act = act s := by
  simp only [State.stationOrder, if_true]
  exact groupOrder_taken station group

theorem bedOrder_group {sel : Nat} {k : OrderKind} {takes : BedId → State → Bool} {act : BedId → State → State} {l : List BedId}
    (station : s.sl.station.passes k = true) (group : s.groupBeds sel = some l) :
    s.bedOrder 0 sel k true takes act = l.foldl (fun s b => s.groupBed k takes act b) s := by
  simp only [State.bedOrder, if_true]
  exact groupOrder_taken station group

/-- An order that the gate refuses records its kind and reason, and answers REFUSE. -/
theorem refused_alerts {src len : Nat} {k : OrderKind} {r : RefusalReason} {f : State → State} (settled : Settled s)
    (hears : s.hearsOrder src) (gate : f (s.frameTaken src len) = (s.frameTaken src len).refuse s.sl.own k r) :
    AfterAlerts { s.frameTaken src len with
      li := { (s.frameTaken src len).li with answer := .waiting .refuse }, au.refused := some (k, r) }
      (s.order src s.sl.own len f) := by
  have refused : (s.frameTaken src len).refuse s.sl.own k r = { s.frameTaken src len with
      li := { (s.frameTaken src len).li with answer := .waiting .refuse }, au.refused := some (k, r) } := by
    unfold State.refuse State.answer
    exact if_pos (frameTaken_own src len s ▸ rfl)
  rw [order_hears src len hears, gate, refused]
  exact finish_settled _ (frameTaken_settled src len settled)

/-- Settles O24: the gate's checks in their order, each at the state of the frame's end. -/
theorem orderGateRefusesInOrder : Obligations.OrderGateRefusesInOrder := by
  intro src sel n a z c f m s settled hears refused
  have own : s.sl.own ≠ 0 := hears.2.2.2
  have loaded := station_ne_loading hears.1
  have as_water {k : OrderKind} (h : k ≠ .query ∧ k ≠ .clear ∧ k ≠ .clock) : s.sl.station.passes k = s.sl.station.passes .water :=
    passes_as_water _ h
  have targets : s.sl.station.passes .target = s.sl.station.passes .water := as_water (by decide)
  have skips : s.sl.station.passes .skip = s.sl.station.passes .water := as_water (by decide)
  have pauses : s.sl.station.passes .pause = s.sl.station.passes .water := as_water (by decide)
  have resumes : s.sl.station.passes .resume = s.sl.station.passes .water := as_water (by decide)
  have asks := passes_query hears.1
  refine ⟨fun closed => ⟨⟨_, rfl, ?_⟩, ⟨_, rfl, ?_⟩, ⟨_, rfl, ?_⟩, ⟨_, rfl, ?_⟩, ⟨_, rfl, ?_⟩⟩,
    fun barred => ⟨⟨_, rfl, ?_⟩, ⟨_, rfl, ?_⟩⟩,
    fun passes absent => ⟨⟨_, rfl, ?_⟩, ⟨_, rfl, ?_⟩, ⟨_, rfl, ?_⟩, ⟨_, rfl, ?_⟩⟩,
    fun b passes present => ⟨fun range => ⟨_, rfl, ?_⟩, fun range => ⟨_, rfl, ?_⟩, fun off one top => ⟨_, rfl, ?_⟩, fun off => ⟨_, rfl, ?_⟩⟩,
    fun passes range => ⟨_, rfl, ?_⟩, fun passes range => ⟨_, rfl, ?_⟩, fun passes range => ⟨_, rfl, ?_⟩⟩
  · exact refused_alerts settled hears (bedOrder_station own (by simp [closed]))
  · exact refused_alerts settled hears (bedOrder_station own (by simp [closed, skips]))
  · exact refused_alerts settled hears (stationOrder_station own (by simp [closed, pauses]))
  · exact refused_alerts settled hears (stationOrder_station own (by simp [closed, resumes]))
  · exact refused_alerts settled hears (bedOrder_station own (by simp [closed, targets]))
  · exact refused_alerts settled hears (stationOrder_station own (by simp [barred, StationState.passes]))
  · exact refused_alerts settled hears (stationOrder_station own (by simp [barred, StationState.passes]))
  · exact refused_alerts settled hears (bedOrder_range own (by simpa) (by simpa))
  · exact refused_alerts settled hears (bedOrder_range own (by simpa [skips]) (by simpa))
  · exact refused_alerts settled hears (bedOrder_range own (by simpa [targets]) (by simpa))
  · rw [if_pos rfl]
    exact refused_alerts settled hears (bedOrder_range own (by simpa) (by simpa))
  · have args : inRange 1 2000 n = false := by simp [inRange]; omega
    rw [args]
    exact refused_alerts settled hears (bedOrder_argument own (by simpa) (by simpa using present))
  · have args : targetArgs a z = false := by simp [targetArgs]; omega
    rw [args]
    exact refused_alerts settled hears (bedOrder_argument own (by simpa [targets]) (by simpa using present))
  · have args : inRange 1 2000 n = true := by simp [inRange, one, top]
    rw [args]
    exact refused_alerts settled hears (bedOrder_bedOff (b := b) own (by simpa) (by simpa)
      (by rcases off with off | off <;> simp [State.takesWater, off]))
  · exact refused_alerts settled hears (bedOrder_bedOff (b := b) own (by simpa [skips]) (by simpa) (by simp [State.takesSkip, off]))
  · have args : decide (c ≤ 12) = false := by simp; omega
    rw [args]
    exact refused_alerts settled hears (stationOrder_argument own (by simpa))
  · have station : (f == 0) = false := by simp; omega
    have form : f ≠ 1 := by omega
    simp only [form, if_false, station]
    exact refused_alerts settled hears (stationOrder_argument own (by simpa))
  · have args : decide (m ≤ 1439) = false := by simp; omega
    rw [args]
    exact refused_alerts settled hears (stationOrder_argument own (by simpa))

/-! ### Groups (R180) -/

theorem getLsbD_byte (n i : Nat) (h : i < 8) : (byte n).getLsbD i = n.testBit i := by
  rw [byte, BitVec.getLsbD_ofNat, decide_eq_true h, Bool.true_and]

/-- A window matches a code where the two agree in every bit of the mask. -/
theorem matches_iff (w : GroupWindow) (code : Nat) :
    w.matches code = true ↔ ∀ i < 8, w.mask.getLsbD i = true → w.base.getLsbD i = code.testBit i := by
  unfold GroupWindow.matches
  rw [beq_iff_eq]
  constructor
  · intro h i hi mask
    have := congrArg (fun x => x.getLsbD i) h
    simp only [BitVec.getLsbD_and, mask, Bool.and_true, getLsbD_byte code i hi] at this
    exact this.symm
  · intro h
    refine BitVec.eq_of_getLsbD_eq fun i hi => ?_
    rw [BitVec.getLsbD_and, BitVec.getLsbD_and, getLsbD_byte code i hi]
    cases mask : w.mask.getLsbD i
    · simp
    · simp [h i hi mask]

theorem groupBeds_eq_none {code : Nat} : s.groupBeds code = none ↔ ∀ w ∈ s.sl.setup.groups, w.matches code = false := by
  unfold State.groupBeds
  split
  · rename_i empty
    simpa [List.filter_eq_nil_iff] using empty
  · rename_i some
    simp only [reduceCtorEq, false_iff]
    intro all
    exact some (List.filter_eq_nil_iff.2 fun w m => by simp [all w m])

theorem mem_groupBeds {code : Nat} {l : List BedId} (h : s.groupBeds code = some l) (b : BedId) :
    b ∈ l ↔ ∃ w ∈ s.sl.setup.groups, w.matches code = true ∧ w.beds.getLsbD b.val = true := by
  unfold State.groupBeds at h
  split at h
  · cases h
  · obtain rfl := Option.some.inj h
    simp [mem_allBeds]

/-- Settles O25. -/
theorem groupOrdersReachTheWindowsBeds : Obligations.GroupOrdersReachTheWindowsBeds := by
  intro code s
  refine ⟨groupBeds_eq_none, fun l h => mem_groupBeds h, fun w => matches_iff w code, fun src settled hears none => ⟨_, rfl, ?_⟩⟩
  rw [order_group src 2 hears]
  have idle : (s.frameTaken src 2).stationOrder 0 code .pause true (State.joinHold .pause) = s.frameTaken src 2 := by
    simp only [State.stationOrder, if_true]
    exact groupOrder_none (by simpa)
  rw [idle]
  exact finish_settled _ (frameTaken_settled src 2 settled)

/-! ### QUERY (R181) -/

/-- A general notice with room joins the tail. -/
theorem offer_admitted {n : Notice} {q : List Queued} (admits : s.sl.station.admits n = true) (queue : s.tq.queue = q)
    (room : q.length < 6) : s.offer n = { s with tq.queue := q ++ [⟨n, 0, false⟩] } := by
  subst queue
  refine if_pos ?_
  simp [State.admits, admits, room, Config.generalRoom]

/-- One without room sets DISCARD. -/
theorem offer_refused {n : Notice} (general : n.essential = false) (admits : s.sl.station.admits n = true)
    (full : 6 ≤ s.tq.queue.length) : s.offer n = s.setPending .discard 15 n.code := by
  have no : s.admits n = false := by simp [State.admits, general, Config.generalRoom, not_lt.2 full]
  simp [State.offer, no, admits]

/-- A REPLY is admitted in every station state but LOADING (R28). -/
theorem admits_reply {n : Notice} (st : StationState) (loaded : st ≠ .loading) (code : n.code = 10) : st.admits n = true := by
  cases st <;> simp_all [StationState.admits]

theorem settled_setPending (c : Cause) (bed value : Nat) (h : Settled s) : Settled (s.setPending c bed value) := by
  rw [State.setPending_rest]; exact h

/-- The fold of a group's QUERY: one REPLY after another joins the tail while there is room. -/
theorem foldl_replies {k : OrderKind} {q : List Queued} (l : List BedId) (form : BedId → Notice)
    (present : ∀ b ∈ l, (s.setupOf b).present = true) (admits : ∀ b, s.sl.station.admits (form b) = true)
    (queue : s.tq.queue = q) (room : q.length + l.length ≤ 6)
    (act : BedId → State → State) (acts : ∀ b (q : List Queued), act b { s with tq.queue := q } = State.offer (form b) { s with tq.queue := q }) :
    l.foldl (fun s b => s.groupBed k (fun _ _ => true) act b) s
      = { s with tq.queue := q ++ l.map fun b => ⟨form b, 0, false⟩ } := by
  subst queue
  suffices ∀ q : List Queued, q.length + l.length ≤ 6 →
      l.foldl (fun s b => s.groupBed k (fun _ _ => true) act b) { s with tq.queue := q }
        = { s with tq.queue := q ++ l.map fun b => ⟨form b, 0, false⟩ } from this s.tq.queue room
  clear room
  induction l with
  | nil => intro q _; simp
  | cons b l ih =>
    intro q room
    have here : State.groupBed k (fun _ _ => true) act b { s with tq.queue := q }
        = { s with tq.queue := q ++ [⟨form b, 0, false⟩] } := by
      have stands : (State.setupOf { s with tq.queue := q } b).present = true := present b (List.mem_cons_self ..)
      unfold State.groupBed
      rw [stands, acts]
      exact offer_admitted (s := { s with tq.queue := q }) (admits b) rfl (by simp at room ⊢; omega)
    rw [List.foldl_cons, here, ih (fun d m => present d (List.mem_cons_of_mem _ m)) _ (by simp at room ⊢; omega)]
    simp

theorem li_foldl_replies {k : OrderKind} (l : List BedId) (s : State) :
    (l.foldl (fun s b => s.groupBed k (fun _ _ => true) (fun b s => s.offer (.bedReply (s.bedReply b))) b) s).li = s.li := by
  refine (inside_foldl _ (fun s b => ?_) l s).li
  unfold State.groupBed
  split
  · exact inside_noteRefusal ..
  · split
    · exact inside_noteRefusal ..
    · exact inside_offer _ rfl _

/-- An accepted order of the station's own number is answered ACK. -/
theorem answer_of_order {src len : Nat} {f act : State → State} (hears : s.hearsOrder src) (same : ∀ u, Inside u (act u))
    (gate : f (s.frameTaken src len) = (act (s.frameTaken src len)).answer s.sl.own .ack) :
    (s.order src s.sl.own len f).li.answer = .waiting .ack := by
  rw [order_hears src len hears, (inside_finish _).li, gate]
  exact answer_answer _ (by rw [(same _).sl, frameTaken_own])

/-- A REPLY with room, in answer to an order by number. -/
theorem reply_alerts {src : Nat} {n : Notice} {f : State → State} (settled : Settled s) (hears : s.hearsOrder src) (code : n.code = 10)
    (room : s.tq.queue.length < 6) (gate : f (s.frameTaken src 3) = ((s.frameTaken src 3).offer n).answer s.sl.own .ack) :
    AfterAlerts (State.answer s.sl.own .ack { s.frameTaken src 3 with tq.queue := s.tq.queue ++ [⟨n, 0, false⟩] })
      (s.order src s.sl.own 3 f) := by
  have admits : (s.frameTaken src 3).sl.station.admits n = true := by
    rw [frameTaken_own]
    exact admits_reply _ (station_ne_loading hears.1) code
  rw [order_hears src 3 hears, gate, offer_admitted admits (by rw [frameTaken_tq]) room]
  exact finish_settled _ (settled_answer _ _ (frameTaken_settled src 3 settled))

theorem admits_frameTaken {src len : Nat} (h : s.receiving = true) (n : Notice) (code : n.code = 10) :
    (s.frameTaken src len).sl.station.admits n = true := by
  rw [frameTaken_own]
  exact admits_reply _ (station_ne_loading h) code

/-- Settles O31: by number, by group, and the two forms field by field. -/
theorem queryQueuesAReply : Obligations.QueryQueuesAReply := by
  refine ⟨fun src sel s settled hears => ?_, fun s => ?_, fun b s => ?_⟩
  · have own : s.sl.own ≠ 0 := hears.2.2.2
    have asks : (s.frameTaken src 3).sl.station.passes .query = true := by
      rw [frameTaken_own]; exact passes_query hears.1
    refine ⟨⟨_, rfl, ?_⟩, fun b present => ⟨_, rfl, ?_⟩, fun l group => ⟨⟨_, rfl, ?_⟩, ⟨_, rfl, ?_⟩⟩⟩
    · have gate : (s.frameTaken src 3).stationOrder s.sl.own sel .query (0 == 0) (fun s => s.offer (.stationReply s.stationReply))
          = ((s.frameTaken src 3).offer (.stationReply s.stationReply)).answer s.sl.own .ack := by
        rw [← frameTaken_stationReply src 3 s]
        exact stationOrder_taken own asks
      simp only [zero_ne_one, if_false]
      refine ⟨answer_of_order hears (fun u => inside_offer (.stationReply s.stationReply) rfl u) gate,
        fun room => reply_alerts settled hears rfl room gate, fun full => ?_⟩
      rw [order_hears src 3 hears, gate, offer_refused rfl (admits_frameTaken hears.1 _ rfl) (by simpa)]
      have still := settled_answer s.sl.own .ack
        (settled_setPending .discard 15 (Notice.code (.stationReply s.stationReply)) (frameTaken_settled src 3 settled))
      refine ⟨(inside_finish _).latched .discard ?_, ?_, ?_⟩
      · rw [State.latch, answer_au]
        exact congrArg Latch.pending (State.latch_setPending_same ..)
      · rw [(finish_settled _ still).bc, answer_bc, State.setPending_rest, frameTaken_bc]
      · rw [(finish_settled _ still).sb, answer_sb, State.setPending_rest, frameTaken_book]
    · have gate : (s.frameTaken src 3).bedOrder s.sl.own sel .query true (fun _ _ => true) (fun b s => s.offer (.bedReply (s.bedReply b)))
          = ((s.frameTaken src 3).offer (.bedReply (s.bedReply b))).answer s.sl.own .ack := by
        rw [← frameTaken_bedReply src 3 b s]
        exact bedOrder_taken own asks (by simpa using present) rfl
      rw [if_pos rfl]
      exact ⟨answer_of_order hears (fun u => inside_offer (.bedReply (s.bedReply b)) rfl u) gate,
        fun room => reply_alerts settled hears rfl room gate⟩
    · simp only [zero_ne_one, if_false, beq_self_eq_true]
      rw [order_group src 3 hears, stationOrder_group asks (by simpa using group), frameTaken_stationReply]
      refine ⟨?_, fun room => ?_⟩
      · rw [((inside_offer (.stationReply s.stationReply) rfl _).trans (inside_finish _)).li]
        exact frameTaken_answer src 3 s
      · rw [offer_admitted (admits_frameTaken hears.1 _ rfl) (by rw [frameTaken_tq]) room]
        exact finish_settled _ (frameTaken_settled src 3 settled)
    · rw [if_pos rfl, order_group src 3 hears, bedOrder_group asks (by simpa using group)]
      refine ⟨?_, fun present room => ?_⟩
      · rw [(inside_finish _).li, li_foldl_replies]
        exact frameTaken_answer src 3 s
      · rw [foldl_replies l (fun b => .bedReply (s.bedReply b)) (by simpa) (fun b => admits_frameTaken hears.1 _ rfl)
          (by rw [frameTaken_tq]) room _ (fun b q => ?_)]
        · exact finish_settled _ (frameTaken_settled src 3 settled)
        · rw [← frameTaken_bedReply src 3 b s]
          rfl
  · refine ⟨?_, ?_, rfl, rfl, rfl, ?_, ?_, ?_, ?_, rfl, rfl, ?_, ?_⟩
    · cases e : s.sl.station <;> simp [State.stationReply, StationState.code, e]
    · simp [State.stationReply, Holds.code, bitAt]
    · simp [State.stationReply, State.pendingCauses, Cause.all, bitAt, Cause.number]; omega
    · intro f record
      simp [State.stationReply, record]
    · intro record
      simp [State.stationReply, record]
    · simp [State.stationReply, bitAt]
    · intro k x refused
      simp [State.stationReply, refused]
    · intro refused
      simp [State.stationReply, refused]
  · refine ⟨rfl, ?_, ?_, ?_, ?_, ?_, ?_, ?_, ?_, ?_, rfl, rfl, rfl, rfl, rfl⟩
    · cases e : (s.bed b).state <;> simp [State.bedReply, BedState.code, e]
    · cases e : (s.bed b).fault with
      | none => simp [State.bedReply, e]
      | some f => cases f <;> simp [State.bedReply, e, BedFault.cause, Cause.number]
    · cases e : s.valve b <;> simp [State.bedReply, ValveState.code, e]
    · cases mode : (s.setupOf b).mode <;> simp [State.bedReply, bitAt, Bed.probeState, mode]
    · intro w wetness
      simp [State.bedReply, wetness]
    · intro wetness
      simp [State.bedReply, wetness]
    · intro y run
      simp [State.bedReply, Bed.needNow, run]
    · intro run
      simp [State.bedReply, Bed.needNow, run]
    · cases e : (s.bed b).urgency <;> simp [State.bedReply, Urgency.code, e]

end Sys2Proof.FramesAndOrders

/-! PROOFS. The meter's edges, held valves, and the offer of a bed. -/

namespace Sys2Proof.EdgesAndOffers

open Sys2Proof.Machine

variable {s t : State}

/-! ### The meter's input (R145, R146) -/

/-- Settles O43: the filtered level changes, and an edge captures the counter. -/
theorem flowEdgesCountAndTime : Obligations.FlowEdgesCountAndTime := by
  intro x s settled live pulses moment
  have metered : s.metered = true := decide_eq_true pulses
  refine ⟨fun level running short => ⟨_, rfl, take_settled live ?_ settled⟩, fun level stopped => ⟨_, rfl, take_settled live ?_ settled⟩,
    fun level => ⟨_, rfl, take_settled live ?_ settled⟩, fun running => ⟨_, rfl, take_settled live ?_ settled⟩⟩
  · have short' : (max s.now (s.fm.levelSince + 2 * 12) - x) / 12 < 65535 := short
    simp [metered, level, State.captureEdge, State.changeLevel, State.advanceTo, running, Config.millisecond, Config.edgeLimit,
      Config.flowFilter, short']
    exact ⟨rfl, rfl⟩
  · simp [metered, level, State.captureEdge, State.changeLevel, State.advanceTo, stopped, Config.millisecond, Config.flowFilter]
    rfl
  · simp [metered, level, State.changeLevel, State.advanceTo, Config.millisecond, Config.flowFilter]
    rfl
  · simp [running, State.advanceTo, Config.edgeLimit, Config.millisecond]

/-! ### Hold duty (R135) -/

theorem duty_ranges (duty : Nat) {volts : Nat} (some : 0 < volts) :
    20 ≤ dutyAt duty volts ∧ dutyAt duty volts ≤ 100
      ∧ (dutyAt duty volts < 100 → duty * 240 ≤ dutyAt duty volts * volts)
      ∧ (20 < dutyAt duty volts → (dutyAt duty volts - 1) * volts < duty * 240) := by
  have split := Nat.div_add_mod (duty * 240 + volts - 1) volts
  have rest := Nat.mod_lt (duty * 240 + volts - 1) some
  rw [mul_comm] at split
  unfold dutyAt
  rw [if_neg some.ne']
  generalize (duty * 240 + volts - 1) / volts = d at *
  refine ⟨le_max_left .., max_le (by decide) (min_le_left ..), fun low => ?_, fun high => ?_⟩
  · have whole : duty * 240 ≤ d * volts := by omega
    exact whole.trans (Nat.mul_le_mul_right _ (by omega))
  · have scaled : (max 20 (min 100 d) - 1) * volts ≤ (d - 1) * volts := Nat.mul_le_mul_right _ (by omega)
    have below : (d - 1) * volts + volts = d * volts := by
      rw [← Nat.succ_mul, Nat.succ_eq_add_one, Nat.sub_add_cancel (by omega)]
    omega

/-! ### A valve opens (R114, R115, R149) -/

/-- The OPEN report takes a bed in OPENING to CONFIRMING, or to RUNNING where it is confirmed at once. -/
theorem bed_bedOpened {b : BedId} (opening : (s.bed b).state = .opening) (d : BedId) :
    (s.bedOpened b).bed d = if d = b then { s.bed b with
      state := if (s.setupOf b).confirm = .immediate then .running else .confirming, backoffEnd := none, soakSince := none }
    else s.bed d := by
  unfold State.bedOpened
  rw [if_pos opening]
  extract_lets u _ v
  have moved (d : BedId) : v.bed d = if d = b then { s.bed b with state := .confirming, backoffEnd := none, soakSince := none }
      else s.bed d := Overdraw.bed_moveBed b d .confirming s
  have setup : v.setupOf b = s.setupOf b := rfl
  rw [setup]
  by_cases immediate : (s.setupOf b).confirm = .immediate
  · rw [if_pos immediate, if_pos immediate, State.bedConfirmed, if_pos (by rw [moved b, if_pos rfl]), Overdraw.bed_moveBed, moved, moved,
      if_pos rfl]
    split <;> rfl
  · rw [if_neg immediate, if_neg immediate, moved]

/-- The report writes beds and the flow monitor alone. -/
theorem bedOpened_rest (b : BedId) (s : State) :
    s.bedOpened b = { s with bc.beds := (s.bedOpened b).bc.beds, fm := (s.bedOpened b).fm } := by
  unfold State.bedOpened State.bedConfirmed
  dsimp only
  split
  · split
    · split <;> rfl
    · rfl
  · rfl

/-- The confirm timer starts at the report (R149). -/
theorem confirms_bedOpened {b : BedId} (opening : (s.bed b).state = .opening) (slow : (s.setupOf b).confirm ≠ .immediate) :
    (s.bedOpened b).fm.confirms.get b = some s.now := by
  unfold State.bedOpened
  rw [if_pos opening]
  extract_lets u _ v
  rw [if_neg (show ¬ (v.setupOf b).confirm = .immediate from slow)]
  exact PerBed.get_set_same ..

theorem channelOf_modChannel {b : BedId} {c : Channel} {f : Channel → Channel} (h : s.channelOf b = some c) (keep : ∀ c, (f c).bed = c.bed) :
    (s.modChannel b f).channelOf b = some (f c) := by
  have own (x : Channel) : (if x.bed = b then f x else x).bed = x.bed := by split <;> simp [keep]
  unfold State.channelOf at h
  unfold State.modChannel State.mapChannels State.channelOf
  cases a : s.vd.channelA with
  | none =>
    cases e : s.vd.channelB with
    | none => simp [a, e] at h
    | some y =>
      simp only [a, e, Option.map_none, Option.map_some] at h ⊢
      rw [own]
      split at h
      · rename_i hy; obtain rfl := Option.some.inj h; simp [hy]
      · cases h
  | some x =>
    cases e : s.vd.channelB with
    | none =>
      simp only [a, e, Option.map_none, Option.map_some] at h ⊢
      rw [own]
      split at h
      · rename_i hx; obtain rfl := Option.some.inj h; simp [hx]
      · cases h
    | some y =>
      simp only [a, e, Option.map_some] at h ⊢
      rw [own, own]
      split at h
      · rename_i hx; obtain rfl := Option.some.inj h; simp [hx]
      · rename_i hx
        rw [if_neg hx]
        split at h
        · rename_i hy; obtain rfl := Option.some.inj h; simp [hy]
        · cases h

theorem valve_setValve_ne {b d : BedId} (v : ValveState) (h : d ≠ b) : (s.setValve b v).valve d = s.valve d :=
  PerBed.get_set_ne _ _ h

/-- Settles O41. -/
theorem heldValvesPullInAndHold : Obligations.HeldValvesPullInAndHold := by
  refine ⟨fun b x volts s settled live => ⟨fun c channel pulls opening => ?_, ⟨_, rfl, ?_⟩, ⟨_, rfl, ?_⟩⟩,
    fun duty volts some => duty_ranges duty some⟩
  · let hold := fun c : Channel =>
      { c with phase := .hold, active := none, pending := some (dutyAt (s.setupOf b).duty s.vd.coilVolts) }
    have pulled : (s.channelOf b).map Channel.phase = some (.pullIn x false) := by rw [channel, Option.map_some, pulls]
    have ends : max s.now (x + tenMs s.sl.setup.pullIn) = max s.now (x + s.sl.setup.pullIn * 120) := rfl
    set v := (s.advanceTo (x + tenMs s.sl.setup.pullIn)).setValve b .opened with hv
    have opened : (v.bed b).state = .opening := opening
    set u := (v.bedOpened b).modChannel b hold with hu
    have rest : u = { v with
        bc.beds := u.bc.beds, fm := u.fm, vd := (v.modChannel b hold).vd } := by
      rw [hu, bedOpened_rest]; rfl
    have still : Settled u := by rw [rest]; exact settled
    obtain ⟨t, run, h⟩ : ∃ t, exec (.pullInEnd b) s = .next t ∧ AfterAlerts u t := by
      refine ⟨_, rfl, take_settled live ?_ still⟩
      have fields : (v.bedOpened b).vd.coilVolts = s.vd.coilVolts ∧ (v.bedOpened b).setupOf b = s.setupOf b := by
        rw [bedOpened_rest]; exact ⟨rfl, rfl⟩
      simp only [pulled, State.endPullIn]
      rw [← hv, fields.1, fields.2]
      rfl
    have beds (d : BedId) : u.bed d = if d = b then { s.bed b with
        state := if (s.setupOf b).confirm = .immediate then .running else .confirming, backoffEnd := none, soakSince := none }
        else s.bed d := bed_bedOpened opened d
    have channels : u.channelOf b = some (hold c) := by
      have same : u.channelOf b = (v.modChannel b hold).channelOf b := by rw [State.channelOf, rest]; rfl
      rw [same]
      exact channelOf_modChannel (s := v) channel fun _ => rfl
    refine ⟨t, run, by rw [h.now, rest]; rfl, ?_, ?_, by rw [h.bed, beds, if_pos rfl], fun d hd => ⟨?_, ?_⟩, by rw [h.sb, rest]; rfl, by rw [h.pw, rest]; rfl⟩
    · rw [h.valve, State.valve, rest]
      exact PerBed.get_set_same ..
    · rw [State.channelOf, h.vd]
      exact channels
    · rw [h.bed, beds, if_neg hd]
    · rw [h.valve, State.valve, rest]
      exact PerBed.get_set_ne _ _ hd
  · exact take_settled live rfl settled
  · exact take_settled live rfl settled

/-! ### The tests of an offer (R64) -/

/-- Settles O34's tests: each of the twelve is one conjunct. -/
theorem eligible_iff (b : BedId) (s : State) :
    let x := s.bed b
    let active := allBeds.filter fun d => s.valve d == .opening || s.valve d == .opened || s.valve d == .closing
    let m := s.pw.minute
    let opens := s.sl.setup.windowStart
    let closes := s.sl.setup.windowEnd
    s.eligible b = true ↔
      s.sl.station = .active ∧ s.sb.saturated = false
        ∧ (∀ y, x.backoffEnd = some y → y ≤ s.now)
        ∧ (∀ y, s.sb.lastFree = some y →
            y + (match x.urgency with | .normal => 24000 | .dry => 12000 | .severe => 0) ≤ s.now)
        ∧ (s.bc.holds.rain = false ∧ s.bc.holds.freeze = false ∧ s.bc.holds.pause = false ∧ s.bc.holds.supply = false
            ∧ s.bc.holds.line = false ∧ (s.bc.holds.defer = false ∨ x.urgency = .severe))
        ∧ (s.pw.clockSet = false ∨ opens = closes ∨ (opens < closes ∧ opens ≤ m ∧ m < closes)
            ∨ (closes < opens ∧ (opens ≤ m ∨ m < closes)) ∨ x.ordered = true ∨ x.urgency = .severe)
        ∧ active.length < 4
        ∧ ((s.setupOf b).kind = .held → (active.filter fun d => (s.setupOf d).kind == .held).length < 2)
        ∧ ((s.setupOf b).kind = .latch → s.vd.ready = true)
        ∧ s.vd.marks.get b = false
        ∧ s.sb.book.length < 32
        ∧ ((s.setupOf b).flow + (s.sb.book.map fun e => e.flow).sum ≤ s.sb.budget ∨ x.urgency = .severe) := by
  intro x active m opens closes
  have actives : active = s.activeValves := by
    refine List.filter_congr fun d _ => ?_
    cases s.valve d <;> rfl
  have helds : (active.filter fun d => (s.setupOf d).kind == .held) = s.activeHeld := by
    rw [actives]
    exact List.filter_congr fun d _ => by cases (s.setupOf d).kind <;> rfl
  have backoff : s.backoffOver b = true ↔ ∀ y, x.backoffEnd = some y → y ≤ s.now := by
    change s.backoffOver b = true ↔ ∀ y, (s.bed b).backoffEnd = some y → y ≤ s.now
    unfold State.backoffOver
    cases (s.bed b).backoffEnd <;> simp
  have courtesy : s.courtesyOver x.urgency = true
      ↔ ∀ y, s.sb.lastFree = some y → y + (match x.urgency with | .normal => 24000 | .dry => 12000 | .severe => 0) ≤ s.now := by
    unfold State.courtesyOver
    cases s.sb.lastFree with
    | none => simp
    | some y =>
      rw [decide_eq_true_eq]
      cases x.urgency <;> simp [courtesyDelay, Config.second]
  have holds : s.bc.holds.forbids x.urgency = false ↔ s.bc.holds.rain = false ∧ s.bc.holds.freeze = false ∧ s.bc.holds.pause = false
      ∧ s.bc.holds.supply = false ∧ s.bc.holds.line = false ∧ (s.bc.holds.defer = false ∨ x.urgency = .severe) := by
    simp only [Holds.forbids, Bool.or_eq_false_iff, Bool.and_eq_false_iff, decide_eq_false_iff_not, not_not, and_assoc, ne_eq]
  have window : (s.windowNow || x.ordered || decide (x.urgency = .severe)) = true
      ↔ s.pw.clockSet = false ∨ opens = closes ∨ (opens < closes ∧ opens ≤ m ∧ m < closes)
        ∨ (closes < opens ∧ (opens ≤ m ∨ m < closes)) ∨ x.ordered = true ∨ x.urgency = .severe := by
    have minutes : windowOpen s.sl.setup.windowStart s.sl.setup.windowEnd s.pw.minute = true
        ↔ opens = closes ∨ (opens < closes ∧ opens ≤ m ∧ m < closes) ∨ (closes < opens ∧ (opens ≤ m ∨ m < closes)) := by
      change windowOpen opens closes m = true ↔ _
      unfold windowOpen
      rcases lt_trichotomy opens closes with lt | eq | gt
      · simp [lt.ne, lt, lt.not_gt]
      · simp [eq]
      · simp [gt.ne', gt, gt.not_gt]
    simp only [State.windowNow, Bool.or_eq_true, Bool.not_eq_true', minutes, decide_eq_true_eq, or_assoc]
  have valves : s.valveReady b = true ↔ s.activeValves.length < 4 ∧ ((s.setupOf b).kind = .held → s.activeHeld.length < 2)
      ∧ ((s.setupOf b).kind = .latch → s.vd.ready = true) ∧ s.vd.marks.get b = false := by
    unfold State.valveReady
    cases (s.setupOf b).kind <;> simp [and_assoc]
  have book : s.bookReady b = true ↔ s.sb.book.length < 32
      ∧ ((s.setupOf b).flow + (s.sb.book.map fun e => e.flow).sum ≤ s.sb.budget ∨ x.urgency = .severe) := by
    simp only [State.bookReady, Bool.and_eq_true, Bool.or_eq_true, decide_eq_true_eq]
    rfl
  have all : s.eligible b = true ↔ s.sl.station = .active ∧ s.sb.saturated = false ∧ s.backoffOver b = true
      ∧ s.courtesyOver x.urgency = true ∧ s.bc.holds.forbids x.urgency = false
      ∧ (s.windowNow || x.ordered || decide (x.urgency = .severe)) = true ∧ s.valveReady b = true ∧ s.bookReady b = true := by
    unfold State.eligible
    rw [Bool.and_eq_true, Bool.and_eq_true, Bool.and_eq_true, Bool.and_eq_true, Bool.and_eq_true, Bool.and_eq_true, Bool.and_eq_true,
      decide_eq_true_eq, Bool.not_eq_true', Bool.not_eq_true']
    simp only [and_assoc]
    rfl
  rw [all, backoff, courtesy, holds, window, valves, book, helds, actives]
  simp only [and_assoc]

/-- An essential notice that the station state admits joins the tail, room or none. -/
theorem offer_essential {n : Notice} (essential : n.essential = true) (admits : s.sl.station.admits n = true) :
    s.offer n = { s with tq.queue := s.tq.queue ++ [⟨n, 0, false⟩] } := by
  refine if_pos ?_
  simp [State.admits, essential, admits]

/-- A bed that is offered: the claim record, the CLAIM at the tail, the bed in CLAIMING (R66). -/
theorem offerBed_eq {b : BedId} (active : s.sl.station = .active) :
    s.offerBed b = State.moveBed b .claiming { s with
      sb.claim := { Claim.none with
        phase := .sending, bed := b, flow := (s.setupOf b).flow, urgency := (s.bed b).urgency, age := (s.bed b).waitAge }
      tq.queue := s.tq.queue ++ [⟨.claim b (s.setupOf b).flow (s.bed b).urgency (s.bed b).waitAge, 0, false⟩] } := by
  exact congrArg (State.moveBed b .claiming) (offer_essential rfl (by simp [active, StationState.admits]))

/-- Settles O34: the first eligible bed is offered on the state that the timer's end leaves. -/
theorem occasionsOfferTheFirstEligibleBed : Obligations.OccasionsOfferTheFirstEligibleBed := by
  refine ⟨eligible_iff, fun i s after settled active quiet which => ?_⟩
  have live : s.live = true := by simp [State.live, active]
  have same : after.sl = s.sl ∧ after.sb = s.sb ∧ after.bc.occasion = false ∧ after.bc.holds = s.bc.holds ∧ after.vd = s.vd
      ∧ exec i s = .next after.noteOccasion.finish := by
    rcases which with ⟨u, x, mild, free, rfl, rfl⟩ | ⟨b, x, waiting, ends, rfl, rfl⟩
    · refine ⟨rfl, rfl, settled.2, rfl, rfl, ?_⟩
      have delay : courtesyDelay u = if u = .normal then 24000 else 12000 := by
        cases u <;> first | rfl | contradiction
      simp only [exec, execCourtesyDelayEnd, State.take, live, free, mild, if_true, if_false, delay]
      rfl
    · refine ⟨rfl, rfl, settled.2, rfl, rfl, ?_⟩
      simp only [exec, execBackoffEnd, State.take, live, waiting, ends, if_true]
      rfl
  obtain ⟨sl, sb, unnoted, holds, vd, run⟩ := same
  have clean : after.sb.dirty = false := by rw [sb]; exact settled.1
  have weighed : after.noteOccasion.settle = after.weighOccasion := by
    rw [settle_occasion after.noteOccasion clean rfl]
    have e : ({ after.bc with occasion := false } : BedController) = after.bc := by rw [← unnoted]
    exact congrArg (fun bc => State.weighOccasion { after with bc := bc }) e
  have h : AfterAlerts after.weighOccasion after.noteOccasion.finish := by
    unfold State.finish
    rw [weighed]
    exact afterAlerts_offerAlerts _
  have ready : after.sl.station = .active ∧ after.sb.claim.phase = .none := by rw [sl, sb]; exact ⟨active, quiet⟩
  refine ⟨_, run, fun none => ?_, fun b found => ?_⟩
  · rw [State.weighOccasion, if_pos ready, none] at h
    exact h
  · rw [State.weighOccasion, if_pos ready, found] at h
    dsimp only at h
    rw [offerBed_eq ready.1] at h
    have beds (d : BedId) := (h.bed d).trans (Overdraw.bed_moveBed b d .claiming _)
    obtain ⟨l, queue⟩ := h.queue
    refine ⟨by rw [beds, if_pos rfl], fun d hd => by rw [beds, if_neg hd]; rfl, by rw [h.sb]; rfl, by rw [h.sb]; rfl, by rw [h.sb]; rfl,
      by rw [h.sb]; rfl, by rw [h.sb]; rfl, ⟨l, ?_⟩, ?_, ?_, ?_⟩
    · rw [queue]
      exact List.append_assoc ..
    · rw [h.sb]
      have same := congrArg SupplyBook.book sb
      exact same
    · rw [h.bc]
      exact holds
    · rw [h.vd]
      exact vd

end Sys2Proof.EdgesAndOffers

/-! PROOFS. Two statements about need evaluations that fail at one corner (R89, R125): a claim that the evaluation's own book
change resolves and commits, on a line already lost, for a bed in its last cycle. The bed's new cycle is cut in the same event,
its valve never having begun to move; the twelve-cycle limit turns the wait into IDLE, and IDLE's entry takes the urgency back
to NORMAL, where the statements promise the evaluation's urgency. -/

namespace Sys2Proof.LastCycle

open Sys2Proof.Machine

/-- A latching bed of 6.0 L/min, area 12, threshold 25 L, cap 60 L, under the given rules. -/
def lastBed (mode : BedMode) : BedSetup :=
  ⟨true, true, .latch, mode, .oneSettle, 12, 24000, 8000, 30, 45, 15, 20, 10, 12, 12, 25, 50, 60⟩

/-- Station 4 in ACTIVE with bed 0 in CLAIMING, eleven cycles of its run behind it: its claim stands in RESOLVING with no senior
left, the line has been lost for more than 25 s without an own COMMITTED entry, and the coil supply is not GOOD yet. -/
def lastCycle (mode : BedMode) : State :=
  { State.reset with
    now := 1000000
    sl.station := .active, sl.own := 4, sl.setup := { Setup.blank with budget := 40, beds := .const (lastBed mode) }
    li.rx := .hunt
    sb.budget := 40
    sb.book := [⟨4, 0, 12, .normal, false, 0, 990000⟩]
    sb.claim := { Claim.none with phase := .resolving, flow := 12 }
    bc.beds := (PerBed.const Bed.fresh).set 0 { Bed.fresh with
      state := .claiming, start := 30, stop := 45, debt := 40000, run := some ⟨240, 0, 11, 0, 0, none, none⟩ }
    bc.due := [.hour 60]
    vd.valves := .const .closed
    vd.check := .done
    pw.scan := .measure 0 1000000 }

theorem claimSound_lastCycle (mode : BedMode) : ClaimSound (lastCycle mode) where
  holds _ := rfl
  idle _ := rfl
  entry _ _ := rfl
  claims := Nat.zero_le _
  sheds := Nat.zero_le _
  sending h := absurd h Bool.false_ne_true
  asking h := absurd h Bool.false_ne_true
  held h := absurd h Bool.false_ne_true
  offered h _ := absurd rfl h
  barred h := nomatch h

/-- What a command leads to. -/
def next (i : Instr) (s : State) : State :=
  match exec i s with
  | .next t => t
  | .fault _ | .refused _ => s

theorem eq_next {i : Instr} {s t : State} (h : exec i s = .next t) : t = next i s := by
  rw [next, h]

/-- Refutes O37: the hour's evaluation makes the claim DRY, the claim commits, and its bed ends in IDLE with NORMAL. -/
theorem not_boundariesMoveDebtsAndDay : ¬ Obligations.BoundariesMoveDebtsAndDay := by
  intro h
  obtain ⟨t, run, -, -, -, -, debts⟩ := (h.1 60 [] (lastCycle .debt) rfl).1 rfl
  have evaluated := debts (claimSound_lastCycle .debt) (by decide) 0 rfl rfl rfl
  have urgency := (evaluated.claiming rfl (.inl rfl)).1
  rw [eq_next run] at urgency
  exact absurd urgency (by decide +kernel)

/-- Sixteen periods of 1.5 ms: a count of 24000, wetness 0 at the bed's setup. -/
def dryGaps : List Nat := 0 :: List.replicate 16 1500

/-- Refutes O39: the reading's evaluation makes the claim SEVERE, the claim commits, and its bed ends in IDLE with NORMAL. -/
theorem not_scannerVisitsAndReadsProbes : ¬ Obligations.ScannerVisitsAndReadsProbes := by
  rintro ⟨-, -, good, -, -⟩
  obtain ⟨t, run, -, -, -, -, -, weighed⟩ := (good 0 1000000 (lastCycle .probe) rfl rfl (by decide) rfl).1 dryGaps 24000
    (by decide +kernel) (by decide) (by decide)
  rw [eq_next run] at weighed
  have evaluated := (weighed 0 ⟨rfl, rfl⟩ (claimSound_lastCycle .probe) rfl rfl (by decide +kernel)).evaluated
    (by decide +kernel) (by decide +kernel) (by decide +kernel)
  have urgency := (evaluated.claiming (by decide +kernel) (.inl (by decide +kernel))).1
  exact absurd urgency (by decide +kernel)

end Sys2Proof.LastCycle

/-! PROOFS. What the operations of one bed leave of the other beds and their drive, and of the claim exchange and the alert unit:
`Aside` for a bed the operation is not about, `Resting` for the bed's own changes of state without the drive. -/

namespace Sys2Proof.Machine

open Overdraw (OnlyBed)

variable {b d : BedId} {s t u : State}

/-! ### A bed that an operation is not about -/

/-- Bed `b` and its valve are as they were; its request does not come, its pulse does not go, its channel stays. -/
structure Aside (b : BedId) (s t : State) : Prop where
  setup : t.setupOf b = s.setupOf b
  bed : t.bed b = s.bed b
  valve : t.valve b = s.valve b
  queued : s.queued b = false → t.queued b = false
  pulsing : s.pulsing b = true → t.pulsing b = true
  channel : t.channelOf b = s.channelOf b

namespace Aside

theorem refl (b : BedId) (s : State) : Aside b s s := ⟨rfl, rfl, rfl, id, id, rfl⟩

theorem trans (h : Aside b s t) (k : Aside b t u) : Aside b s u where
  setup := k.setup.trans h.setup
  bed := k.bed.trans h.bed
  valve := k.valve.trans h.valve
  queued e := k.queued (h.queued e)
  pulsing e := k.pulsing (h.pulsing e)
  channel := k.channel.trans h.channel

/-- A valve that would not shut at once does not come to. -/
theorem unshut (h : Aside b s t) (k : ¬ s.shutsAtOnce b) : ¬ t.shutsAtOnce b := by
  refine mt (fun shuts => ?_) k
  unfold State.shutsAtOnce at shuts ⊢
  rw [h.valve, h.setup, h.channel] at shuts
  refine shuts.imp_right (Or.imp_right (Or.imp_left fun ⟨latch, opening, waits, quiet⟩ => ⟨latch, opening, ?_, ?_⟩))
  · exact Bool.eq_true_of_not_eq_false fun none => by simp [h.queued none] at waits
  · exact Bool.eq_false_of_not_eq_true fun pulses => by simp [h.pulsing pulses] at quiet

end Aside

/-- An operation that leaves the beds, the drive and the setup. -/
theorem aside_same (setup : t.sl.setup = s.sl.setup) (beds : t.bc.beds = s.bc.beds) (vd : t.vd = s.vd) : Aside b s t where
  setup := by rw [State.setupOf, setup]; rfl
  bed := by rw [State.bed, beds]; rfl
  valve := by rw [State.valve, vd]; rfl
  queued h := by rwa [State.queued, vd]
  pulsing h := by rwa [State.pulsing, vd]
  channel := by rw [State.channelOf, vd]; rfl

/-- An operation of another bed that leaves the drive. -/
theorem aside_onlyBed (h : OnlyBed d s t) (ne : b ≠ d) : Aside b s t where
  setup := h.setupOf b
  bed := h.others b ne
  valve := by rw [State.valve, h.vd]; rfl
  queued e := by rwa [State.queued, h.vd]
  pulsing e := by rwa [State.pulsing, h.vd]
  channel := by rw [State.channelOf, h.vd]; rfl

theorem aside_moveBed (ne : b ≠ d) (st : BedState) (s : State) : Aside b s (s.moveBed d st) :=
  ⟨rfl, by rw [Overdraw.bed_moveBed, if_neg ne], rfl, id, id, rfl⟩

theorem aside_modBed (ne : b ≠ d) (f : Bed → Bed) (s : State) : Aside b s (s.modBed d f) :=
  ⟨rfl, by rw [State.bed_modBed, if_neg ne], rfl, id, id, rfl⟩

theorem aside_offer (n : Notice) (b : BedId) (s : State) : Aside b s (s.offer n) := by
  have rest := Overdraw.offer_rest n s
  exact aside_same (by rw [rest]) (by rw [rest]) (by rw [rest])

/-! ### The drive -/

theorem valve_setValve_ne (ne : b ≠ d) (v : ValveState) (s : State) : (s.setValve d v).valve b = s.valve b := by
  simp [State.valve, State.setValve, ne]

theorem aside_setValve (ne : b ≠ d) (v : ValveState) (s : State) : Aside b s (s.setValve d v) :=
  ⟨rfl, rfl, valve_setValve_ne ne v s, id, id, rfl⟩

theorem aside_kick (b : BedId) (s : State) : Aside b s s.kick := by
  unfold State.kick
  split
  · rename_i idle
    have still : s.pulsing b = false := by simp [State.pulsing, idle]
    split
    · exact ⟨rfl, rfl, rfl, id, fun h => absurd h (by simp [still]), rfl⟩
    · split
      · split
        · rename_i waiting
          refine ⟨rfl, rfl, rfl, fun h => ?_, fun h => absurd h (by simp [still]), rfl⟩
          simp only [State.queued, waiting, List.any_cons, Bool.or_eq_false_iff] at h
          exact h.2
        · exact .refl ..
      · exact .refl ..
  all_goals exact .refl ..

theorem aside_queueRequest (ne : b ≠ d) (x : Direction) (s : State) : Aside b s (s.queueRequest d x) := by
  unfold State.queueRequest
  split
  · exact .refl ..
  · have joins : Aside b s { s with vd.queue := s.vd.queue ++ [Request.mk d x] } :=
      ⟨rfl, rfl, rfl, fun h => by simpa [State.queued, Ne.symm ne] using h, id, rfl⟩
    exact joins.trans (aside_kick ..)

theorem channelOf_eq (b : BedId) (s : State) :
    s.channelOf b = match s.vd.channelA.filter (fun c => decide (c.bed = b)) with
      | some c => some c
      | none => s.vd.channelB.filter fun c => decide (c.bed = b) := by
  unfold State.channelOf
  rcases s.vd.channelA with _ | c <;> rcases s.vd.channelB with _ | d
  · rfl
  · simp [Option.filter]
  · by_cases h : c.bed = b <;> simp [Option.filter, h]
  · by_cases h : c.bed = b <;> by_cases k : d.bed = b <;> simp [Option.filter, h, k]

theorem filter_freed (ne : b ≠ d) (o : Option Channel) :
    (o.filter fun c => decide (c.bed ≠ d)).filter (fun c => decide (c.bed = b)) = o.filter fun c => decide (c.bed = b) := by
  rcases o with _ | c
  · rfl
  · by_cases h : c.bed = b
    · have other : c.bed ≠ d := fun e => ne (h.symm.trans e)
      simp [Option.filter, h, ne]
    · by_cases k : c.bed = d <;> simp [Option.filter, h, k, Ne.symm ne]

theorem aside_freeChannel (ne : b ≠ d) (s : State) : Aside b s (s.freeChannel d) := by
  refine ⟨rfl, rfl, rfl, id, id, ?_⟩
  rw [channelOf_eq, channelOf_eq]
  unfold State.freeChannel
  dsimp only
  rw [filter_freed ne, filter_freed ne]

theorem filter_modified (ne : b ≠ d) {f : Channel → Channel} (keep : ∀ c, (f c).bed = c.bed) (o : Option Channel) :
    (o.map fun c => if c.bed = d then f c else c).filter (fun c => decide (c.bed = b)) = o.filter fun c => decide (c.bed = b) := by
  rcases o with _ | c
  · rfl
  · by_cases h : c.bed = d
    · simp [Option.filter, h, keep, Ne.symm ne]
    · simp [Option.filter, h]

theorem aside_modChannel (ne : b ≠ d) {f : Channel → Channel} (keep : ∀ c, (f c).bed = c.bed) (s : State) :
    Aside b s (s.modChannel d f) := by
  refine ⟨rfl, rfl, rfl, id, id, ?_⟩
  rw [channelOf_eq, channelOf_eq]
  unfold State.modChannel State.mapChannels
  dsimp only
  rw [filter_modified ne keep, filter_modified ne keep]

theorem aside_takeChannel (ne : b ≠ d) (s : State) : Aside b s (s.takeChannel d) := by
  unfold State.takeChannel
  dsimp only
  split
  · rename_i free
    refine Aside.trans (t := { s with vd.channelA := some ⟨d, s.takenPhase, none, none⟩ }) ⟨rfl, rfl, rfl, id, id, ?_⟩ (aside_setValve ne _ _)
    simp [channelOf_eq, free, Option.filter, Ne.symm ne]
  · rename_i taken free
    refine Aside.trans (t := { s with vd.channelB := some ⟨d, s.takenPhase, none, none⟩ }) ⟨rfl, rfl, rfl, id, id, ?_⟩ (aside_setValve ne _ _)
    simp [channelOf_eq, free, Option.filter, Ne.symm ne]
  · exact .refl ..

theorem aside_openRequest (ne : b ≠ d) (s : State) : Aside b s (s.openRequest d) := by
  unfold State.openRequest
  split
  · split
    · exact (aside_setValve ne ..).trans (aside_queueRequest ne ..)
    · exact aside_takeChannel ne _
  · exact .refl ..

/-! ### A bed's own changes of state, without the drive -/

/-- `t` comes from `s` by changes of bed `d` alone, which bring it into no cycle and no claim: where it was not CLAIMING, the claim
and the book do not hear of it; no notice is queued, and of the alert unit a refusal alone is noted. -/
structure Resting (d : BedId) (s t : State) : Prop extends OnlyBed d s t where
  tq : t.tq = s.tq
  au : t.au = { s.au with refused := t.au.refused }
  sb : (s.bed d).state ≠ .claiming → t.sb = s.sb
  unclaimed : (s.bed d).state ≠ .claiming → (t.bed d).state ≠ .claiming
  sameHolds : t.bc.holds = s.bc.holds

namespace Resting

theorem refl (d : BedId) (s : State) : Resting d s s := ⟨.refl .., rfl, rfl, fun _ => rfl, id, rfl⟩

theorem trans (h : Resting d s t) (k : Resting d t u) : Resting d s u where
  toOnlyBed := h.toOnlyBed.trans k.toOnlyBed
  tq := k.tq.trans h.tq
  au := by rw [k.au, h.au]
  sb e := (k.sb (h.unclaimed e)).trans (h.sb e)
  unclaimed e := k.unclaimed (h.unclaimed e)
  sameHolds := k.sameHolds.trans h.sameHolds

end Resting

theorem resting_modBed (f : Bed → Bed) (s : State) (core : (f (s.bed d)).core = (s.bed d).core)
    (age : (f (s.bed d)).waitAge ≤ (s.bed d).waitAge) (state : (f (s.bed d)).state = (s.bed d).state) : Resting d s (s.modBed d f) :=
  ⟨Overdraw.onlyBed_modBed d f s core age state, rfl, rfl, fun _ => rfl, fun h => by rwa [State.bed_modBed_same, state], rfl⟩

theorem resting_moveBed (st : BedState) (still : st.cycling = false) (out : st ≠ .claiming) (d : BedId) (s : State) :
    Resting d s (s.moveBed d st) :=
  ⟨Overdraw.onlyBed_moveBed still d s, rfl, rfl, fun _ => rfl, fun _ => by rwa [Overdraw.bed_moveBed, if_pos rfl], rfl⟩

theorem resting_noteOccasion (d : BedId) (s : State) : Resting d s s.noteOccasion :=
  ⟨Overdraw.onlyBed_noteOccasion d s, rfl, rfl, fun _ => rfl, id, rfl⟩

theorem resting_setFaulted (d : BedId) (f : BedFault) (s : State) : Resting d s (s.setFaulted d f) :=
  (resting_moveBed .faulted rfl nofun d s).trans (resting_modBed _ _ rfl le_rfl rfl)

theorem resting_setIdle (d : BedId) (s : State) : Resting d s (s.setIdle d) := by
  unfold State.setIdle
  split
  · exact resting_setFaulted ..
  · exact (resting_moveBed .idle rfl nofun d s).trans (resting_modBed _ _ rfl (Nat.zero_le _) rfl)

theorem resting_setWaiting (d : BedId) (n : Nat) (s : State) : Resting d s (s.setWaiting d n) := by
  refine ((resting_moveBed .waiting rfl nofun d s).trans (resting_modBed _ _ rfl ?_ rfl)).trans (resting_noteOccasion _ _)
  dsimp only
  split <;> simp

/-- In CLAIMING alone the urgency reaches the claim and its entry. -/
theorem resting_setUrgency (d : BedId) (r : Urgency) (s : State) : Resting d s (s.setUrgency d r) where
  toOnlyBed := Overdraw.onlyBed_setUrgency d r s
  tq := by
    unfold State.setUrgency
    dsimp only
    split
    · rfl
    · split
      · rfl
      · split <;> rfl
      · rfl
  au := by
    unfold State.setUrgency
    dsimp only
    split
    · rfl
    · split
      · rfl
      · split <;> rfl
      · rfl
  sb out := by
    unfold State.setUrgency
    dsimp only
    split
    · rfl
    · split
      · rfl
      · exact absurd ‹_› out
      · rfl
  unclaimed out := by
    unfold State.setUrgency
    dsimp only
    split
    · exact out
    · split
      · rw [Overdraw.noteOccasion_bed, State.bed_modBed_same]; exact out
      · exact absurd ‹_› out
      · rw [State.bed_modBed_same]; exact out
  sameHolds := by
    unfold State.setUrgency
    dsimp only
    split
    · rfl
    · split
      · rfl
      · split <;> rfl
      · rfl

theorem resting_takeUrgency (d : BedId) (r : Option (Nat × Urgency)) (s : State) : Resting d s (s.takeUrgency d r) := by
  unfold State.takeUrgency
  split
  · exact resting_setUrgency ..
  · split
    · exact resting_setUrgency ..
    · exact .refl ..

theorem resting_takeNeed (d : BedId) (r : Option (Nat × Urgency)) (s : State) : Resting d s (s.takeNeed d r) := by
  unfold State.takeNeed
  split
  · split
    · exact .refl ..
    · exact resting_modBed _ _ rfl le_rfl rfl
  · exact .refl ..

theorem resting_evaluate (d : BedId) (fresh : Bool) (s : State) : Resting d s (s.evaluate d fresh) := by
  unfold State.evaluate
  dsimp only
  split
  · exact .refl ..
  · split
    · split
      · exact resting_setFaulted ..
      · split
        · exact (resting_setWaiting ..).trans (resting_modBed _ _ rfl le_rfl rfl)
        · exact .refl ..
    · split
      · exact resting_setIdle ..
      · split
        · exact resting_setIdle ..
        · split
          · exact resting_takeUrgency ..
          · exact (resting_takeNeed ..).trans (resting_takeUrgency ..)
    · split
      · exact resting_takeUrgency ..
      · exact (resting_takeNeed ..).trans (resting_takeUrgency ..)
    · exact .refl ..

theorem resting_bringTargets (d : BedId) (s : State) : Resting d s (s.bringTargets d) := by
  unfold State.bringTargets
  rcases (s.bed d).targets with _ | ⟨start, stop⟩
  · exact .refl ..
  · have h := resting_modBed (d := d) (fun x => { x with start := start, stop := stop, targets := none }) s rfl le_rfl rfl
    dsimp only
    split
    · exact h.trans (resting_evaluate ..)
    · exact h

theorem resting_toIdle (d : BedId) (s : State) : Resting d s (s.toIdle d) :=
  (resting_setIdle ..).trans (resting_bringTargets ..)

theorem resting_toWaiting (d : BedId) (n : Nat) (s : State) : Resting d s (s.toWaiting d n) :=
  (resting_setWaiting ..).trans (resting_bringTargets ..)

theorem resting_toFaulted (d : BedId) (f : BedFault) (s : State) : Resting d s (s.toFaulted d f) :=
  (resting_setFaulted ..).trans (resting_bringTargets ..)

theorem resting_enterAfter (d : BedId) (a : After) (s : State) : Resting d s (s.enterAfter d a) := by
  cases a with
  | soak =>
    exact (resting_moveBed .soaking rfl nofun d s).trans (resting_modBed (fun x => { x with soakSince := some s.now }) _ rfl le_rfl rfl)
  | wait n => exact resting_toWaiting ..
  | idle => exact resting_toIdle ..
  | fault f => exact resting_toFaulted ..

theorem resting_applyWater (d : BedId) (n : Nat) (s : State) : Resting d s (s.applyWater d n) := by
  unfold State.applyWater
  refine (resting_modBed (fun x => { x with ordered := true, skip := false }) s rfl le_rfl rfl).trans ?_
  dsimp only
  split
  · exact (resting_modBed _ _ rfl le_rfl rfl).trans (resting_setUrgency ..)
  · split
    · exact (resting_setWaiting ..).trans (resting_modBed _ _ rfl le_rfl rfl)
    · exact (resting_modBed _ _ rfl le_rfl rfl).trans (resting_setUrgency ..)

theorem resting_noteRefusal (d : BedId) (k : OrderKind) (r : RefusalReason) (s : State) : Resting d s (s.noteRefusal k r) :=
  ⟨Overdraw.onlyBed_of_beds (inside_noteRefusal ..) rfl rfl, rfl, rfl, fun _ => rfl, id, rfl⟩

theorem resting_applyKept (d : BedId) (k : Option Nat) (s : State) : Resting d s (s.applyKept d k) := by
  unfold State.applyKept
  split
  · exact .refl ..
  · split
    · exact resting_noteRefusal ..
    · split
      · exact .refl ..
      · exact (resting_modBed _ _ rfl le_rfl rfl).trans (resting_applyWater ..)

/-- Once its entry is out of the book, a bed in CLOSING that hears CLOSED goes to its next state on its own. -/
theorem resting_bedClosed (closing : (s.bed d).state = .closing) : Resting d (s.freeBed d) (s.bedClosed d) := by
  unfold State.bedClosed
  rw [if_pos closing]
  refine (resting_bringTargets ..).trans ?_
  dsimp only
  split
  · exact (resting_enterAfter ..).trans (resting_applyKept ..)
  · exact resting_toIdle ..

theorem bedClosed_of_ne (open' : (s.bed d).state ≠ .closing) : s.bedClosed d = s := if_neg open'

theorem aside_bedClosed (ne : b ≠ d) (s : State) : Aside b s (s.bedClosed d) := by
  by_cases closing : (s.bed d).state = .closing
  · exact aside_onlyBed (Overdraw.onlyBed_bedClosed closing) ne
  · rw [bedClosed_of_ne closing]
    exact .refl ..

theorem aside_valveClosed (ne : b ≠ d) (s : State) : Aside b s (s.valveClosed d) :=
  (aside_setValve ne ..).trans (aside_bedClosed ne _)

theorem aside_dropRequest (b d : BedId) (s : State) : Aside b s { s with vd.queue := s.vd.queue.filter fun r => decide (r.bed ≠ d) } := by
  refine ⟨rfl, rfl, rfl, fun h => ?_, id, rfl⟩
  simp only [State.queued, List.any_eq_false, decide_eq_true_eq] at h ⊢
  exact fun r m => h r (List.mem_of_mem_filter m)

theorem aside_closeRequest (ne : b ≠ d) (s : State) : Aside b s (s.closeRequest d) := by
  unfold State.closeRequest
  split
  · exact aside_bedClosed ne _
  · unfold State.closeOpening
    split
    · exact (aside_dropRequest b d s).trans (aside_valveClosed ne _)
    · exact aside_queueRequest ne ..
  · exact (aside_setValve ne ..).trans (aside_queueRequest ne ..)
  · exact .refl ..
  · exact aside_queueRequest ne ..
  · unfold State.closeHeldOpening
    split
    · rename_i since _ _
      exact aside_modChannel ne (f := fun c => { c with phase := .pullIn since true }) (fun _ => rfl) s
    all_goals exact (aside_freeChannel ne _).trans (aside_valveClosed ne _)
  · exact (aside_freeChannel ne _).trans (aside_valveClosed ne _)
  all_goals exact .refl ..

theorem aside_endCycle (ne : b ≠ d) (c : EndCause) (s : State) : Aside b s (s.endCycle d c) := by
  have ends : Aside b s (Overdraw.ending d c s) := (aside_moveBed ne ..).trans (aside_modBed ne ..)
  unfold State.endCycle
  dsimp only
  split
  · exact ends
  · exact ends.trans (aside_closeRequest ne _)

theorem aside_cut (ne : b ≠ d) (c : EndCause) (s : State) : Aside b s (s.cut d c) := by
  unfold State.cut
  split
  · exact aside_endCycle ne ..
  · exact .refl ..

/-! ### What an operation of one bed leaves of the claim exchange, the queue and the alert unit -/

/-- `t` comes from `s` by inner operations of bed `d` and its valve: the other beds are aside, the bed comes into no cycle and no
claim, FREEs of it alone are queued, and of the alert unit DISCARD and a refusal alone can change. -/
structure Bedwise (d : BedId) (s t : State) : Prop extends Inside s t where
  aside : ∀ b, b ≠ d → Aside b s t
  rests : (s.bed d).state.cycling = false → (t.bed d).state.cycling = false
  unclaimed : (s.bed d).state ≠ .claiming → (t.bed d).state ≠ .claiming
  claim : (s.bed d).state ≠ .claiming → t.sb.claim = s.sb.claim
  book : (s.bed d).state ≠ .claiming → (t.sb.book = s.sb.book ∧ t.sb.dirty = s.sb.dirty)
    ∨ (t.sb.book = removeEntry s.sl.own d.val s.sb.book ∧ t.sb.dirty = true)
  latches : ∀ c, c ≠ .discard → t.latch c = s.latch c
  fault : t.au.record = s.au.record ∧ t.au.more = s.au.more
  waits : ∃ l, t.tq.queue = s.tq.queue ++ l ∧ ∀ q ∈ l, q.notice = .free d.val
  headRun : t.tq.headRun = s.tq.headRun
  sameHolds : t.bc.holds = s.bc.holds
  pulse : s.vd.generator ≠ .idle → t.vd.generator = s.vd.generator

namespace Bedwise

theorem refl (d : BedId) (s : State) : Bedwise d s s :=
  ⟨.refl s, fun b _ => .refl b s, id, id, fun _ => rfl, fun _ => .inl ⟨rfl, rfl⟩, fun _ _ => rfl, ⟨rfl, rfl⟩, ⟨[], by simp, by simp⟩, rfl, rfl, fun _ => rfl⟩

theorem trans (h : Bedwise d s t) (k : Bedwise d t u) : Bedwise d s u where
  toInside := h.toInside.trans k.toInside
  aside b ne := (h.aside b ne).trans (k.aside b ne)
  rests e := k.rests (h.rests e)
  unclaimed e := k.unclaimed (h.unclaimed e)
  claim e := (k.claim (h.unclaimed e)).trans (h.claim e)
  book e := by
    have twice : removeEntry s.sl.own d.val (removeEntry s.sl.own d.val s.sb.book) = removeEntry s.sl.own d.val s.sb.book := by
      simp [removeEntry, List.filter_filter]
    rcases k.book (h.unclaimed e) with ⟨eq, mark⟩ | ⟨eq, mark⟩ <;> rcases h.book e with ⟨eq', mark'⟩ | ⟨eq', mark'⟩ <;> rw [eq, eq', mark]
    · exact .inl ⟨rfl, mark'⟩
    · exact .inr ⟨rfl, mark'⟩
    · exact .inr ⟨by rw [h.sl], rfl⟩
    · exact .inr ⟨by rw [h.sl, twice], rfl⟩
  latches c ne := (k.latches c ne).trans (h.latches c ne)
  fault := ⟨k.fault.1.trans h.fault.1, k.fault.2.trans h.fault.2⟩
  waits := by
    obtain ⟨l, queue, free⟩ := h.waits
    obtain ⟨m, queue', free'⟩ := k.waits
    refine ⟨l ++ m, by rw [queue', queue, List.append_assoc], fun q h => ?_⟩
    exact (List.mem_append.1 h).elim (free q) (free' q)
  headRun := k.headRun.trans h.headRun
  sameHolds := k.sameHolds.trans h.sameHolds
  pulse busy := (k.pulse (by rwa [h.pulse busy])).trans (h.pulse busy)

end Bedwise

theorem bedwise_resting (h : Resting d s t) : Bedwise d s t where
  toInside := h.toInside
  aside b ne := aside_onlyBed h.toOnlyBed ne
  rests := h.rests
  unclaimed := h.unclaimed
  claim e := by rw [h.sb e]
  book e := .inl (by rw [h.sb e]; exact ⟨rfl, rfl⟩)
  latches c _ := by rw [State.latch, h.au]; rfl
  fault := by rw [h.au]; exact ⟨rfl, rfl⟩
  waits := ⟨[], by rw [h.tq]; simp, by simp⟩
  headRun := by rw [h.tq]
  sameHolds := h.sameHolds
  pulse _ := by rw [h.vd]

/-- An inner operation that moves the drive alone. -/
theorem bedwise_drive (inside : Inside s t) (h : Overdraw.DriveOnly s t) (aside : ∀ b, b ≠ d → Aside b s t)
    (pulse : s.vd.generator ≠ .idle → t.vd.generator = s.vd.generator) : Bedwise d s t where
  pulse := pulse
  sameHolds := by rw [h]
  toInside := inside
  aside := aside
  rests e := by rw [h.bed, e]
  unclaimed e := by rw [h.bed]; exact e
  claim _ := by rw [h.sb]
  book _ := .inl (by rw [h.sb]; exact ⟨rfl, rfl⟩)
  latches c _ := by rw [h]; rfl
  fault := by rw [h]; exact ⟨rfl, rfl⟩
  waits := ⟨[], by rw [h.tq]; simp, by simp⟩
  headRun := by rw [h.tq]

theorem offer_latch (n : Notice) {c : Cause} (ne : c ≠ .discard) (s : State) : (s.offer n).latch c = s.latch c := by
  unfold State.offer
  split
  · rfl
  · split
    · rw [State.latch_setPending, if_neg ne]
    · rfl

theorem offer_headRun (n : Notice) (s : State) : (s.offer n).tq.headRun = s.tq.headRun := by
  unfold State.offer
  split
  · rfl
  · split
    · rw [State.setPending_rest]
    · rfl

/-- An offer joins the tail or not. -/
theorem offer_queue (n : Notice) (s : State) : (s.offer n).tq.queue = s.tq.queue ++ [⟨n, 0, false⟩] ∨ (s.offer n).tq.queue = s.tq.queue := by
  unfold State.offer
  split
  · exact .inl rfl
  · split
    · rw [State.setPending_rest]; exact .inr rfl
    · exact .inr rfl

theorem offer_bed (n : Notice) (b : BedId) (s : State) : (s.offer n).bed b = s.bed b := (aside_offer n b s).bed

theorem bedwise_freeBed (d : BedId) (s : State) : Bedwise d s (s.freeBed d) where
  toInside := inside_freeBed d s
  aside b ne := aside_onlyBed (Overdraw.onlyBed_freeBed d s) ne
  rests e := by rwa [Overdraw.freeBed_bed]
  unclaimed e := by rwa [Overdraw.freeBed_bed]
  claim _ := by
    unfold State.freeBed State.remove
    split
    · rw [State.putBook_claim, Overdraw.offer_rest]
    · rw [Overdraw.offer_rest]
  book _ := by
    unfold State.freeBed State.remove
    rw [Overdraw.offer_rest]
    split
    · exact .inr ⟨rfl, rfl⟩
    · exact .inl ⟨rfl, rfl⟩
  latches c ne := by
    unfold State.freeBed
    rw [Overdraw.remove_rest]
    exact offer_latch _ ne s
  fault := by
    unfold State.freeBed
    rw [Overdraw.remove_rest]
    exact offer_fault ..
  waits := by
    unfold State.freeBed
    rw [Overdraw.remove_rest]
    rcases offer_queue (.free d.val) s with e | e
    · exact ⟨_, e, by simp⟩
    · exact ⟨[], by simpa using e, by simp⟩
  headRun := by
    unfold State.freeBed
    rw [Overdraw.remove_rest]
    exact offer_headRun ..
  sameHolds := by
    unfold State.freeBed
    rw [Overdraw.remove_rest, Overdraw.offer_rest]
  pulse _ := by
    unfold State.freeBed
    rw [Overdraw.remove_rest, Overdraw.offer_rest]

theorem bedwise_bedClosed (d : BedId) (s : State) : Bedwise d s (s.bedClosed d) := by
  by_cases closing : (s.bed d).state = .closing
  · exact (bedwise_freeBed d s).trans (bedwise_resting (resting_bedClosed closing))
  · rw [bedClosed_of_ne closing]
    exact .refl ..

theorem bedwise_setValve (d : BedId) (v : ValveState) (s : State) : Bedwise d s (s.setValve d v) :=
  bedwise_drive (inside_setValve ..) (Overdraw.driveOnly_setValve ..) (fun _ ne => aside_setValve ne ..) fun _ => rfl

theorem bedwise_valveClosed (d : BedId) (s : State) : Bedwise d s (s.valveClosed d) :=
  (bedwise_setValve ..).trans (bedwise_bedClosed ..)

/-- A generator that is not idle takes nothing (R131). -/
theorem kick_busy (busy : s.vd.generator ≠ .idle) : s.kick = s := by
  unfold State.kick
  split
  · exact absurd ‹_› busy
  · rfl
  · rfl

theorem queueRequest_busy (d : BedId) (x : Direction) (busy : s.vd.generator ≠ .idle) : (s.queueRequest d x).vd.generator = s.vd.generator := by
  unfold State.queueRequest
  split
  · rfl
  · rw [kick_busy (s := { s with vd.queue := s.vd.queue ++ [Request.mk d x] }) busy]

/-- A close request that does not shut the valve at once starts no pulse while the generator is not idle. -/
theorem closeRequest_busy (unshut : ¬ s.shutsAtOnce d) (busy : s.vd.generator ≠ .idle) : (s.closeRequest d).vd.generator = s.vd.generator := by
  simp only [State.shutsAtOnce, not_or, not_and] at unshut
  obtain ⟨shut, held, waits, channel⟩ := unshut
  unfold State.closeRequest
  split
  · exact absurd ‹_› shut
  · rename_i kind opening
    unfold State.closeOpening
    rw [if_neg (by simpa using waits kind opening)]
    exact queueRequest_busy d .closes busy
  · exact queueRequest_busy (s := s.setValve d .closing) d .closes busy
  · rfl
  · exact queueRequest_busy d .closes busy
  · unfold State.closeHeldOpening
    rename_i kind opening
    split
    · rfl
    all_goals
      rename_i phase
      refine absurd ?_ (channel kind opening)
      intro c x y found pulls
      rw [found, Option.map_some, pulls] at phase
      cases phase
  · exact absurd ‹_› (held ‹_›)
  · rfl
  · rfl

theorem bedwise_queueRequest (d : BedId) (x : Direction) (s : State) : Bedwise d s (s.queueRequest d x) :=
  bedwise_drive (inside_queueRequest ..) (Overdraw.driveOnly_queueRequest ..) (fun _ ne => aside_queueRequest ne ..) (queueRequest_busy d x)

theorem bedwise_freeChannel (d : BedId) (s : State) : Bedwise d s (s.freeChannel d) :=
  bedwise_drive (inside_freeChannel ..) (Overdraw.driveOnly_freeChannel ..) (fun _ ne => aside_freeChannel ne _) fun _ => rfl

theorem bedwise_closeRequest (d : BedId) (s : State) : Bedwise d s (s.closeRequest d) := by
  by_cases shuts : s.shutsAtOnce d
  · rcases shuts with shut | ⟨held, opened⟩ | ⟨latch, opening, waits, quiet⟩ | ⟨held, opening, idle⟩
    · have e : s.closeRequest d = s.bedClosed d := by cases kind : (s.setupOf d).kind <;> simp [State.closeRequest, kind, shut]
      exact e ▸ bedwise_bedClosed d s
    · have e : s.closeRequest d = (s.freeChannel d).valveClosed d := by simp [State.closeRequest, held, opened]
      exact e ▸ (bedwise_freeChannel d s).trans (bedwise_valveClosed d _)
    · have e : s.closeRequest d = State.valveClosed d { s with vd.queue := s.vd.queue.filter fun r => decide (r.bed ≠ d) } := by
        simp [State.closeRequest, latch, opening, State.closeOpening, waits, quiet]
      refine e ▸ Bedwise.trans (t := { s with vd.queue := s.vd.queue.filter fun r => decide (r.bed ≠ d) }) (bedwise_drive ?_ rfl (fun b _ => aside_dropRequest b d s) fun _ => rfl) (bedwise_valveClosed d _)
      exact inside_drive _ s.vd.generator s.vd.closures s fun sound => ⟨sound.1.sublist (List.filter_sublist.map _), sound.2⟩
    · have e : s.closeRequest d = (s.freeChannel d).valveClosed d := by
        simp [State.closeRequest, held, opening, Overdraw.closeHeldOpening_released idle]
      exact e ▸ (bedwise_freeChannel d s).trans (bedwise_valveClosed d _)
  · exact bedwise_drive (inside_closeRequest ..) (Overdraw.closeRequest_of_not_shutsAtOnce shuts).1 (fun _ ne => aside_closeRequest ne _) (closeRequest_busy shuts)

/-! ### A cycle's end (R113, R120, R130) -/

theorem bedwise_ending (d : BedId) (c : EndCause) (s : State) : Bedwise d s (Overdraw.ending d c s) :=
  bedwise_resting ((resting_moveBed .closing rfl nofun d s).trans (resting_modBed _ _ rfl le_rfl rfl))

theorem endCycle_supply (d : BedId) (s : State) : s.endCycle d .supply = Overdraw.ending d .supply s := by
  unfold State.endCycle
  exact if_pos rfl

theorem endCycle_other {c : EndCause} (ne : c ≠ .supply) (d : BedId) (s : State) :
    s.endCycle d c = (Overdraw.ending d c s).closeRequest d := by
  unfold State.endCycle
  exact if_neg ne

theorem bedwise_endCycle (d : BedId) (c : EndCause) (s : State) : Bedwise d s (s.endCycle d c) := by
  by_cases supply : c = .supply
  · rw [supply, endCycle_supply]
    exact bedwise_ending ..
  · rw [endCycle_other supply]
    exact (bedwise_ending ..).trans (bedwise_closeRequest ..)

/-- After its end a cycle's bed is in no cycle and no claim. -/
theorem endCycle_rests (d : BedId) (c : EndCause) (s : State) :
    ((s.endCycle d c).bed d).state.cycling = false ∧ ((s.endCycle d c).bed d).state ≠ .claiming := by
  have closing := Overdraw.ending_state d c s
  by_cases supply : c = .supply
  · rw [supply] at closing ⊢
    rw [endCycle_supply, closing]
    exact ⟨rfl, nofun⟩
  · rw [endCycle_other supply]
    have close := bedwise_closeRequest d (Overdraw.ending d c s)
    exact ⟨close.rests (by rw [closing]; rfl), close.unclaimed (by rw [closing]; nofun)⟩

theorem bedwise_cut (d : BedId) (c : EndCause) (s : State) : Bedwise d s (s.cut d c) := by
  unfold State.cut
  split
  · exact bedwise_endCycle ..
  · exact .refl ..

/-- The causes that keep a run's need and have the bed's valve closed by a request. -/
def EndCause.plain (c : EndCause) : Prop := c ≠ .supply ∧ c ≠ .skip ∧ c ≠ .barred

theorem run_ending {d : BedId} {c : EndCause} {s : State} {r : Run} (run : (s.bed d).run = some r) :
    ((Overdraw.ending d c s).bed d).run = some { r with
      endCause := some c, need := if c = .skip ∨ c = .barred then r.delivered else r.need } := by
  simp [Overdraw.ending, Overdraw.bed_moveBed, run]

theorem cycleEnded_endCycle {c : EndCause} (plain : c.plain) {r : Run} (run : (s.bed d).run = some r) (unshut : ¬ s.shutsAtOnce d) :
    CycleEnded d r c s (s.endCycle d c) := by
  obtain ⟨drive, valve⟩ := Overdraw.closeRequest_of_not_shutsAtOnce (mt (Overdraw.ending_shutsAtOnce d c s).mp unshut)
  rw [endCycle_other plain.1]
  refine ⟨?_, ?_, valve⟩
  · rw [drive.bed, Overdraw.ending_state]
  · rw [drive.bed, run_ending run, if_neg (not_or.2 plain.2)]

/-- CLOSED, reported to a bed whose cycle has just ended, where its valve shuts at once. -/
theorem endCycle_shut {c : EndCause} (ne : c ≠ .supply) (shuts : s.shutsAtOnce d) :
    ∃ v, Overdraw.DriveOnly (Overdraw.ending d c s) v ∧ v.valve d = .closed ∧ s.endCycle d c = v.bedClosed d := by
  rw [endCycle_other ne]
  exact Overdraw.closeRequest_of_shutsAtOnce ((Overdraw.ending_shutsAtOnce d c s).mpr shuts)

end Sys2Proof.Machine

/-! PROOFS. The work that closes an event: the cuts, the claim's end and the joins of LINE, as one relation that each operation
keeps and that composes: which beds can come into a cycle, a credit or a claim, and what stays of the others. -/

namespace Sys2Proof.Machine

variable {b d : BedId} {s t u : State}

/-! ### The claim record -/

/-- The claim cannot commit before its CLAIM completes. -/
def Claim.inert (c : Claim) : Prop := c.live = false ∨ c.phase = .sending

/-- The claim has been resolved. -/
def Claim.past (c : Claim) : Prop := c.phase = .ending ∨ c.phase = .asking ∨ c.phase = .awaiting

/-- The claim can commit no cycle of this bed within the event. -/
def Claim.spares (c : Claim) (b : BedId) : Prop := c.bed ≠ b ∨ c.inert

/-- The changes that the closing work makes of a claim record. -/
structure Claim.Onward (c e : Claim) : Prop where
  live : c.live = false → e.live = false
  spares : ∀ b, c.spares b → e.spares b
  ended : c.phase = .ending → e.phase = .ending
  past : c.past → e.past
  made : c.shedMade = true ∨ c.live = false → e.shedMade = true ∨ e.live = false
  kept : c.past → c.shedMade = true → e.shedMade = true

namespace Claim.Onward

variable {c e f : Claim}

theorem refl (c : Claim) : c.Onward c := ⟨id, fun _ => id, id, id, id, fun _ => id⟩

theorem trans (h : c.Onward e) (k : e.Onward f) : c.Onward f :=
  ⟨fun x => k.live (h.live x), fun b x => k.spares b (h.spares b x), fun x => k.ended (h.ended x), fun x => k.past (h.past x),
    fun x => k.made (h.made x), fun x y => k.kept (h.past x) (h.kept x y)⟩

theorem same (phase : e.phase = c.phase) (bed : e.bed = c.bed) (live : e.live = c.live) (shed : e.shedMade = c.shedMade) :
    c.Onward e where
  live h := live.trans h
  spares b := by rw [Claim.spares, Claim.spares, Claim.inert, Claim.inert, phase, bed, live]; exact id
  ended h := phase.trans h
  past := by rw [Claim.past, Claim.past, phase]; exact id
  made := by rw [shed, live]; exact id
  kept _ h := shed.trans h

theorem ending (phase : e.phase = .ending) (shed : e.shedMade = c.shedMade) : c.Onward e where
  live _ := by rw [Claim.live, phase]
  spares _ _ := .inr (.inl (by rw [Claim.live, phase]))
  ended _ := phase
  past _ := .inl phase
  made _ := .inr (by rw [Claim.live, phase])
  kept _ h := shed.trans h

end Claim.Onward

/-! ### The closing work -/

/-- The bed is in no cycle and in no claim. -/
def BedState.calm (x : BedState) : Prop := x.cycling = false ∧ x ≠ .claiming

/-- No SHED waits or is under way. -/
def State.noSheds (s : State) : Prop := ∀ q ∈ s.tq.queue, q.notice.isShed = false

/-- A LINE hold stays to the end of its event (R18). -/
theorem Inside.keepsLine (h : Inside s t) (line : s.bc.holds.line = true) : t.bc.holds.line = true := by
  rcases h.holds with e | e <;> rw [e]
  · exact line
  · rfl

/-- `t` comes from `s` by the cuts, commits, drops and withdrawals that close an event. -/
structure Worked (s t : State) : Prop extends Inside s t where
  credited : ∀ b, (s.bed b).state.credited = false → (t.bed b).state.credited = false
  unclaimed : ∀ b, (s.bed b).state ≠ .claiming → (t.bed b).state ≠ .claiming
  claim : s.sb.claim.Onward t.sb.claim
  quiet : s.sb.claim.live = false → ∀ b, (s.bed b).state.cycling = false → (t.bed b).state.cycling = false
  calm : ∀ b, s.sb.claim.spares b → (s.bed b).state.calm → Aside b s t
  latches : ∀ c, (c = .line → s.bc.holds.line = true) → c ≠ .discard → t.latch c = s.latch c
  more : s.au.more = true → t.au.more = true
  notices : ∀ q ∈ s.tq.queue, q.notice.isClaim = false → q.notice.isShed = false → q ∈ t.tq.queue
  sheds : s.sb.claim.shedMade = true ∨ s.sb.claim.live = false → s.noSheds → t.noSheds
  pulse : s.vd.generator ≠ .idle → t.vd.generator = s.vd.generator

namespace Worked

theorem refl (s : State) : Worked s s :=
  ⟨.refl s, fun _ => id, fun _ => id, .refl _, fun _ _ => id, fun b _ _ => .refl b s, fun _ _ _ => rfl, id, fun _ h _ _ => h,
    fun _ => id, fun _ => rfl⟩

theorem trans (h : Worked s t) (k : Worked t u) : Worked s u where
  toInside := h.toInside.trans k.toInside
  credited b e := k.credited b (h.credited b e)
  unclaimed b e := k.unclaimed b (h.unclaimed b e)
  claim := h.claim.trans k.claim
  quiet e b x := k.quiet (h.claim.live e) b (h.quiet e b x)
  calm b e x := by
    have a := h.calm b e x
    exact a.trans (k.calm b (h.claim.spares b e) (by rw [a.bed]; exact x))
  latches c e f := (k.latches c (fun line => h.toInside.keepsLine (e line)) f).trans (h.latches c e f)
  more e := k.more (h.more e)
  notices q m x y := k.notices q (h.notices q m x y) x y
  sheds e x := k.sheds (h.claim.made e) (h.sheds e x)
  pulse busy := (k.pulse (by rwa [h.pulse busy])).trans (h.pulse busy)

end Worked

/-- An operation that leaves the beds and the drive. -/
theorem worked_same (inside : Inside s t) (beds : t.bc.beds = s.bc.beds) (vd : t.vd = s.vd) (claim : s.sb.claim.Onward t.sb.claim)
    (latches : ∀ c, (c = .line → s.bc.holds.line = true) → c ≠ .discard → t.latch c = s.latch c) (more : s.au.more = true → t.au.more = true)
    (notices : ∀ q ∈ s.tq.queue, q.notice.isClaim = false → q.notice.isShed = false → q ∈ t.tq.queue)
    (sheds : s.sb.claim.shedMade = true ∨ s.sb.claim.live = false → s.noSheds → t.noSheds) : Worked s t :=
  have bed : ∀ b, t.bed b = s.bed b := fun b => by rw [State.bed, beds]; rfl
  ⟨inside, fun b h => by rwa [bed], fun b h => by rwa [bed], claim, fun _ b h => by rwa [bed],
    fun b _ _ => aside_same (by rw [inside.sl]) beds vd, latches, more, notices, sheds, fun _ => by rw [vd]⟩

theorem worked_ite {p : Prop} [Decidable p] (ht : p → Worked s t) (hu : ¬p → Worked s u) : Worked s (if p then t else u) := by
  split
  · exact ht ‹_›
  · exact hu ‹_›

theorem worked_foldl {α : Type} (f : State → α → State) (hf : ∀ s a, Worked s (f s a)) (l : List α) (s : State) :
    Worked s (l.foldl f s) := by
  induction l generalizing s with
  | nil => exact .refl s
  | cons a l ih => exact (hf s a).trans (ih _)

theorem worked_noteOccasion (s : State) : Worked s s.noteOccasion :=
  worked_same (inside_noteOccasion s) rfl rfl (.refl _) (fun _ _ _ => rfl) id (fun _ h _ _ => h) fun _ h => h

theorem worked_claim {c : Claim} (h : s.sb.claim.Onward c) : Worked s { s with sb.claim := c } :=
  worked_same (inside_claim c s) rfl rfl h (fun _ _ _ => rfl) id (fun _ h _ _ => h) fun _ h => h

theorem offer_claim (n : Notice) (s : State) : (s.offer n).sb = s.sb := by rw [Overdraw.offer_rest]

theorem mem_offer {n : Notice} {q : Queued} (h : q ∈ s.tq.queue) : q ∈ (s.offer n).tq.queue := by
  rcases offer_queue n s with e | e <;> simp [e, h]

theorem noSheds_offer {n : Notice} (kind : n.isShed = false) (h : s.noSheds) : (s.offer n).noSheds := by
  intro q m
  rcases offer_queue n s with e | e
  · rw [e] at m
    rcases List.mem_append.1 m with m | m
    · exact h q m
    · rw [List.mem_singleton.1 m]; exact kind
  · exact h q (e ▸ m)

theorem worked_offer (n : Notice) (kind : n.isTally = false) (shed : n.isShed = false) (s : State) : Worked s (s.offer n) := by
  have rest := Overdraw.offer_rest n s
  refine worked_same (inside_offer n kind s) (by rw [rest]) (by rw [rest]) (by rw [offer_claim]; exact .refl _) (fun c _ ne => offer_latch n ne s)
    (fun h => by rw [(offer_fault n s).2, h]) (fun q h _ _ => mem_offer h) fun _ => noSheds_offer shed

theorem remove_claim (st bd : Nat) (s : State) : (s.remove st bd).sb.claim = s.sb.claim := by
  unfold State.remove
  split <;> rfl

theorem worked_removeOwn (bd : Nat) (s : State) : Worked s (s.remove s.sl.own bd) := by
  have rest := Overdraw.remove_rest s.sl.own bd s
  exact worked_same (inside_removeOwn bd s) (by rw [rest]) (by rw [rest]) (by rw [remove_claim]; exact .refl _)
    (fun c _ _ => by rw [rest]; rfl) (fun h => by rw [rest]; exact h) (fun q h _ _ => by rw [rest]; exact h)
    fun _ h => by rw [rest]; exact h

/-- An operation of a bed that was in a cycle or a claim and rests after it. -/
theorem worked_bed (h : Bedwise d s t) (claim : t.sb.claim = s.sb.claim) (busy : ¬ (s.bed d).state.calm) (rests : (t.bed d).state.calm) :
    Worked s t where
  toInside := h.toInside
  credited b e := by
    by_cases eq : b = d
    · rw [eq]
      cases state : (t.bed d).state <;> first | rfl | simp [BedState.calm, state, BedState.cycling] at rests
    · rwa [(h.aside b eq).bed]
  unclaimed b e := by
    by_cases eq : b = d
    · rw [eq]; exact rests.2
    · rwa [(h.aside b eq).bed]
  claim := by rw [claim]; exact .refl _
  quiet _ b e := by
    by_cases eq : b = d
    · rw [eq]; exact rests.1
    · rwa [(h.aside b eq).bed]
  calm b _ c := h.aside b fun eq => busy (eq ▸ c)
  pulse := h.pulse
  latches c _ e := h.latches c e
  more e := by rw [h.fault.2, e]
  notices q m _ _ := by
    obtain ⟨l, e, -⟩ := h.waits
    rw [e]
    exact List.mem_append_left _ m
  sheds _ none q m := by
    obtain ⟨l, e, free⟩ := h.waits
    rw [e] at m
    rcases List.mem_append.1 m with m | m
    · exact none q m
    · rw [free q m]; rfl

theorem not_calm_of_cycling {x : BedState} (h : x.cycling = true) : ¬ x.calm := fun c => by simp [c.1] at h

theorem ne_claiming_of_cycling {x : BedState} (h : x.cycling = true) : x ≠ .claiming := fun e => by simp [e, BedState.cycling] at h

theorem worked_endCycle (cycling : (s.bed d).state.cycling = true) (c : EndCause) : Worked s (s.endCycle d c) :=
  have h := bedwise_endCycle d c s
  worked_bed h (h.claim (ne_claiming_of_cycling cycling)) (not_calm_of_cycling cycling) (endCycle_rests d c s)

theorem worked_cut (d : BedId) (c : EndCause) (s : State) : Worked s (s.cut d c) :=
  worked_ite (fun h => worked_endCycle h c) fun _ => .refl s

/-! ### The claim's end (R71, R81) -/

theorem toWaiting_sb (d : BedId) (n : Nat) (s : State) : (s.toWaiting d n).sb = s.sb := by
  have waits : ((s.setWaiting d n).bed d).state = .waiting := by rw [Overdraw.bed_setWaiting]
  exact (resting_bringTargets d (s.setWaiting d n)).sb (by rw [waits]; nofun)

theorem toWaiting_calm (d : BedId) (n : Nat) (s : State) : ((s.toWaiting d n).bed d).state.calm := by
  have waits : ((s.setWaiting d n).bed d).state = .waiting := by rw [Overdraw.bed_setWaiting]
  have rest := resting_bringTargets d (s.setWaiting d n)
  exact ⟨rest.rests (by rw [waits]; rfl), rest.unclaimed (by rw [waits]; nofun)⟩

theorem worked_toWaiting (claiming : (s.bed d).state = .claiming) (n : Nat) : Worked s (s.toWaiting d n) :=
  worked_bed (bedwise_resting (resting_toWaiting d n s)) (by rw [toWaiting_sb]) (fun c => c.2 claiming) (toWaiting_calm d n s)

/-- The claim record as its end leaves it. -/
def Claim.over (c : Claim) : Claim :=
  { c with phase := .ending, resolveSince := .none, victimSince := .none, outcome := .none, withdrawn := false, seniors := [] }

theorem endClaim_eq (s : State) : s.endClaim = { (s.offer (.drop s.sb.claim.bed)).remove s.sl.own s.sb.claim.bed.val with
    sb.claim := s.sb.claim.over } := rfl

theorem offer_sl (n : Notice) (s : State) : (s.offer n).sl = s.sl := by rw [Overdraw.offer_rest]

theorem worked_endClaim (s : State) : Worked s s.endClaim := by
  rw [endClaim_eq]
  refine ((worked_offer (.drop s.sb.claim.bed) rfl rfl s).trans ?_).trans (worked_claim (.ending rfl (by rw [remove_claim, offer_claim]; rfl)))
  have h := worked_removeOwn s.sb.claim.bed.val (s.offer (.drop s.sb.claim.bed))
  rwa [offer_sl] at h

theorem endClaim_phase (s : State) : s.endClaim.sb.claim = s.sb.claim.over := rfl

theorem endClaim_bed (b : BedId) (s : State) : s.endClaim.bed b = s.bed b := by
  rw [endClaim_eq, Overdraw.remove_rest, Overdraw.offer_rest]
  rfl

theorem worked_dropClaim (s : State) : Worked s s.dropClaim := by
  unfold State.dropClaim
  extract_lets c t
  have ends : Worked s t := worked_endClaim s
  exact worked_ite (fun h => ends.trans (worked_toWaiting h _)) fun _ => ends

theorem dropClaim_phase (s : State) : s.dropClaim.sb.claim = s.sb.claim.over := by
  unfold State.dropClaim
  extract_lets c t
  split
  · rw [toWaiting_sb]; rfl
  · rfl

/-! ### Withdrawal (R81) -/

theorem cancel_rest (p : Notice → Bool) (s : State) : s.cancel p = { s with tq := (s.cancel p).tq } := by
  unfold State.cancel State.modHead State.popHead
  split
  · split <;> rfl
  · split
    · split <;> rfl
    · rfl

/-- A cancellation leaves every notice of another sort in the queue. -/
theorem mem_cancel {p : Notice → Bool} {q : Queued} (h : q ∈ s.tq.queue) (other : p q.notice = false) : q ∈ (s.cancel p).tq.queue := by
  unfold State.cancel State.modHead State.popHead
  split
  · rename_i sending
    split
    · rename_i x l queue
      simp only [State.sendingOf, queue, Bool.and_eq_true] at sending
      rw [queue] at h
      rcases List.mem_cons.1 h with rfl | m
      · simp [sending.2] at other
      · exact List.mem_cons_of_mem _ m
    · exact h
  · split
    · rename_i x l queue
      rw [queue] at h
      split
      · rename_i head
        rcases List.mem_cons.1 h with rfl | m
        · simp [head] at other
        · simpa [queue] using m
      · rcases List.mem_cons.1 h with rfl | m
        · exact List.mem_cons_self ..
        · exact List.mem_cons_of_mem _ ((List.mem_eraseP_of_neg (by simp [other])).2 m)
    · exact h

/-- A cancellation brings no notice in. -/
theorem noSheds_cancel (p : Notice → Bool) (h : s.noSheds) : (s.cancel p).noSheds := by
  unfold State.cancel State.modHead State.popHead
  split
  · split
    · rename_i x l queue
      intro q m
      rcases List.mem_cons.1 m with rfl | m
      · exact h x (by simp [queue])
      · exact h q (by simp [queue, m])
    · exact h
  · split
    · rename_i x l queue
      split
      · exact fun q m => h q (List.mem_of_mem_drop m)
      · intro q m
        rcases List.mem_cons.1 m with rfl | m
        · exact h q (by simp [queue])
        · exact h q (by simp [queue, List.mem_of_mem_eraseP m])
    · exact h

theorem worked_cancel (p : Notice → Bool) (own : ∀ n, p n = true → n.isClaim = true ∨ n.isShed = true) (s : State) :
    Worked s (s.cancel p) := by
  have rest := cancel_rest p s
  refine worked_same (inside_cancel p s) (by rw [rest]) (by rw [rest]) (by rw [rest]; exact .refl _) (fun c _ _ => by rw [rest]; rfl)
    (fun h => by rw [rest]; exact h) (fun q h a b => mem_cancel h (Bool.eq_false_of_not_eq_true fun e => ?_)) fun _ => noSheds_cancel p
  rcases own q.notice e with x | x <;> simp_all

theorem cancel_sb (p : Notice → Bool) (s : State) : (s.cancel p).sb = s.sb := by rw [cancel_rest]
theorem cancel_bed (p : Notice → Bool) (b : BedId) (s : State) : (s.cancel p).bed b = s.bed b := by rw [cancel_rest]; rfl

theorem worked_withdraw (s : State) : Worked s s.withdraw := by
  unfold State.withdraw
  split
  · exact .refl s
  · exact .refl s
  · rename_i sending
    extract_lets t
    have cancels : Worked s t := worked_cancel _ (fun _ => .inl) s
    have phase : t.sb.claim.phase = .sending := by rw [show t.sb = s.sb from cancel_sb ..]; exact sending
    have out (c : Claim) (h : c.live = false) : t.sb.claim.Onward c :=
      ⟨fun _ => h, fun _ _ => .inr (.inl h), fun e => by simp [phase] at e, fun e => by simp [Claim.past, phase] at e, fun _ => .inr h,
        fun e => by simp [Claim.past, phase] at e⟩
    split
    · exact cancels.trans (worked_claim (c := { t.sb.claim with withdrawn := true }) (out _ (by simp [Claim.live, phase])))
    · exact (cancels.trans (worked_claim (c := Claim.none) (out _ rfl))).trans (worked_noteOccasion _)
  · exact worked_endClaim s
  · exact worked_endClaim s
  · rename_i asking
    dsimp only
    have drops : Worked s { s with sb.claim := { s.sb.claim with outcome := some .drop } } :=
      worked_claim ⟨fun _ => by simp [Claim.live, asking], fun _ _ => .inr (.inl (by simp [Claim.live, asking])),
        fun e => by simp [asking] at e, fun _ => .inr (.inl asking), fun _ => .inr (by simp [Claim.live, asking]),
        fun _ h => h⟩
    have cancels := drops.trans (worked_cancel Notice.isShed (fun _ => .inr) _)
    exact worked_ite (fun _ => cancels) fun _ => cancels.trans (worked_endClaim _)

/-- After its withdrawal no claim may commit. -/
theorem withdraw_live (s : State) : s.withdraw.sb.claim.live = false := by
  unfold State.withdraw
  split
  · rename_i phase; simp [Claim.live, phase]
  · rename_i phase; simp [Claim.live, phase]
  · rename_i sending
    dsimp only
    split
    · simp [Claim.live, cancel_sb, sending]
    · rfl
  · rfl
  · rfl
  · rename_i asking
    dsimp only
    split
    · simp [Claim.live, cancel_sb, asking]
    · rfl

theorem withdraw_bed (b : BedId) (s : State) : s.withdraw.bed b = s.bed b := by
  unfold State.withdraw
  split
  · rfl
  · rfl
  · dsimp only
    split
    · exact cancel_bed ..
    · exact cancel_bed ..
  · exact endClaim_bed ..
  · exact endClaim_bed ..
  · dsimp only
    split
    · exact cancel_bed ..
    · rw [endClaim_bed]; exact cancel_bed ..

theorem worked_withdrawToWaiting (claiming : (s.bed d).state = .claiming) : Worked s (s.withdrawToWaiting d) :=
  (worked_withdraw s).trans (worked_toWaiting (by rw [withdraw_bed, claiming]) 0)

/-! ### The hold set (R99, R100) -/

theorem worked_holdBed (r : HoldReason) (d : BedId) (s : State) : Worked s (s.holdBed r d) := by
  have ends (c : EndCause) (h : (s.bed d).state.cycling = true) := worked_endCycle h c
  unfold State.holdBed
  split
  · rename_i h
    split
    · exact ends _ (by rw [h]; rfl)
    · exact .refl s
  · rename_i h
    split
    · exact ends _ (by rw [h]; rfl)
    · exact .refl s
  · rename_i h
    split
    · exact ends _ (by rw [h]; rfl)
    · exact .refl s
  · exact worked_ite (fun _ => .refl s) fun _ => worked_withdrawToWaiting ‹_›
  all_goals exact .refl s

theorem worked_forBeds (f : BedId → State → State) (hf : ∀ b s, Worked s (f b s)) (s : State) : Worked s (s.forBeds f) :=
  worked_foldl _ (fun s b => hf b s) allBeds s

theorem joinHold_present {r : HoldReason} (h : s.bc.holds.has r = true) : s.joinHold r = s := if_pos h

theorem joinHold_absent {r : HoldReason} (h : s.bc.holds.has r = false) :
    s.joinHold r = (State.forBeds (State.holdBed r) { s with bc.holds := s.bc.holds.put r true }).noteOccasion :=
  if_neg (by simp [h])

/-- What a join does to the beds, once the reason stands in the set. -/
theorem worked_joinHold {r : HoldReason} (h : s.bc.holds.has r = false) : Worked { s with bc.holds := s.bc.holds.put r true } (s.joinHold r) := by
  rw [joinHold_absent h]
  exact (worked_forBeds _ (worked_holdBed r) _).trans (worked_noteOccasion _)

/-- What each operation of a pass gives its own bed, and no other takes away, holds of every bed after the pass. -/
theorem forBeds_reaches {P : BedId → State → Prop} {f : BedId → State → State} (does : ∀ b s, P b (f b s))
    (keeps : ∀ b d s, P b s → P b (f d s)) (b : BedId) (s : State) : P b (s.forBeds f) := by
  have kept (l : List BedId) (s : State) (h : P b s) : P b (l.foldl (fun s d => f d s) s) := by
    induction l generalizing s with
    | nil => exact h
    | cons d l ih => exact ih _ (keeps b d s h)
  suffices ∀ l : List BedId, b ∈ l → ∀ s, P b (l.foldl (fun s d => f d s) s) from this allBeds (mem_allBeds b) s
  intro l m
  induction l with
  | nil => cases m
  | cons d l ih =>
    intro s
    rcases List.mem_cons.1 m with rfl | m
    · exact kept l _ (does b s)
    · exact ih m _

/-! ### Line-loss closure (R18) -/

theorem raise_latch {c : Cause} (bed value peer kind one two : Nat) {e : Cause} (ne : e ≠ c) (s : State) :
    (s.raise c bed value peer kind one two).latch e = s.latch e := by
  unfold State.raise
  rw [State.takeFault]
  split <;> exact (State.latch_setPending ..).trans (if_neg ne)

theorem raise_same (c : Cause) (bed value peer kind one two : Nat) (s : State) :
    s.raise c bed value peer kind one two = { s with au := (s.raise c bed value peer kind one two).au } := by
  unfold State.raise
  rw [State.takeFault_rest, State.setPending_rest]

theorem raise_more (c : Cause) (bed value peer kind one two : Nat) {s : State} (h : s.au.more = true) :
    (s.raise c bed value peer kind one two).au.more = true := by
  unfold State.raise State.takeFault State.setPending
  split <;> split <;> first | rfl | exact h

/-- The raised cause is pending with its bed and value (R173). -/
theorem raise_pending (c : Cause) (bed value peer kind one two : Nat) (s : State) :
    (s.raise c bed value peer kind one two).latch c = ⟨true, (s.latch c).armed, bed, word16 value⟩ := by
  unfold State.raise
  rw [State.takeFault]
  split <;> exact State.latch_setPending_same ..

theorem raise_record (c : Cause) (bed value peer kind one two : Nat) {s : State} (h : s.au.record = none) :
    (s.raise c bed value peer kind one two).au.record = some ⟨c, bed, peer, kind, word16 one, word16 two, s.clockMinute⟩ := by
  unfold State.raise
  rw [State.takeFault_unlocked _ _ _ _ _ _ _ (by rw [State.setPending_record, h]), State.setPending_rest]
  rfl

theorem worked_joinLine (s : State) : Worked s (s.joinHold .line) := by
  by_cases h : s.bc.holds.has .line = true
  · rw [joinHold_present h]
    exact .refl s
  · have joins : Worked s { s with bc.holds := s.bc.holds.put .line true } :=
      worked_same (inside_putLine s) rfl rfl (.refl _) (fun _ _ _ => rfl) id (fun _ h _ _ => h) fun _ h => h
    exact joins.trans (worked_joinHold (by simpa using h))

/-- Closure is the join of LINE, but for the alert unit. -/
theorem closeLine_rest (s : State) : s.closeLine = { s.joinHold .line with au := s.closeLine.au } := raise_same ..

theorem worked_closeLine (absent : s.bc.holds.line = false) : Worked s s.closeLine := by
  have joins := worked_joinLine s
  have rest := closeLine_rest s
  exact {
    toInside := inside_closeLine s
    credited := fun b h => by rw [rest]; exact joins.credited b h
    unclaimed := fun b h => by rw [rest]; exact joins.unclaimed b h
    claim := by rw [rest]; exact joins.claim
    quiet := fun live b h => by rw [rest]; exact joins.quiet live b h
    calm := fun b x y => (joins.calm b x y).trans (by rw [rest]; exact aside_same rfl rfl rfl)
    latches := fun c line ne => by
      refine (raise_latch (c := .line) _ _ _ _ _ _ (fun same => ?_) _).trans (joins.latches c line ne)
      have present := line same
      rw [absent] at present
      cases present
    more := fun h => raise_more _ _ _ _ _ _ _ (joins.more h)
    notices := fun q m x y => by rw [rest]; exact joins.notices q m x y
    sheds := fun made none => by rw [rest]; exact joins.sheds made none
    pulse := fun busy => by rw [rest]; exact joins.pulse busy }

theorem worked_ownCommitted (s : State) : Worked s s.ownCommitted := by
  refine worked_ite (fun lost => worked_closeLine ?_) fun _ => .refl s
  unfold State.lineLost at lost
  simpa using (Bool.and_eq_true_iff.1 lost).2

/-! ### Commit (R70) -/

theorem driveOnly_takeChannel (d : BedId) (s : State) : Overdraw.DriveOnly s (s.takeChannel d) := by
  unfold State.takeChannel
  dsimp only
  split
  all_goals rfl

theorem driveOnly_openRequest (d : BedId) (s : State) : Overdraw.DriveOnly s (s.openRequest d) := by
  unfold State.openRequest
  split
  · split
    · exact (Overdraw.driveOnly_setValve ..).trans (Overdraw.driveOnly_queueRequest ..)
    · exact driveOnly_takeChannel ..
  · rfl

theorem bed_startCycle (d : BedId) (s : State) : (s.startCycle d).bed d = { s.bed d with
    state := .opening, backoffEnd := none, soakSince := none, run := some (nextCycle (s.bed d).run (s.bed d).need s.runClock) } := by
  unfold State.startCycle
  rw [State.bed_modBed_same, Overdraw.bed_moveBed, if_pos rfl]

theorem aside_startCycle (ne : b ≠ d) (s : State) : Aside b s (s.startCycle d) := (aside_moveBed ne ..).trans (aside_modBed ne ..)

/-- The claim's bed opens: the one way into a cycle. -/
theorem openRequest_busy (d : BedId) (busy : s.vd.generator ≠ .idle) : (s.openRequest d).vd.generator = s.vd.generator := by
  unfold State.openRequest
  split
  · split
    · exact queueRequest_busy (s := s.setValve d .opening) d .opens busy
    · unfold State.takeChannel
      dsimp only
      split <;> rfl
  · rfl

theorem worked_start (h : Worked s t) (can : ¬ s.sb.claim.inert) (bed : s.sb.claim.bed = d) : Worked s ((t.startCycle d).openRequest d) := by
  have drive := driveOnly_openRequest d (t.startCycle d)
  have opens : (((t.startCycle d).openRequest d).bed d).state = .opening := by rw [drive.bed, bed_startCycle]
  have aside (b : BedId) (ne : b ≠ d) : Aside b t ((t.startCycle d).openRequest d) := (aside_startCycle ne t).trans (aside_openRequest ne _)
  exact {
    toInside := (h.toInside.trans (inside_startCycle d t)).trans (inside_openRequest d _)
    credited b e := by
      by_cases eq : b = d
      · rw [eq, opens]; rfl
      · rw [(aside b eq).bed]; exact h.credited b e
    unclaimed b e := by
      by_cases eq : b = d
      · rw [eq, opens]; nofun
      · rw [(aside b eq).bed]; exact h.unclaimed b e
    claim := by rw [drive.sb]; exact h.claim
    quiet e := absurd (.inl e) can
    calm b e x := (h.calm b e x).trans (aside b fun eq => e.elim (fun ne => ne (bed.trans eq.symm)) can)
    latches c x y := by rw [drive]; exact h.latches c x y
    more e := by rw [drive]; exact h.more e
    notices q m x y := by rw [drive.tq]; exact h.notices q m x y
    sheds e x := by rw [State.noSheds, drive.tq]; exact h.sheds e x
    pulse busy := by
      have still := h.pulse busy
      rw [openRequest_busy (s := t.startCycle d) d (by rw [show (t.startCycle d).vd = t.vd from rfl, still]; exact busy)]
      exact still }

theorem worked_updateOwn (bd : Nat) (f : Entry → Entry) (hf : ∀ e, (f e).station = e.station ∧ (f e).bed = e.bed) (s : State) :
    Worked s (s.putBook (updateEntry s.sl.own bd f s.sb.book)) :=
  worked_same (inside_updateOwn bd f hf s) rfl rfl (.refl _) (fun _ _ _ => rfl) id (fun _ h _ _ => h) fun _ h => h

/-- The state in which a commit's bed opens: the entry COMMITTED, the claim in ENDING, the COMMIT offered (R36, R70). -/
def State.committing (s : State) : State :=
  let c := s.sb.claim
  State.offer (.commit c.bed) { s.putBook
    (updateEntry s.sl.own c.bed.val (fun e => { e with committed := true, heard := s.now }) s.sb.book) with
    sb.claim := { c with phase := .ending, resolveSince := none, victimSince := none, outcome := none, seniors := [] } }

theorem commitClaim_eq (s : State) :
    s.commitClaim = ((s.committing.startCycle s.sb.claim.bed).openRequest s.sb.claim.bed).ownCommitted := rfl

theorem worked_committing (s : State) : Worked s s.committing := by
  have entry := worked_updateOwn s.sb.claim.bed.val (fun e => { e with committed := true, heard := s.now }) (fun _ => ⟨rfl, rfl⟩) s
  exact (entry.trans (worked_claim (c := { s.sb.claim with
    phase := .ending, resolveSince := none, victimSince := none, outcome := none, seniors := [] }) (.ending rfl rfl))).trans (worked_offer (.commit s.sb.claim.bed) rfl rfl _)

theorem worked_commitClaim (can : ¬ s.sb.claim.inert) : Worked s s.commitClaim := by
  rw [commitClaim_eq]
  exact (worked_start (worked_committing s) can rfl).trans (worked_ownCommitted _)

/-! ### The shed and the resolution (R69 to R77) -/

/-- The claim record as a shed of an own entry leaves it (R74). -/
def Claim.sheds (c : Claim) (e : Entry) (now : Nat) : Claim :=
  { c with phase := .awaiting, shedMade := true, victim := some (e.station, e.bed), resolveSince := .none, victimSince := some now }

/-- The claim record as a shed of a peer's entry leaves it (R75). -/
def Claim.asks (c : Claim) (e : Entry) : Claim :=
  { c with phase := .asking, shedMade := true, victim := some (e.station, e.bed), resolveSince := .none }

theorem shedOwn_eq (e : Entry) (s : State) : s.shedOwn e = match bedOf e.bed with
    | some b => State.cut b .shed { s with sb.claim := s.sb.claim.sheds e s.now }
    | none => { s with sb.claim := s.sb.claim.sheds e s.now } := rfl

theorem shedPeer_eq (e : Entry) (s : State) :
    s.shedPeer e = State.offer (.shed e.station e.bed s.sb.claim.bed) { s with sb.claim := s.sb.claim.asks e } := rfl

/-- A claim that may commit goes on, in a phase of a resolution, on the same bed. -/
theorem Claim.Onward.resolved {c e : Claim} (can : ¬ c.inert) (phase : e.past) (bed : e.bed = c.bed) (shed : e.shedMade = true) :
    c.Onward e where
  live h := absurd (.inl h) can
  spares b h := .inl (by rw [bed]; exact h.resolve_right can)
  ended h := absurd (.inl (by simp [Claim.live, h])) can
  past _ := phase
  made _ := .inl shed
  kept _ _ := shed

theorem worked_shedClaim (can : ¬ s.sb.claim.inert) (unmade : s.sb.claim.shedMade = false) : Worked s s.shedClaim := by
  unfold State.shedClaim
  split
  · exact worked_dropClaim s
  · rename_i e _
    split
    · have sheds : Worked s { s with sb.claim := s.sb.claim.sheds e s.now } := worked_claim (.resolved can (.inr (.inr rfl)) rfl rfl)
      rw [shedOwn_eq]
      split
      · exact sheds.trans (worked_cut _ .shed _)
      · exact sheds
    · have asks : Worked s { s with sb.claim := s.sb.claim.asks e } := worked_claim (.resolved can (.inr (.inl rfl)) rfl rfl)
      rw [shedPeer_eq]
      exact { asks with
        toInside := asks.toInside.trans (inside_offer _ rfl _)
        credited := fun b h => by rw [offer_bed]; exact h
        unclaimed := fun b h => by rw [offer_bed]; exact h
        claim := by rw [offer_claim]; exact asks.claim
        quiet := fun _ b h => by rw [offer_bed]; exact h
        calm := fun b x y => (asks.calm b x y).trans (aside_offer ..)
        latches := fun c _ ne => offer_latch _ ne _
        more := fun h => by rw [(offer_fault ..).2]; exact h
        notices := fun q m _ _ => mem_offer m
        sheds := fun made => made.elim (fun h => by simp [unmade] at h) fun dead => absurd (.inl dead) can
        pulse := fun _ => by rw [Overdraw.offer_rest] }

theorem worked_resolve (can : ¬ s.sb.claim.inert) : Worked s s.resolve :=
  worked_ite (fun _ => worked_commitClaim can) fun _ => worked_ite (fun h => worked_shedClaim can h.2) fun _ => worked_dropClaim s

theorem not_inert_of_resolving (h : s.sb.claim.phase = .resolving) : ¬ s.sb.claim.inert := by simp [Claim.inert, Claim.live, h]

theorem not_inert_of_awaiting (h : s.sb.claim.phase = .awaiting) : ¬ s.sb.claim.inert := by simp [Claim.inert, Claim.live, h]

theorem not_inert_of_asking {c : Claim} (h : c.phase = .asking) (out : c.outcome ≠ some .drop) : ¬ c.inert := by
  simp [Claim.inert, Claim.live, h, out]

theorem worked_applyHeld (asking : s.sb.claim.phase = .asking) : Worked s s.applyHeld := by
  unfold State.applyHeld
  split
  · rename_i held
    have clear : Worked s { s with sb.claim := { s.sb.claim with outcome := none } } :=
      worked_claim (.same rfl rfl (by simp [Claim.live, asking, held]) rfl)
    exact clear.trans (worked_resolve (not_inert_of_asking (c := { s.sb.claim with outcome := none }) asking nofun))
  · exact worked_endClaim s
  · exact .refl s

theorem worked_victimLeaves (s : State) : Worked s s.victimLeaves := by
  unfold State.victimLeaves
  split
  · exact worked_resolve (not_inert_of_awaiting ‹_›)
  · rename_i asking none
    have holds : Worked s { s with sb.claim := { s.sb.claim with outcome := some .reResolve } } :=
      worked_claim (.same rfl rfl (by simp [Claim.live, asking, none]) rfl)
    have cancels := holds.trans (worked_cancel Notice.isShed (fun _ => .inr) _)
    refine worked_ite (fun _ => cancels) fun _ => cancels.trans (worked_applyHeld ?_)
    rw [cancel_sb]
    exact asking
  all_goals exact .refl s

/-! ### A lap of the book's steps (R40) -/

theorem worked_cutOver (e : Entry) (s : State) : Worked s (s.cutOver e) := by
  unfold State.cutOver
  split
  · split
    · exact worked_cut ..
    · exact .refl s
  · exact .refl s

theorem worked_overdraw (s : State) : Worked s s.overdraw := worked_foldl _ (fun s e => worked_cutOver e s) _ s

theorem worked_marks (x : Bool) (o : Bool) (s : State) : Worked s { s with sb.dirty := x, bc.occasion := o } :=
  worked_same (inside_marks x o s) rfl rfl (.refl _) (fun _ _ _ => rfl) id (fun _ h _ _ => h) fun _ h => h

theorem worked_clearSaturated (s : State) : Worked s s.clearSaturated :=
  worked_ite (fun _ => worked_same (inside_saturated false s) rfl rfl (.refl _) (fun _ _ _ => rfl) id (fun _ h _ _ => h) fun _ h => h) fun _ => .refl s

/-- The claim's senior set by the book of this moment. -/
def State.relisted (s : State) : State := { s with sb.claim := { s.sb.claim with seniors := s.liveSeniors } }

theorem worked_relisted (s : State) : Worked s s.relisted := worked_claim (.same rfl rfl rfl rfl)

theorem report_eq (s : State) : s.report = match s.sb.claim.phase with
    | .resolving => if s.liveSeniors.isEmpty then s.relisted.resolve else s.relisted
    | .asking | .awaiting => if s.victimGone then s.relisted.victimLeaves else s.relisted
    | .none | .sending | .ending => s.relisted := rfl

theorem worked_report (s : State) : Worked s s.report := by
  have lists := worked_relisted s
  rw [report_eq]
  split
  · rename_i resolving
    exact worked_ite (fun _ => lists.trans (worked_resolve (not_inert_of_resolving (s := s.relisted) resolving))) fun _ => lists
  · exact worked_ite (fun _ => lists.trans (worked_victimLeaves _)) fun _ => lists
  · exact worked_ite (fun _ => lists.trans (worked_victimLeaves _)) fun _ => lists
  all_goals exact lists

/-- The book's steps, up to the reports. -/
def State.checked (s : State) : State := (State.overdraw { s with sb.dirty := false }).clearSaturated

theorem bookSteps_eq (s : State) : s.bookSteps = s.checked.report.noteOccasion := rfl

theorem worked_checked (s : State) : Worked s s.checked :=
  ((worked_marks false s.bc.occasion s).trans (worked_overdraw _)).trans (worked_clearSaturated _)

theorem worked_bookSteps (s : State) : Worked s s.bookSteps :=
  ((worked_checked s).trans (worked_report _)).trans (worked_noteOccasion _)

theorem worked_settleBook (n : Nat) (s : State) : Worked s (s.settleBook n) := by
  induction n generalizing s with
  | zero => exact .refl s
  | succ n ih => exact worked_ite (fun _ => (worked_bookSteps s).trans (ih _)) fun _ => .refl s

/-! ### The end of an event -/

/-- What ends an event after so many laps of the book's steps. -/
def State.ends (n : Nat) (s : State) : State :=
  let t := s.settleBook n
  let u := { t with sb.dirty := false, bc.occasion := false }
  (if t.bc.occasion then u.weighOccasion else u).offerAlerts

theorem finish_eq (s : State) : s.finish = s.ends settleLaps := rfl

theorem ends_lap (n : Nat) {s : State} (dirty : s.sb.dirty = true) : s.ends (n + 1) = s.bookSteps.ends n := by
  have lap : s.settleBook (n + 1) = s.bookSteps.settleBook n := if_pos dirty
  unfold State.ends
  rw [lap]

theorem ends_clean (n m : Nat) {s : State} (clean : s.sb.dirty = false) : s.ends n = s.ends m := by
  have none (n : Nat) : s.settleBook n = s := by
    cases n with
    | zero => rfl
    | succ n => exact if_neg (by simp [clean])
  unfold State.ends
  rw [none, none]

/-- The end of an event is its closing work, one occasion that may be weighed, and the ALERTs. -/
theorem ends_work (n : Nat) (s : State) : ∃ u, Worked s u ∧ u.sb.dirty = false ∧ u.bc.occasion = false
    ∧ (AfterAlerts u (s.ends n) ∨ AfterAlerts u.weighOccasion (s.ends n)) := by
  refine ⟨{ s.settleBook n with sb.dirty := false, bc.occasion := false }, (worked_settleBook n s).trans (worked_marks ..), rfl, rfl, ?_⟩
  unfold State.ends
  dsimp only
  split
  · exact .inr (afterAlerts_offerAlerts _)
  · exact .inl (afterAlerts_offerAlerts _)

theorem finish_work (s : State) : ∃ u, Worked s u ∧ (AfterAlerts u s.finish ∨ AfterAlerts u.weighOccasion s.finish) := by
  obtain ⟨u, worked, -, -, ends⟩ := ends_work settleLaps s
  exact ⟨u, worked, ends⟩

end Sys2Proof.Machine

/-! PROOFS. The resolution of the claim and the end of its event (R69 to R77): a lap that finds nothing to do, a commit, a drop, a
shed of the station's own and a shed of a peer's entry. -/

namespace Sys2Proof.Machine

variable {b d : BedId} {s t u v : State}

/-! ### A lap that finds nothing to do -/

theorem cutOver_nothing (nothing : s.cutsNothing) {e : Entry} (h : e ∈ overEntries s.sb.budget 0 s.sb.book) : s.cutOver e = s := by
  by_cases own : e.station = s.sl.own
  · cases bed : bedOf e.bed with
    | none => exact Overdraw.cutOver_of_foreign (.inr bed)
    | some b => rw [Overdraw.cutOver_of_own own bed, Overdraw.cut_of_resting _ (nothing e b ⟨h, own, bed⟩)]
  · exact Overdraw.cutOver_of_foreign (.inl own)

theorem overdraw_nothing (nothing : s.cutsNothing) : s.overdraw = s := by
  have each (l : List Entry) (h : ∀ e ∈ l, s.cutOver e = s) : l.foldl (fun s e => s.cutOver e) s = s := by
    induction l with
    | nil => rfl
    | cons e l ih =>
      rw [List.foldl_cons, h e (List.mem_cons_self ..)]
      exact ih fun x m => h x (List.mem_cons_of_mem _ m)
  exact each _ fun _ => cutOver_nothing nothing

theorem clearSaturated_eq (s : State) : ∃ x, s.clearSaturated = { s with sb.saturated := x } := by
  unfold State.clearSaturated
  split
  · exact ⟨_, rfl⟩
  · exact ⟨_, rfl⟩

theorem checked_nothing (nothing : s.cutsNothing) : ∃ x, s.checked = { s with sb.dirty := false, sb.saturated := x } := by
  have still : State.overdraw { s with sb.dirty := false } = { s with sb.dirty := false } := overdraw_nothing nothing
  unfold State.checked
  rw [still]
  exact clearSaturated_eq _

/-- The claim is in a phase that no report can end (R58). -/
def Claim.idle (c : Claim) : Prop := c.phase = .none ∨ c.phase = .sending ∨ c.phase = .ending

theorem report_idle (idle : s.sb.claim.idle) : s.report = s.relisted := by
  rw [report_eq]
  rcases idle with h | h | h <;> rw [h]

/-- The state with its marks cleared, its saturated flag and its senior set judged anew. -/
def State.weighed (x : Bool) (l : List (Nat × Nat)) (s : State) : State :=
  { s with sb := { s.sb with dirty := false, saturated := x, claim := { s.sb.claim with seniors := l } }, bc.occasion := false }

theorem ends_zero (s : State) :
    AfterAlerts (s.weighed s.sb.saturated s.sb.claim.seniors) (s.ends 0)
      ∨ AfterAlerts (s.weighed s.sb.saturated s.sb.claim.seniors).weighOccasion (s.ends 0) := by
  unfold State.ends
  dsimp only
  split
  · exact .inr (afterAlerts_offerAlerts _)
  · exact .inl (afterAlerts_offerAlerts _)

theorem ends_idle (n : Nat) (nothing : s.cutsNothing) (idle : s.sb.claim.idle) :
    ∃ x l, AfterAlerts (s.weighed x l) (s.ends (n + 1)) ∨ AfterAlerts (s.weighed x l).weighOccasion (s.ends (n + 1)) := by
  by_cases dirty : s.sb.dirty = true
  · obtain ⟨x, checked⟩ := checked_nothing nothing
    have lap : s.bookSteps = State.noteOccasion { s.weighed x (s.checked.liveSeniors) with bc.occasion := s.bc.occasion } := by
      have report : s.checked.report = s.checked.relisted := report_idle (by rw [checked]; exact idle)
      rw [bookSteps_eq, report, State.relisted, checked]
      rfl
    rw [ends_lap n dirty, lap, ends_clean n 0 rfl]
    exact ⟨x, _, ends_zero _⟩
  · rw [ends_clean (n + 1) 0 (by simpa using dirty)]
    exact ⟨_, _, ends_zero s⟩

theorem weighOccasion_of_phase (h : s.sb.claim.phase ≠ .none) : s.weighOccasion = s := if_neg fun c => h c.2

/-- With a claim in flight that no report can end, nothing is offered either. -/
theorem ends_idle_flight (n : Nat) (nothing : s.cutsNothing) (flight : s.sb.claim.phase = .sending ∨ s.sb.claim.phase = .ending) :
    ∃ x l, AfterAlerts (s.weighed x l) (s.ends (n + 1)) := by
  obtain ⟨x, l, h⟩ := ends_idle n nothing (.inr flight)
  refine ⟨x, l, h.elim id fun k => ?_⟩
  rwa [weighOccasion_of_phase (by change s.sb.claim.phase ≠ .none; rcases flight with e | e <;> rw [e] <;> nofun)] at k

theorem cutsNothing_of_fits (fits : committedSum s.sb.book ≤ s.sb.budget) : s.cutsNothing := by
  intro e b over'
  have none : overEntries s.sb.budget 0 s.sb.book = [] :=
    (Overdraw.overEntries_eq_nil_iff s.sb.book 0 (Nat.zero_le _)).2 (by simpa using fits)
  rw [State.overdrawn, none] at over'
  exact absurd over'.1 (by simp)

/-! ### No offer at an event's end -/

/-- No bed can be offered, whatever its urgency (R63, R64). -/
def State.mute (s : State) : Prop := s.sl.station ≠ .active ∨ ∀ u, s.bc.holds.forbids u = true

theorem weighOccasion_of_mute (h : s.mute) : s.weighOccasion = s := by
  unfold State.weighOccasion
  split
  · rename_i ready
    have none : s.waitQueue.find? (fun b => s.eligible b) = none := by
      refine List.find?_eq_none.2 fun b _ => ?_
      have forbids := h.resolve_left (not_not.2 ready.1)
      simp [State.eligible, forbids]
    rw [none]
  · rfl

theorem Inside.mute (h : Inside s t) (m : s.mute) : t.mute := by
  refine m.imp (fun e => by rwa [h.sl]) fun e u => ?_
  rcases h.holds with eq | eq <;> rw [eq]
  · exact e u
  · simp [Holds.forbids, Holds.put]

/-- An event that can offer no bed ends in its closing work and the ALERTs. -/
theorem ends_quietly (n : Nat) (h : s.mute ∨ s.sb.claim.past) : ∃ u, Worked s u ∧ AfterAlerts u (s.ends n) := by
  obtain ⟨u, worked, -, -, ends⟩ := ends_work n s
  refine ⟨u, worked, ends.elim id fun k => ?_⟩
  have still : u.weighOccasion = u := by
    rcases h with m | p
    · exact weighOccasion_of_mute (worked.toInside.mute m)
    · refine weighOccasion_of_phase ?_
      rcases worked.claim.past p with e | e | e <;> rw [e] <;> nofun
  rwa [still] at k

/-- Resolved claims stay resolved until a notice of theirs completes. -/
theorem ends_past (n : Nat) (h : s.sb.claim.past) : (s.ends n).sb.claim.past := by
  obtain ⟨u, worked, alerts⟩ := ends_quietly n (.inr h)
  rw [alerts.sb]
  exact worked.claim.past h

theorem ends_ended (n : Nat) (h : s.sb.claim.phase = .ending) : (s.ends n).sb.claim.phase = .ending := by
  obtain ⟨u, worked, alerts⟩ := ends_quietly n (.inr (.inl h))
  rw [alerts.sb]
  exact worked.claim.ended h

theorem inside_ends (n : Nat) (s : State) : Inside s (s.ends n) := by
  have laps := (inside_settleBook n s).trans (inside_marks false false _)
  unfold State.ends
  dsimp only
  split
  · exact (laps.trans (inside_weighOccasion _)).trans (inside_offerAlerts _)
  · exact laps.trans (inside_offerAlerts _)

/-! ### The state that a resolution finds -/

/-- The occasion mark is set so. -/
def State.marked (o : Bool) (s : State) : State := { s with bc.occasion := o }

theorem worked_marked (o : Bool) (s : State) : Worked s (s.marked o) := worked_marks s.sb.dirty o s

/-- `u` is `s` for a resolution: the same beds, drive, book and budget, and the claim's own fields; marks, time, queue and presence
may differ. -/
structure ForClaim (s u : State) : Prop where
  sl : u.sl = s.sl
  beds : u.bc.beds = s.bc.beds
  holds : u.bc.holds = s.bc.holds
  vd : u.vd = s.vd
  loss : u.li.lossSince = s.li.lossSince
  book : u.sb.book = s.sb.book
  budget : u.sb.budget = s.sb.budget
  bed : u.sb.claim.bed = s.sb.claim.bed
  flow : u.sb.claim.flow = s.sb.claim.flow
  urgency : u.sb.claim.urgency = s.sb.claim.urgency
  age : u.sb.claim.age = s.sb.claim.age
  shedMade : u.sb.claim.shedMade = s.sb.claim.shedMade
  sum : seniorSum u.sb.claim u.sb.book = seniorSum s.sb.claim s.sb.book

namespace ForClaim

theorem bedOf (h : ForClaim s u) (b : BedId) : u.bed b = s.bed b := by rw [State.bed, h.beds]; rfl
theorem valve (h : ForClaim s u) (b : BedId) : u.valve b = s.valve b := by rw [State.valve, h.vd]; rfl

theorem total (h : ForClaim s u) :
    u.fitsTotal = committedSum s.sb.book + seniorSum s.sb.claim s.sb.book + s.sb.claim.flow := by
  rw [State.fitsTotal, h.sum, h.book, h.flow]

theorem fits (h : ForClaim s u) :
    u.fits = true ↔ committedSum s.sb.book + seniorSum s.sb.claim s.sb.book + s.sb.claim.flow ≤ s.sb.budget := by
  rw [State.fits, decide_eq_true_eq, h.total, h.budget]

end ForClaim

/-! ### The own entry becomes COMMITTED (R36, R53) -/

theorem updateEntry_of_absent {st bd : Nat} {book : List Entry} (f : Entry → Entry) (h : (st, bd) ∉ names book) :
    updateEntry st bd f book = book := by
  unfold updateEntry
  refine (List.map_congr_left fun e m => if_neg fun named => h ?_).trans (List.map_id book)
  simp only [Entry.named, Bool.and_eq_true, beq_iff_eq] at named
  exact List.mem_map.2 ⟨e, m, by rw [named.1, named.2]⟩

/-- One entry of a book without doubles adds its flow to the COMMITTED sum at most. -/
theorem committedSum_commit {st bd : Nat} {e : Entry} (f : Entry → Entry) (flow : ∀ x, (f x).flow = x.flow) (book : List Entry)
    (once : (names book).Nodup) (found : book.find? (fun x => x.named st bd) = some e) :
    committedSum (updateEntry st bd f book) ≤ committedSum book + e.flow := by
  induction book with
  | nil => simp at found
  | cons x book ih =>
    obtain ⟨here, once⟩ := List.nodup_cons.1 once
    have head : updateEntry st bd f (x :: book) = (if x.named st bd then f x else x) :: updateEntry st bd f book := rfl
    rw [head, Overdraw.committedSum_cons, Overdraw.committedSum_cons]
    cases named : x.named st bd with
    | true =>
      rw [List.find?_cons, named] at found
      obtain rfl := Option.some.inj found
      have rest : (st, bd) ∉ names book := by
        simp only [Entry.named, Bool.and_eq_true, beq_iff_eq] at named
        rwa [← named.1, ← named.2]
      rw [updateEntry_of_absent f rest, if_pos rfl, flow]
      split <;> split <;> omega
    | false =>
      rw [List.find?_cons, named] at found
      have := ih once found
      simp only [Bool.false_eq_true, if_false]
      omega

/-! ### An open request is admitted (R130, R132, R134) -/

theorem kick_idle (idle : s.vd.generator = .idle) (none : s.vd.closures = []) (good : s.vd.supply = .good) {r : Request} {l : List Request}
    (queue : s.vd.queue = r :: l) : s.kick = { s with vd.queue := l, vd.generator := .pulse r false s.now } := by
  simp [State.kick, idle, none, good, queue]

/-- A request behind what waits stays in the queue while the generator takes something else. -/
theorem mem_kick {r : Request} {l : List Request} (queue : s.vd.queue = l ++ [r])
    (busy : s.vd.generator ≠ .idle ∨ s.vd.closures ≠ [] ∨ l ≠ [] ∨ s.vd.supply ≠ .good) : r ∈ s.kick.vd.queue := by
  have waits : r ∈ s.vd.queue := by simp [queue]
  unfold State.kick
  split
  · rename_i idle
    split
    · exact waits
    · rename_i none
      split
      · rename_i good
        split
        · rename_i head rest eq
          rcases l with _ | ⟨x, l⟩
          · simp [idle, none, good] at busy
          · rw [queue] at eq
            obtain ⟨-, rfl⟩ := List.cons.inj eq
            simp
        · exact waits
      · exact waits
  · exact waits
  · exact waits

theorem openRequest_of (shut : s.valve d = .closed) (quiet : s.queued d = false) (still : s.pulsing d = false) :
    s.openRequest d = match (s.setupOf d).kind with
      | .latch => (s.setValve d .opening).queueRequest d .opens
      | .held => s.takeChannel d := if_pos ⟨shut, quiet, still⟩

/-- The channel that an open request takes is the bed's. -/
theorem channelOf_takeChannel (out : s.channelOf d = none) (free : s.vd.channelA = none ∨ s.vd.channelB = none) :
    (s.takeChannel d).channelOf d = some ⟨d, s.takenPhase, none, none⟩ := by
  unfold State.takeChannel
  unfold State.channelOf at out
  rcases a : s.vd.channelA with _ | x
  · rcases b : s.vd.channelB with _ | y <;> simp [State.channelOf, State.setValve, b]
  · rcases b : s.vd.channelB with _ | y
    · have other : x.bed ≠ d := by simpa [a, b] using out
      simp [State.channelOf, State.setValve, a, other]
    · simp [a, b] at free

theorem valve_takeChannel (free : s.vd.channelA = none ∨ s.vd.channelB = none) : (s.takeChannel d).valve d = .opening := by
  unfold State.takeChannel
  dsimp only
  split
  · exact Overdraw.valve_setValve ..
  · exact Overdraw.valve_setValve ..
  · simp_all

theorem openAdmitted (shut : s.valve d = .closed) (quiet : s.queued d = false) (still : s.pulsing d = false)
    (out : s.channelOf d = none) (free : s.vd.channelA = none ∨ s.vd.channelB = none) (drive : v.vd = s.vd) (same : v.sl = s.sl) :
    OpenAdmitted d s (v.openRequest d) := by
  have opens := openRequest_of (s := v) (d := d) (by rwa [State.valve, drive]) (by rwa [State.queued, drive]) (by rwa [State.pulsing, drive])
  have setup : v.setupOf d = s.setupOf d := by rw [State.setupOf, same]; rfl
  have moments : (v.openRequest d).now = v.now := (driveOnly_openRequest d v).now
  rw [setup] at opens
  cases kind : (s.setupOf d).kind with
  | latch =>
    rw [kind] at opens
    have joins : v.openRequest d = State.kick { v.setValve d .opening with vd.queue := s.vd.queue ++ [⟨d, .opens⟩] } := by
      rw [opens]
      have out : (v.setValve d .opening).queued d = false := by rwa [State.queued, State.setValve, drive]
      have queue : (v.setValve d .opening).vd.queue = s.vd.queue := by rw [State.setValve, drive]
      unfold State.queueRequest
      rw [if_neg (by simp [out]), queue]
    refine ⟨?_, fun _ idle none empty good => ?_, fun _ busy => ?_, fun held => by simp [kind] at held⟩
    · rw [opens, Overdraw.valve_queueRequest, Overdraw.valve_setValve]
    · rw [moments, joins, kick_idle (r := ⟨d, .opens⟩) (l := []) (by simp [State.setValve, drive, idle]) (by simp [State.setValve, drive, none])
        (by simp [State.setValve, drive, good]) (by simp [empty])]
      rfl
    · rw [joins]
      exact mem_kick rfl (by simpa [State.setValve, drive] using busy)
  | held =>
    rw [kind] at opens
    have phase : v.takenPhase = if s.vd.supply = .good then .pullIn v.now false else .waiting := by rw [State.takenPhase, drive]
    refine ⟨?_, fun latch => by simp [kind] at latch, fun latch => by simp [kind] at latch, fun _ => ?_⟩
    · rw [opens]
      exact valve_takeChannel (by rwa [drive])
    · rw [moments, ← phase, opens]
      exact ⟨_, channelOf_takeChannel (by rwa [State.channelOf, drive]) (by rwa [drive]), rfl⟩

/-! ### A pass over the beds -/

/-- Beds that a pass does not reach are aside. -/
theorem foldl_aside {f : State → BedId → State} {l : List BedId} (out : b ∉ l) (aside : ∀ d, d ≠ b → ∀ s, Aside b s (f s d)) (s : State) :
    Aside b s (l.foldl f s) := by
  induction l generalizing s with
  | nil => exact .refl ..
  | cons d l ih =>
    obtain ⟨ne, out⟩ := not_or.1 (mt List.mem_cons.2 out)
    exact (aside d (Ne.symm ne) s).trans (ih out _)

/-- A pass reaches a bed of its list once: the bed is aside before and after, and what every operation keeps holds up to it and
from it on. -/
theorem foldl_at {f : State → BedId → State} {R : State → State → Prop} (refl : ∀ s, R s s) (trans : ∀ s t u, R s t → R t u → R s u)
    (keeps : ∀ s d, R s (f s d)) {l : List BedId} (once : l.Nodup) (m : b ∈ l) (aside : ∀ d, d ≠ b → ∀ s, Aside b s (f s d)) (s : State) :
    ∃ x, R s x ∧ Aside b s x ∧ R (f x b) (l.foldl f s) ∧ Aside b (f x b) (l.foldl f s) := by
  have kept (l : List BedId) (s : State) : R s (l.foldl f s) := by
    induction l generalizing s with
    | nil => exact refl s
    | cons d l ih => exact trans _ _ _ (keeps s d) (ih _)
  induction l generalizing s with
  | nil => cases m
  | cons d l ih =>
    obtain ⟨out, once⟩ := List.nodup_cons.1 once
    by_cases eq : d = b
    · subst eq
      exact ⟨s, refl s, .refl .., kept l _, foldl_aside out aside _⟩
    · obtain ⟨x, h, a, g⟩ := ih once ((List.mem_cons.1 m).resolve_left (Ne.symm eq)) (f s d)
      exact ⟨x, trans _ _ _ (keeps s d) h, (aside d eq s).trans a, g⟩

theorem forBeds_at {f : BedId → State → State} {R : State → State → Prop} (refl : ∀ s, R s s) (trans : ∀ s t u, R s t → R t u → R s u)
    (keeps : ∀ d s, R s (f d s)) (aside : ∀ d, d ≠ b → ∀ s, Aside b s (f d s)) (s : State) :
    ∃ x, R s x ∧ Aside b s x ∧ R (f b x) (s.forBeds f) ∧ Aside b (f b x) (s.forBeds f) :=
  foldl_at refl trans (fun s d => keeps d s) (by decide) (mem_allBeds b) aside s

/-! ### What a join leaves (R80, R100) -/

theorem aside_endClaim (b : BedId) (s : State) : Aside b s s.endClaim := by
  have rest := endClaim_eq s
  rw [Overdraw.remove_rest, Overdraw.offer_rest] at rest
  exact aside_same (by rw [rest]) (by rw [rest]) (by rw [rest])

theorem aside_cancel (p : Notice → Bool) (b : BedId) (s : State) : Aside b s (s.cancel p) := by
  have rest := cancel_rest p s
  exact aside_same (by rw [rest]) (by rw [rest]) (by rw [rest])

theorem aside_claim (c : Claim) (b : BedId) (s : State) : Aside b s { s with sb.claim := c } := aside_same rfl rfl rfl

theorem aside_withdraw (b : BedId) (s : State) : Aside b s s.withdraw := by
  unfold State.withdraw
  split
  · exact .refl ..
  · exact .refl ..
  · dsimp only
    split
    · exact (aside_cancel ..).trans (aside_claim ..)
    · exact (aside_cancel Notice.isClaim b s).trans (aside_same rfl rfl rfl)
  · exact aside_endClaim ..
  · exact aside_endClaim ..
  · dsimp only
    have drops := (aside_claim { s.sb.claim with outcome := some .drop } b s).trans (aside_cancel Notice.isShed b _)
    split
    · exact drops
    · exact drops.trans (aside_endClaim ..)

theorem aside_toWaiting (ne : b ≠ d) (n : Nat) (s : State) : Aside b s (s.toWaiting d n) :=
  aside_onlyBed (resting_toWaiting d n s).toOnlyBed ne

theorem aside_toIdle (ne : b ≠ d) (s : State) : Aside b s (s.toIdle d) := aside_onlyBed (resting_toIdle d s).toOnlyBed ne

theorem holdBed_cycling {r : HoldReason} (cycling : (s.bed d).state.cycling = true) :
    s.holdBed r d = match r.cut with
      | some c => s.endCycle d c
      | none => s := by
  unfold State.holdBed
  cases state : (s.bed d).state <;> first | rfl | simp [state, BedState.cycling] at cycling

theorem holdBed_claiming {r : HoldReason} (claiming : (s.bed d).state = .claiming) :
    s.holdBed r d = if r = .defer ∧ s.sb.claim.urgency = .severe then s else s.withdrawToWaiting d := by
  unfold State.holdBed
  rw [claiming]

theorem holdBed_calm {r : HoldReason} (calm : (s.bed d).state.calm) : s.holdBed r d = s := by
  obtain ⟨still, free⟩ := calm
  unfold State.holdBed
  cases state : (s.bed d).state <;> simp_all [BedState.cycling]

theorem aside_holdBed (ne : b ≠ d) (r : HoldReason) (s : State) : Aside b s (s.holdBed r d) := by
  by_cases cycling : (s.bed d).state.cycling = true
  · rw [holdBed_cycling cycling]
    split
    · exact aside_endCycle ne ..
    · exact .refl ..
  · by_cases claiming : (s.bed d).state = .claiming
    · rw [holdBed_claiming claiming]
      split
      · exact .refl ..
      · exact (aside_withdraw ..).trans (aside_toWaiting ne ..)
    · rw [holdBed_calm ⟨by simpa using cycling, claiming⟩]
      exact .refl ..

/-- A reason that cuts leaves each bed it acts on in no cycle and no claim. -/
theorem holdBed_rests {r : HoldReason} {c : EndCause} (cut : r.cut = some c) (d : BedId) (s : State) : ((s.holdBed r d).bed d).state.calm := by
  by_cases cycling : (s.bed d).state.cycling = true
  · rw [holdBed_cycling cycling, cut]
    exact endCycle_rests ..
  · by_cases claiming : (s.bed d).state = .claiming
    · rw [holdBed_claiming claiming, if_neg fun h => by rw [h.1] at cut; cases cut]
      exact toWaiting_calm ..
    · rw [holdBed_calm ⟨by simpa using cycling, claiming⟩]
      exact ⟨by simpa using cycling, claiming⟩

/-- A claim that may commit holds its bed in CLAIMING (R80). -/
def ClaimHeld (s : State) : Prop := s.sb.claim.live = true → (s.bed s.sb.claim.bed).state = .claiming

theorem claimHeld_endCycle (h : ClaimHeld s) (cycling : (s.bed d).state.cycling = true) (c : EndCause) : ClaimHeld (s.endCycle d c) := by
  have op := bedwise_endCycle d c s
  intro live
  rw [op.claim (ne_claiming_of_cycling cycling)] at live ⊢
  have held := h live
  rwa [(op.aside _ fun e => by simp [e ▸ held, BedState.cycling] at cycling).bed]

theorem withdrawToWaiting_live (d : BedId) (s : State) : (s.withdrawToWaiting d).sb.claim.live = false := by
  unfold State.withdrawToWaiting
  rw [toWaiting_sb]
  exact withdraw_live s

theorem claimHeld_holdBed (h : ClaimHeld s) (r : HoldReason) (d : BedId) : ClaimHeld (s.holdBed r d) := by
  by_cases cycling : (s.bed d).state.cycling = true
  · rw [holdBed_cycling cycling]
    split
    · exact claimHeld_endCycle h cycling _
    · exact h
  · by_cases claiming : (s.bed d).state = .claiming
    · rw [holdBed_claiming claiming]
      split
      · exact h
      · exact fun live => by simp [withdrawToWaiting_live] at live
    · rwa [holdBed_calm ⟨by simpa using cycling, claiming⟩]

section Join

variable {r : HoldReason} {c : EndCause}

/-- What a join makes of one bed. -/
theorem joinHold_at (absent : s.bc.holds.has r = false) (b : BedId) :
    ∃ x, Worked { s with bc.holds := s.bc.holds.put r true } x ∧ Aside b s x ∧ Worked (x.holdBed r b) (s.joinHold r)
      ∧ Aside b (x.holdBed r b) (s.joinHold r) := by
  obtain ⟨x, worked, before, rest, after⟩ := forBeds_at (f := State.holdBed r) (R := Worked) .refl (fun _ _ _ => .trans) (worked_holdBed r)
    (fun d ne s => aside_holdBed (Ne.symm ne) r s) { s with bc.holds := s.bc.holds.put r true }
  rw [joinHold_absent absent]
  have put : Aside b s { s with bc.holds := s.bc.holds.put r true } := aside_same rfl rfl rfl
  exact ⟨x, worked, put.trans before, rest.trans (worked_noteOccasion _), after.trans (aside_same rfl rfl rfl)⟩

/-- Where a reason that cuts joins, every bed rests. -/
theorem joinHold_rests (absent : s.bc.holds.has r = false) (cut : r.cut = some c) (b : BedId) : ((s.joinHold r).bed b).state.calm := by
  obtain ⟨x, -, -, -, after⟩ := joinHold_at absent b
  rw [after.bed]
  exact holdBed_rests cut b x

theorem claimHeld_forBeds {f : BedId → State → State} (keeps : ∀ d s, ClaimHeld s → ClaimHeld (f d s)) (h : ClaimHeld s) :
    ClaimHeld (s.forBeds f) := by
  suffices ∀ l : List BedId, ∀ s, ClaimHeld s → ClaimHeld (l.foldl (fun s d => f d s) s) from this allBeds s h
  intro l
  induction l with
  | nil => exact fun _ => id
  | cons d l ih => exact fun s h => ih _ (keeps d s h)

theorem claimHeld_joinHold (absent : s.bc.holds.has r = false) (h : ClaimHeld s) : ClaimHeld (s.joinHold r) := by
  rw [joinHold_absent absent]
  have put : ClaimHeld { s with bc.holds := s.bc.holds.put r true } := h
  exact claimHeld_forBeds (f := State.holdBed r) (fun d s h => claimHeld_holdBed h r d) put

/-- And no claim may commit. -/
theorem joinHold_withdraws (absent : s.bc.holds.has r = false) (cut : r.cut = some c) (h : ClaimHeld s) :
    (s.joinHold r).sb.claim.live = false :=
  Bool.eq_false_of_not_eq_true fun live => (joinHold_rests absent cut _).2 (claimHeld_joinHold absent h live)

theorem cycleEnded_after {r : Run} {c : EndCause} (h : CycleEnded b r c s t) (k : Aside b t u) : CycleEnded b r c s u where
  state := by rw [k.bed, h.state]
  run := by rw [k.bed, h.run]
  valve := by rw [k.valve, h.valve]

theorem cycleEnded_before {r : Run} {c : EndCause} (k : Aside b s t) (h : CycleEnded b r c t u) : CycleEnded b r c s u where
  state := h.state
  run := h.run
  valve := by rw [h.valve, k.valve]

theorem holdBed_cuts (cut : r.cut = some c) (plain : c.plain) {run : Run} (cycling : (s.bed b).state.cycling = true)
    (runs : (s.bed b).run = some run) (unshut : ¬ s.shutsAtOnce b) : CycleEnded b run c s (s.holdBed r b) := by
  rw [holdBed_cycling cycling, cut]
  exact cycleEnded_endCycle plain runs unshut

theorem joinHold_cuts (absent : s.bc.holds.has r = false) (cut : r.cut = some c) (plain : c.plain) : AllCut c s (s.joinHold r) := by
  intro b run cycling runs unshut
  obtain ⟨x, -, before, -, after⟩ := joinHold_at absent b
  have here := holdBed_cuts cut plain (before.bed ▸ cycling) (before.bed ▸ runs) (before.unshut unshut)
  exact cycleEnded_after (cycleEnded_before before here) after

end Join

end Sys2Proof.Machine

/-! PROOFS. What a resolution leaves at the end of its event: commit, drop and shed (R69 to R77). -/

namespace Sys2Proof.Machine

open EdgesAndOffers (offer_essential)

variable {b d : BedId} {s t u v : State}

/-! ### Commit (R70) -/

theorem admits_active {n : Notice} (active : s.sl.station = .active) : s.sl.station.admits n = true := by rw [active]; rfl

theorem committing_eq (active : s.sl.station = .active) : s.committing = { s with
    sb := { s.sb with
      book := updateEntry s.sl.own s.sb.claim.bed.val (fun e => { e with committed := true, heard := s.now }) s.sb.book
      dirty := true
      claim := { s.sb.claim with phase := .ending, resolveSince := none, victimSince := none, outcome := none, seniors := [] } }
    tq.queue := s.tq.queue ++ [⟨.commit s.sb.claim.bed, 0, false⟩] } :=
  offer_essential (n := .commit s.sb.claim.bed) rfl (s := { s.putBook _ with sb.claim := _ }) (admits_active active)

/-- The commit up to the line-loss test: the bed opens and its open request goes out. -/
def State.opened (s : State) : State := (s.committing.startCycle s.sb.claim.bed).openRequest s.sb.claim.bed

theorem opened_drive (s : State) : Overdraw.DriveOnly (s.committing.startCycle s.sb.claim.bed) s.opened := driveOnly_openRequest ..

theorem worked_opened (can : ¬ s.sb.claim.inert) : Worked s s.opened := worked_start (worked_committing s) can rfl

theorem opened_claim (s : State) : s.opened.sb.claim.phase = .ending := by
  rw [(opened_drive s).sb]
  change s.committing.sb.claim.phase = .ending
  unfold State.committing
  rw [offer_claim]

theorem opened_queue (active : s.sl.station = .active) : s.opened.tq.queue = s.tq.queue ++ [⟨.commit s.sb.claim.bed, 0, false⟩] := by
  rw [(opened_drive s).tq]
  change s.committing.tq.queue = _
  rw [committing_eq active]

theorem opened_book (active : s.sl.station = .active) : s.opened.sb.book
    = updateEntry s.sl.own s.sb.claim.bed.val (fun e => { e with committed := true, heard := s.now }) s.sb.book := by
  rw [(opened_drive s).sb]
  change s.committing.sb.book = _
  rw [committing_eq active]

theorem committing_bed (active : s.sl.station = .active) (b : BedId) : s.committing.bed b = s.bed b := by
  rw [committing_eq active]
  rfl

theorem opened_bed (active : s.sl.station = .active) : s.opened.bed s.sb.claim.bed = { s.bed s.sb.claim.bed with
    state := .opening, backoffEnd := none, soakSince := none
    run := some (nextCycle (s.bed s.sb.claim.bed).run (s.bed s.sb.claim.bed).need s.runClock) } := by
  have clock : s.committing.runClock = s.runClock := by rw [committing_eq active]; rfl
  rw [(opened_drive s).bed, bed_startCycle, committing_bed active, clock]

theorem aside_opened (active : s.sl.station = .active) (ne : b ≠ s.sb.claim.bed) : Aside b s s.opened := by
  refine Aside.trans (t := s.committing) ?_ ((aside_startCycle ne _).trans (aside_openRequest ne _))
  rw [committing_eq active]
  exact aside_same rfl rfl rfl

theorem closeLine_bed (b : BedId) (s : State) : s.closeLine.bed b = (s.joinHold .line).bed b := by rw [closeLine_rest]; rfl

theorem joinHold_line (absent : s.bc.holds.line = false) : (s.joinHold .line).bc.holds.line = true := by
  rcases (worked_joinHold (r := .line) absent).holds with e | e <;> rw [e] <;> rfl

/-- Where the line is lost, nothing stays in a cycle or a claim (R18). -/
theorem closeLine_leaves (absent : s.bc.holds.line = false) :
    s.closeLine.bc.holds.line = true ∧ (s.closeLine.latch .line).pending = true ∧ ∀ b, (s.closeLine.bed b).state.calm := by
  refine ⟨?_, ?_, fun b => ?_⟩
  · rw [closeLine_rest]
    exact joinHold_line absent
  · exact congrArg Latch.pending (raise_pending ..)
  · rw [closeLine_bed]
    exact joinHold_rests (r := .line) absent rfl b

theorem commitClaim_opened (s : State) : s.commitClaim = s.opened.ownCommitted := rfl

/-- The end of a commit's event, with its claim in ENDING. -/
theorem committed_ending (s : State) (o : Bool) (n : Nat) :
    ∃ w, Worked s.opened w ∧ AfterAlerts w ((s.commitClaim.marked o).ends n) := by
  have ending : (s.commitClaim.marked o).sb.claim.phase = .ending := (worked_ownCommitted s.opened).claim.ended (opened_claim s)
  obtain ⟨w, worked, alerts⟩ := ends_quietly n (.inr (.inl ending))
  exact ⟨w, ((worked_ownCommitted s.opened).trans (worked_marked o _)).trans worked, alerts⟩

theorem lineLost_iff (s : State) : s.lineLost = true ↔ s.li.lossSince + 25 * 12000 ≤ s.now ∧ s.bc.holds.line = false := by
  unfold State.lineLost
  rw [Bool.and_eq_true, decide_eq_true_eq, Bool.not_eq_true']
  rfl

theorem opened_holds (active : s.sl.station = .active) : s.opened.bc.holds = s.bc.holds := by
  rw [opened_drive s]
  change s.committing.bc.holds = _
  rw [committing_eq active]

theorem opened_lineLost (can : ¬ s.sb.claim.inert) (active : s.sl.station = .active) : s.opened.lineLost = s.lineLost := by
  have opened := worked_opened can
  rw [State.lineLost, opened.li, opened.now, opened_holds active, State.lineLost]

theorem opened_start (active : s.sl.station = .active) :
    (s.committing.startCycle s.sb.claim.bed).vd = s.vd ∧ (s.committing.startCycle s.sb.claim.bed).sl = s.sl := by
  change s.committing.vd = s.vd ∧ s.committing.sl = s.sl
  rw [committing_eq active]
  exact ⟨rfl, rfl⟩

theorem OpenAdmitted.after (h : OpenAdmitted d s t) (vd : u.vd = t.vd) (now : u.now = t.now) : OpenAdmitted d s u where
  valve := by rw [State.valve, vd]; exact h.valve
  pulse a b c e f := by rw [vd, now]; exact h.pulse a b c e f
  waits a b := by rw [vd]; exact h.waits a b
  channel a := by
    obtain ⟨c, found, phase⟩ := h.channel a
    exact ⟨c, by rwa [State.channelOf, vd], by rwa [now]⟩

/-- The run that a commit leaves is the statement's (R111). -/
theorem nextCycle_committedRun (like : ForClaim s u) (b : BedId) : nextCycle (u.bed b).run (u.bed b).need u.runClock = s.committedRun b u.now := by
  unfold nextCycle State.committedRun State.runClock
  rw [like.bedOf, like.sl]
  rfl

/-- A commit that fits on a line not lost: the entry, the bed and its open request, and nothing else (R70, R111, R114). -/
theorem commit_stands (like : ForClaim s u) (can : ¬ u.sb.claim.inert) (active : s.sl.station = .active) (o : Bool) (n : Nat) {e : Entry}
    (sound : BookSound s) (own : s.ownEntry s.sb.claim.bed.val = some e) (fits : committedSum s.sb.book + e.flow ≤ s.sb.budget)
    (held : u.lineLost = false) :
    ∃ x l, AfterAlerts ((u.opened.marked o).weighed x l) ((u.commitClaim.marked o).ends (n + 1)) := by
  have here : u.sl.station = .active := by rw [like.sl, active]
  have opened := worked_opened can
  have out : u.opened.lineLost = false := by rw [opened_lineLost can here, held]
  have kept : u.commitClaim = u.opened := (commitClaim_opened u).trans (if_neg (by simp [out]))
  have book : committedSum u.opened.sb.book ≤ u.opened.sb.budget := by
    rw [opened_book here, opened.budget, like.budget, like.sl, like.bed, like.book]
    exact (committedSum_commit (fun e => { e with committed := true, heard := u.now }) (fun _ => rfl) s.sb.book sound.1 own).trans fits
  rw [kept]
  exact ends_idle_flight n (cutsNothing_of_fits book) (.inr (opened_claim u))

theorem commit_ends (like : ForClaim s u) (can : ¬ u.sb.claim.inert) (active : s.sl.station = .active) (o : Bool) (n : Nat) :
    Committed s ((u.commitClaim.marked o).ends (n + 1)) := by
  have here : u.sl.station = .active := by rw [like.sl, active]
  obtain ⟨w, worked, alerts⟩ := committed_ending u o (n + 1)
  have opened := worked_opened can
  have now : ((u.commitClaim.marked o).ends (n + 1)).now = u.now := by rw [alerts.now, worked.now, opened.now]
  refine ⟨?_, ?_, ?_, ?_⟩
  · rw [alerts.sb]
    exact worked.claim.ended (opened_claim u)
  · refine ⟨⟨.commit u.sb.claim.bed, 0, false⟩, ?_, by rw [like.bed]⟩
    exact alerts.mem_queue (worked.notices _ (by simp [opened_queue here]) rfl rfl)
  · intro e sound own fits early
    rw [now] at early
    have held : u.lineLost = false := by
      refine Bool.eq_false_of_not_eq_true fun lost => ?_
      rw [lineLost_iff, like.loss, like.holds] at lost
      rcases early with early | early
      · omega
      · simp [early] at lost
    obtain ⟨x, l, base⟩ := commit_stands like can active o n sound own fits held
    have bed (b : BedId) : ((u.commitClaim.marked o).ends (n + 1)).bed b = u.opened.bed b := base.bed b
    have valve (b : BedId) : ((u.commitClaim.marked o).ends (n + 1)).valve b = u.opened.valve b := base.valve b
    have start := opened_bed here
    rw [← like.bed]
    refine ⟨?_, by rw [bed, start], ?_, fun d ne => ?_, fun shut quiet still out free => ?_⟩
    · have book : ((u.commitClaim.marked o).ends (n + 1)).sb.book = u.opened.sb.book := by rw [base.sb]; rfl
      have sl : ((u.commitClaim.marked o).ends (n + 1)).sl = s.sl := by rw [alerts.sl, worked.sl, opened.sl, like.sl]
      have own' : s.sb.book.find? (fun x => x.named s.sl.own u.sb.claim.bed.val) = some e := by rw [like.bed]; exact own
      rw [State.ownEntry, State.entry, book, sl, opened_book here, like.sl, like.book, find_updateEntry, own', now]
      · rfl
      · exact fun _ => ⟨rfl, rfl⟩
    · rw [bed, start, now, ← nextCycle_committedRun like]
    · have aside := aside_opened here ne
      rw [bed, valve, aside.bed, aside.valve, like.bedOf, like.valve]
      exact ⟨rfl, rfl⟩
    · obtain ⟨drive, same⟩ := opened_start here
      refine (openAdmitted shut quiet still out free (drive.trans like.vd) (same.trans like.sl)).after ?_ ?_
      · rw [base.vd]; rfl
      · rw [base.now]; rfl
  · intro late unheld
    rw [now] at late
    have lost : u.opened.lineLost = true := by
      rw [opened_lineLost can here, lineLost_iff, like.loss, like.holds]
      exact ⟨late, unheld⟩
    have closed : u.commitClaim = u.opened.closeLine := (commitClaim_opened u).trans (if_pos lost)
    obtain ⟨line, pending, rests⟩ := closeLine_leaves (s := u.opened) ((lineLost_iff _).1 lost).2
    have ending : (u.commitClaim.marked o).sb.claim.phase = .ending := (worked_ownCommitted u.opened).claim.ended (opened_claim u)
    obtain ⟨w, worked, alerts⟩ := ends_quietly (n + 1) (.inr (.inl ending))
    rw [closed] at worked alerts ending ⊢
    refine ⟨?_, (inside_ends ..).latched .line pending, fun d => ?_⟩
    · rcases (inside_ends (n + 1) (u.opened.closeLine.marked o)).holds with e | e <;> rw [e]
      · exact line
      · rfl
    · rw [alerts.bed]
      exact worked.quiet (by rw [Claim.live, ending]) d (rests d).1

/-! ### Drop (R71) -/

theorem hasEntry_endClaim (s : State) : s.endClaim.hasEntry s.sl.own s.sb.claim.bed.val = false :=
  Overdraw.hasEntry_remove s.sl.own s.sb.claim.bed.val (s.offer (.drop s.sb.claim.bed))

theorem mem_endClaim (active : s.sl.station = .active) : ⟨.drop s.sb.claim.bed, 0, false⟩ ∈ s.endClaim.tq.queue := by
  rw [endClaim_eq, Overdraw.remove_rest, offer_essential rfl (admits_active active)]
  simp

theorem dropClaim_ends (like : ForClaim s u) (active : s.sl.station = .active) (o : Bool) (n : Nat) :
    Dropped s ((u.dropClaim.marked o).ends n) := by
  have here : u.sl.station = .active := by rw [like.sl, active]
  have ending : (u.dropClaim.marked o).sb.claim.phase = .ending := by
    change u.dropClaim.sb.claim.phase = _
    rw [dropClaim_phase]
    rfl
  obtain ⟨w, worked, alerts⟩ := ends_quietly n (.inr (.inl ending))
  have after : Worked u.endClaim u.dropClaim := by
    unfold State.dropClaim
    exact worked_ite (fun h => worked_toWaiting h _) fun _ => .refl _
  have work := (after.trans (worked_marked o _)).trans worked
  have now : ((u.dropClaim.marked o).ends n).now = u.now := by rw [alerts.now, work.now, (worked_endClaim u).now]
  refine ⟨?_, ⟨_, alerts.mem_queue (work.notices _ (mem_endClaim here) rfl rfl), by rw [like.bed]⟩, ?_, fun claiming targets => ?_⟩
  · rw [alerts.sb]
    exact worked.claim.ended ending
  · have gone := hasEntry_endClaim u
    rw [like.sl, like.bed] at gone
    have out := Overdraw.hasEntry_of_inside work.toInside gone
    rwa [State.hasEntry, ← alerts.sb] at out
  · rw [← like.bed] at claiming targets ⊢
    rw [← like.bedOf, ← endClaim_bed] at claiming targets
    have drops : u.dropClaim = u.endClaim.setWaiting u.sb.claim.bed (dropBackoff u.sb.claim.urgency) := by
      refine (if_pos claiming).trans ?_
      exact Overdraw.bringTargets_none (by rw [Overdraw.bed_setWaiting]; exact targets)
    have bed : ((u.dropClaim.marked o).ends n).bed u.sb.claim.bed = u.dropClaim.bed u.sb.claim.bed := by
      have calm := worked.calm u.sb.claim.bed (.inr (.inl (by rw [Claim.live, ending]))) (by
        change (u.dropClaim.bed _).state.calm
        rw [drops, Overdraw.bed_setWaiting]
        exact ⟨rfl, nofun⟩)
      rw [alerts.bed, calm.bed]
      rfl
    have backoff : dropBackoff u.sb.claim.urgency ≠ 0 := by cases u.sb.claim.urgency <;> decide
    rw [now, bed, drops, Overdraw.bed_setWaiting, if_neg backoff, (worked_endClaim u).now, like.urgency]
    refine ⟨rfl, ?_⟩
    cases s.sb.claim.urgency <;> rfl

/-! ### What the overdraw check leaves (R54) -/

/-- `t` comes from `s` by cuts of cycles: every bed that is in none is aside, the claim does not hear of it, FREEs alone join the
queue, and no entry leaves but own ones of beds in a cycle. -/
structure Cutting (s t : State) : Prop extends Worked s t where
  sameClaim : t.sb.claim = s.sb.claim
  rests : ∀ b, (s.bed b).state.cycling = false → Aside b s t
  tail : ∃ l, t.tq.queue = s.tq.queue ++ l ∧ ∀ q ∈ l, q.notice.isShed = false
  keeps : ∀ e ∈ s.sb.book, (∀ b, e.station = s.sl.own → bedOf e.bed = some b → (s.bed b).state.cycling = false) → e ∈ t.sb.book
  sub : t.sb.book.Sublist s.sb.book

namespace Cutting

theorem refl (s : State) : Cutting s s := ⟨.refl s, rfl, fun b _ => .refl b s, ⟨[], by simp, by simp⟩, fun _ m _ => m, .refl _⟩

theorem trans (h : Cutting s t) (k : Cutting t u) : Cutting s u where
  toWorked := h.toWorked.trans k.toWorked
  sameClaim := k.sameClaim.trans h.sameClaim
  rests b e := (h.rests b e).trans (k.rests b (by rw [(h.rests b e).bed, e]))
  tail := by
    obtain ⟨l, e, x⟩ := h.tail
    obtain ⟨m, f, y⟩ := k.tail
    exact ⟨l ++ m, by rw [f, e, List.append_assoc], fun q i => (List.mem_append.1 i).elim (x q) (y q)⟩
  keeps e m still := k.keeps e (h.keeps e m still) fun b own bed => by
    have quiet := still b (by rw [own, h.sl]) bed
    rw [(h.rests b quiet).bed, quiet]
  sub := k.sub.trans h.sub

/-- An entry that no cut can take out stays. -/
theorem hasEntry (h : Cutting s t) {st bd : Nat} (still : ∀ b, st = s.sl.own → bedOf bd = some b → (s.bed b).state.cycling = false) :
    t.hasEntry st bd = s.hasEntry st bd := by
  rw [Bool.eq_iff_iff, State.hasEntry, State.hasEntry, List.any_eq_true, List.any_eq_true]
  refine ⟨fun ⟨e, m, named⟩ => ⟨e, h.sub.subset m, named⟩, fun ⟨e, m, named⟩ => ⟨e, h.keeps e m fun b own bed => ?_, named⟩⟩
  simp only [Entry.named, Bool.and_eq_true, beq_iff_eq] at named
  exact still b (named.1 ▸ own) (named.2 ▸ bed)

end Cutting

theorem bedOf_val (d : BedId) : bedOf d.val = some d := by
  rw [bedOf, dif_pos d.isLt]

theorem val_of_bedOf {n : Nat} (h : bedOf n = some b) : n = b.val := by
  unfold bedOf at h
  split at h
  · exact congrArg Fin.val (Option.some.inj h)
  · cases h

theorem mem_removeEntry {st bd : Nat} {e : Entry} {book : List Entry} : e ∈ removeEntry st bd book ↔ e ∈ book ∧ e.named st bd = false := by
  simp [removeEntry, List.mem_filter]

theorem cutting_cut (d : BedId) (c : EndCause) (s : State) : Cutting s (s.cut d c) := by
  by_cases cycling : (s.bed d).state.cycling = true
  · have op := bedwise_cut d c s
    have free := ne_claiming_of_cycling cycling
    refine ⟨worked_cut d c s, op.claim free, fun b still => op.aside b fun e => by simp [← e, still] at cycling, ?_, fun e m still => ?_, ?_⟩
    · obtain ⟨l, e, free⟩ := op.waits
      exact ⟨l, e, fun q m => by rw [free q m]; rfl⟩
    · rcases op.book free with ⟨eq, -⟩ | ⟨eq, -⟩ <;> rw [eq]
      · exact m
      · refine mem_removeEntry.2 ⟨m, Bool.eq_false_of_not_eq_true fun named => ?_⟩
        simp only [Entry.named, Bool.and_eq_true, beq_iff_eq] at named
        have := still d named.1 (by rw [named.2, bedOf_val])
        simp [this] at cycling
    · rcases op.book free with ⟨eq, -⟩ | ⟨eq, -⟩ <;> rw [eq]
      exact List.filter_sublist
  · rw [Overdraw.cut_of_resting c (by simpa using cycling)]
    exact .refl s

theorem cutting_cutOver (e : Entry) (s : State) : Cutting s (s.cutOver e) := by
  unfold State.cutOver
  split
  · split
    · exact cutting_cut ..
    · exact .refl s
  · exact .refl s

theorem cutting_overdraw (s : State) : Cutting s s.overdraw := by
  unfold State.overdraw
  generalize overEntries s.sb.budget 0 s.sb.book = l
  induction l generalizing s with
  | nil => exact .refl s
  | cons e l ih => exact (cutting_cutOver e s).trans (ih _)

theorem cutting_clearSaturated (s : State) : Cutting s s.clearSaturated := by
  have worked := worked_clearSaturated s
  obtain ⟨x, eq⟩ := clearSaturated_eq s
  rw [eq] at worked ⊢
  exact ⟨worked, rfl, fun b _ => aside_same rfl rfl rfl, ⟨[], (List.append_nil _).symm, by simp⟩, fun _ m _ => m, .refl _⟩

theorem cutting_checked (s : State) : Cutting s s.checked := by
  have clean : Cutting s { s with sb.dirty := false } :=
    ⟨worked_marks false s.bc.occasion s, rfl, fun b _ => aside_same rfl rfl rfl, ⟨[], (List.append_nil _).symm, by simp⟩, fun _ m _ => m, .refl _⟩
  exact (clean.trans (cutting_overdraw _)).trans (cutting_clearSaturated _)

/-! ### A shed of a peer's entry (R75) -/

/-- The claim asks a station for its victim, whose entry is in the book. -/
structure Asking (st bd : Nat) (s : State) : Prop where
  phase : s.sb.claim.phase = .asking
  victim : s.sb.claim.victim = some (st, bd)
  made : s.sb.claim.shedMade = true
  entry : s.hasEntry st bd = true

/-- A lap that finds the victim's entry in the book leaves the claim, but for its senior set, and what waits. -/
theorem asking_lap {st bd : Nat} (peer : st ≠ s.sl.own) (h : Asking st bd s) :
    Asking st bd s.bookSteps ∧ ∀ q ∈ s.tq.queue, q ∈ s.bookSteps.tq.queue := by
  have cuts := cutting_checked s
  have entry : s.checked.hasEntry st bd = true := by rw [cuts.hasEntry fun b own => absurd own peer, h.entry]
  have report : s.checked.report = s.checked.relisted := by
    have stays : s.checked.victimGone = false := by simp [State.victimGone, cuts.sameClaim, h.victim, entry]
    rw [report_eq, cuts.sameClaim, h.phase]
    simp [stays]
  rw [bookSteps_eq, report]
  obtain ⟨l, queue, -⟩ := cuts.tail
  refine ⟨⟨?_, ?_, ?_, entry⟩, fun q m => ?_⟩
  · exact (congrArg Claim.phase cuts.sameClaim).trans h.phase
  · exact (congrArg Claim.victim cuts.sameClaim).trans h.victim
  · exact (congrArg Claim.shedMade cuts.sameClaim).trans h.made
  · change q ∈ s.checked.tq.queue
    rw [queue]
    exact List.mem_append_left _ m

theorem asking_laps {st bd : Nat} (n : Nat) (peer : st ≠ s.sl.own) (h : Asking st bd s) :
    Asking st bd (s.settleBook n) ∧ ∀ q ∈ s.tq.queue, q ∈ (s.settleBook n).tq.queue := by
  induction n generalizing s with
  | zero => exact ⟨h, fun _ => id⟩
  | succ n ih =>
    unfold State.settleBook
    split
    · obtain ⟨next, kept⟩ := asking_lap peer h
      obtain ⟨last, kept'⟩ := ih (by rwa [(inside_bookSteps s).sl]) next
      exact ⟨last, fun q m => kept' q (kept q m)⟩
    · exact ⟨h, fun _ => id⟩

/-- What an event's end adds to its laps where a claim is in flight. -/
theorem ends_flight (n : Nat) (flight : (s.settleBook n).sb.claim.phase ≠ .none) :
    AfterAlerts { s.settleBook n with sb.dirty := false, bc.occasion := false } (s.ends n) := by
  unfold State.ends
  dsimp only
  split
  · have still := weighOccasion_of_phase (s := { s.settleBook n with sb.dirty := false, bc.occasion := false }) flight
    rw [still]
    exact afterAlerts_offerAlerts _
  · exact afterAlerts_offerAlerts _

theorem asking_ends {st bd : Nat} (n : Nat) (peer : st ≠ s.sl.own) (h : Asking st bd s) :
    Asking st bd (s.ends n) ∧ ∀ q ∈ s.tq.queue, q ∈ (s.ends n).tq.queue := by
  obtain ⟨last, kept⟩ := asking_laps n peer h
  have alerts := ends_flight n (by rw [last.phase]; nofun)
  refine ⟨⟨?_, ?_, ?_, ?_⟩, fun q m => alerts.mem_queue (kept q m)⟩
  · rw [alerts.sb]; exact last.phase
  · rw [alerts.sb]; exact last.victim
  · rw [alerts.sb]; exact last.made
  · rw [State.hasEntry, alerts.sb]; exact last.entry

/-! ### A shed of an own entry (R74) -/

/-- The claim waits since a moment for the own entry of this bed, which is in no cycle, to leave the book. -/
structure Awaiting (b : BedId) (now : Nat) (s : State) : Prop where
  phase : s.sb.claim.phase = .awaiting
  victim : s.sb.claim.victim = some (s.sl.own, b.val)
  since : s.sb.claim.victimSince = some now
  made : s.sb.claim.shedMade = true
  rests : (s.bed b).state.cycling = false

theorem resolve_made (made : s.sb.claim.shedMade = true) : s.resolve.sb.claim.phase = .ending := by
  unfold State.resolve
  split
  · exact (worked_ownCommitted s.opened).claim.ended (opened_claim s)
  · rw [if_neg (by simp [made]), dropClaim_phase]
    rfl

/-- The bed of an awaiting claim after a lap: as it was while the entry is there; once it is gone, the claim is resolved for good. -/
theorem awaiting_lap {now : Nat} (h : Awaiting b now s) :
    (s.hasEntry s.sl.own b.val = true → Awaiting b now s.bookSteps ∧ s.bookSteps.hasEntry s.sl.own b.val = true)
      ∧ (s.hasEntry s.sl.own b.val = false → s.bookSteps.sb.claim.phase = .ending) := by
  have cuts := cutting_checked s
  have entry : s.checked.hasEntry s.sl.own b.val = s.hasEntry s.sl.own b.val := by
    refine cuts.hasEntry fun d _ bed => ?_
    rw [bedOf_val] at bed
    rw [← Option.some.inj bed, h.rests]
  have gone : s.checked.victimGone = !s.hasEntry s.sl.own b.val := by simp [State.victimGone, cuts.sameClaim, h.victim, entry]
  have report : s.checked.report = if s.hasEntry s.sl.own b.val then s.checked.relisted else s.checked.relisted.resolve := by
    have leaves : s.checked.relisted.victimLeaves = s.checked.relisted.resolve := by
      unfold State.victimLeaves
      have phase : s.checked.relisted.sb.claim.phase = .awaiting := (congrArg Claim.phase cuts.sameClaim).trans h.phase
      rw [phase]
    rw [report_eq, cuts.sameClaim, h.phase, leaves]
    simp only [gone]
    cases s.hasEntry s.sl.own b.val <;> rfl
  rw [bookSteps_eq, report]
  refine ⟨fun has => ?_, fun out => ?_⟩
  · rw [if_pos has]
    refine ⟨⟨?_, ?_, ?_, ?_, ?_⟩, entry.trans has⟩
    · exact (congrArg Claim.phase cuts.sameClaim).trans h.phase
    · refine ((congrArg Claim.victim cuts.sameClaim).trans h.victim).trans ?_
      exact congrArg (fun l : SetupLoader => some (l.own, b.val)) cuts.sl.symm
    · exact (congrArg Claim.victimSince cuts.sameClaim).trans h.since
    · exact (congrArg Claim.shedMade cuts.sameClaim).trans h.made
    · exact (congrArg (fun x => BedState.cycling x.state) (cuts.rests b h.rests).bed).trans h.rests
  · rw [if_neg (by simp [out])]
    exact resolve_made (s := s.checked.relisted) ((congrArg Claim.shedMade cuts.sameClaim).trans h.made)

theorem awaiting_laps {now : Nat} (n : Nat) (h : Awaiting b now s) (has : s.hasEntry s.sl.own b.val = true) :
    Awaiting b now (s.settleBook n) ∧ (s.settleBook n).hasEntry s.sl.own b.val = true := by
  induction n generalizing s with
  | zero => exact ⟨h, has⟩
  | succ n ih =>
    unfold State.settleBook
    split
    · obtain ⟨next, still⟩ := (awaiting_lap h).1 has
      have own : s.bookSteps.sl = s.sl := (inside_bookSteps s).sl
      rw [← own] at still ⊢
      exact ih next still
    · exact ⟨h, has⟩

theorem awaiting_ends {now : Nat} (n : Nat) (h : Awaiting b now s) (has : s.hasEntry s.sl.own b.val = true) :
    Awaiting b now (s.ends n) ∧ (s.ends n).hasEntry s.sl.own b.val = true := by
  obtain ⟨last, still⟩ := awaiting_laps n h has
  have alerts := ends_flight n (by rw [last.phase]; nofun)
  refine ⟨⟨?_, ?_, ?_, ?_, ?_⟩, ?_⟩
  · rw [alerts.sb]; exact last.phase
  · rw [alerts.sb, alerts.sl]; exact last.victim
  · rw [alerts.sb]; exact last.since
  · rw [alerts.sb]; exact last.made
  · rw [alerts.bed]; exact last.rests
  · rw [State.hasEntry, alerts.sb]; exact still

/-- Where the entry is gone before the book's steps, the claim is resolved in the first lap. -/
theorem awaiting_gone {now : Nat} (n : Nat) (h : Awaiting b now s) (out : s.hasEntry s.sl.own b.val = false) (dirty : s.sb.dirty = true) :
    (s.ends (n + 1)).sb.claim.phase = .ending := by
  rw [ends_lap n dirty]
  exact ends_ended n ((awaiting_lap h).2 out)

/-! ### The resolution (R69) -/


theorem sheddable_of_victim {shortfall age : Nat} {book : List Entry} {e : Entry} (h : victimOf shortfall age book = some e) :
    e ∈ book ∧ e.bed < 8 := by
  have found := List.find?_some h
  simp only [Entry.sheddable, Bool.and_eq_true, decide_eq_true_eq] at found
  exact ⟨List.mem_reverse.1 (List.mem_of_find?_eq_some h), found.1.1.2⟩

theorem hasEntry_of_mem {e : Entry} (h : e ∈ s.sb.book) : s.hasEntry e.station e.bed = true :=
  List.any_eq_true.2 ⟨e, h, by simp [Entry.named]⟩

/-- A shed of a peer's entry stands at the end of its event. -/
theorem shedPeer_ends {e : Entry} (active : s.sl.station = .active) (peer : e.station ≠ s.sl.own) (entered : e ∈ s.sb.book) (o : Bool) (n : Nat) :
    Asking e.station e.bed (((s.shedPeer e).marked o).ends n)
      ∧ ∃ q ∈ (((s.shedPeer e).marked o).ends n).tq.queue, q.notice = .shed e.station e.bed s.sb.claim.bed := by
  have eq : s.shedPeer e = { s with
      sb := { s.sb with claim := s.sb.claim.asks e }
      tq.queue := s.tq.queue ++ [⟨.shed e.station e.bed s.sb.claim.bed, 0, false⟩] } :=
    offer_essential (s := { s with sb.claim := s.sb.claim.asks e }) rfl (admits_active active)
  rw [eq]
  obtain ⟨last, kept⟩ := asking_ends (s := State.marked o { s with
      sb := { s.sb with claim := s.sb.claim.asks e }
      tq.queue := s.tq.queue ++ [⟨.shed e.station e.bed s.sb.claim.bed, 0, false⟩] }) n peer ⟨rfl, rfl, rfl, hasEntry_of_mem entered⟩
  exact ⟨last, _, kept ⟨.shed e.station e.bed s.sb.claim.bed, 0, false⟩ (by simp [State.marked]), rfl⟩

/-- The claim waits for an own entry from now on; its bed is still to be cut. -/
def State.shedding (e : Entry) (s : State) : State := { s with sb.claim := s.sb.claim.sheds e s.now }

theorem shedOwn_cut {e : Entry} (bed : bedOf e.bed = some b) (s : State) : s.shedOwn e = (s.shedding e).cut b .shed := by
  rw [shedOwn_eq, bed]
  rfl

theorem aside_shedding (e : Entry) (b : BedId) (s : State) : Aside b s (s.shedding e) := aside_same rfl rfl rfl

theorem cutting_shedOwn {e : Entry} (bed : bedOf e.bed = some b) (s : State) : Cutting (s.shedding e) (s.shedOwn e) := by
  rw [shedOwn_cut bed]
  exact cutting_cut ..

theorem shedOwn_rests {e : Entry} (bed : bedOf e.bed = some b) (s : State) : ((s.shedOwn e).bed b).state.cycling = false := by
  rw [shedOwn_cut bed]
  by_cases cycling : ((s.shedding e).bed b).state.cycling = true
  · exact (Overdraw.cut_beds (c := .shed) cycling (by decide)).1
  · rw [Overdraw.cut_of_resting .shed (by simpa using cycling)]
    simpa using cycling

theorem awaiting_shedOwn {e : Entry} (own : e.station = s.sl.own) (bed : bedOf e.bed = some b) (o : Bool) :
    Awaiting b s.now ((s.shedOwn e).marked o) := by
  have cuts := cutting_shedOwn bed s
  have claim : (s.shedOwn e).sb.claim = s.sb.claim.sheds e s.now := cuts.sameClaim
  have sl : (s.shedOwn e).sl = s.sl := cuts.sl
  refine ⟨congrArg Claim.phase claim, (congrArg Claim.victim claim).trans ?_, congrArg Claim.victimSince claim, congrArg Claim.shedMade claim,
    shedOwn_rests bed s⟩
  change some (e.station, e.bed) = some ((s.shedOwn e).sl.own, b.val)
  rw [sl, own, val_of_bedOf bed]

/-- The shed bed's cycle is over: the closing work finds it at rest. -/
theorem aside_shedOwn {e : Entry} (bed : bedOf e.bed = some b) (cycling : (s.bed b).state.cycling = true)
    (held : (s.bed s.sb.claim.bed).state = .claiming) (o : Bool) (n : Nat) : Aside b (s.shedOwn e) (((s.shedOwn e).marked o).ends n) := by
  have claim : (s.shedOwn e).sb.claim = s.sb.claim.sheds e s.now := (cutting_shedOwn bed s).sameClaim
  have phase : ((s.shedOwn e).marked o).sb.claim.phase = .awaiting := congrArg Claim.phase claim
  obtain ⟨w, worked, alerts⟩ := ends_quietly (s := (s.shedOwn e).marked o) n (.inr (.inr (.inr phase)))
  have other : ((s.shedOwn e).marked o).sb.claim.spares b := by
    refine .inl fun same => ?_
    have same : s.sb.claim.bed = b := (congrArg Claim.bed claim).symm.trans same
    rw [same] at held
    simp [held, BedState.cycling] at cycling
  have calm : ((s.shedOwn e).bed b).state.calm := by
    refine ⟨shedOwn_rests bed s, ?_⟩
    rw [shedOwn_cut bed]
    exact (bedwise_cut b .shed (s.shedding e)).unclaimed (ne_claiming_of_cycling (by rw [(aside_shedding e b s).bed, cycling]))
  have mark : Aside b (s.shedOwn e) ((s.shedOwn e).marked o) := aside_same rfl rfl rfl
  exact (mark.trans (worked.calm b other calm)).trans (aside_same (by rw [alerts.sl]) (by rw [alerts.bc]) alerts.vd)

theorem shedOwn_ended {e : Entry} (bed : bedOf e.bed = some b) {r : Run} (cycling : (s.bed b).state.cycling = true)
    (run : (s.bed b).run = some r) (unshut : ¬ s.shutsAtOnce b) : CycleEnded b r .shed s (s.shedOwn e) := by
  have aside := aside_shedding e b s
  have ended := cycleEnded_endCycle (s := s.shedding e) (c := .shed) ⟨nofun, nofun, nofun⟩ (aside.bed ▸ run) (aside.unshut unshut)
  have cut : s.shedOwn e = (s.shedding e).endCycle b .shed := (shedOwn_cut bed s).trans (if_pos (aside.bed ▸ cycling))
  rw [← cut] at ended
  exact cycleEnded_before aside ended

/-- Where the own entry is out of the book, it was the cut that took it, a book change. -/
theorem dirty_shedOwn {e : Entry} (own : e.station = s.sl.own) (bed : bedOf e.bed = some b) (entered : e ∈ s.sb.book)
    (out : (s.shedOwn e).hasEntry s.sl.own b.val = false) : (s.shedOwn e).sb.dirty = true := by
  have entry : (s.shedding e).hasEntry s.sl.own b.val = true := by
    rw [← own, ← val_of_bedOf bed]
    exact hasEntry_of_mem entered
  rw [shedOwn_cut bed] at out ⊢
  by_cases cycling : ((s.shedding e).bed b).state.cycling = true
  · rcases (bedwise_cut b .shed (s.shedding e)).book (ne_claiming_of_cycling cycling) with ⟨book, -⟩ | ⟨-, dirty⟩
    · rw [State.hasEntry, book] at out
      exact absurd (out.symm.trans entry) nofun
    · exact dirty
  · rw [Overdraw.cut_of_resting .shed (by simpa using cycling), entry] at out
    cases out

/-- A bed that was in no cycle is in none at the end. -/
theorem shedOwn_resting {e : Entry} (own : e.station = s.sl.own) (entered : e ∈ s.sb.book) (bed : bedOf e.bed = some b)
    (resting : (s.bed b).state.cycling = false) (o : Bool) (n : Nat) : ((((s.shedOwn e).marked o).ends n).bed b).state.cycling = false := by
  have eq : s.shedOwn e = s.shedding e := (shedOwn_cut bed s).trans (Overdraw.cut_of_resting .shed ((aside_shedding e b s).bed ▸ resting))
  have here := awaiting_shedOwn own bed o
  have entry : s.hasEntry s.sl.own b.val = true := by
    rw [← own, ← val_of_bedOf bed]
    exact hasEntry_of_mem entered
  rw [eq] at here ⊢
  exact (awaiting_ends n here entry).1.rests

/-- The ALERTs of an event are no SHEDs. -/
theorem noSheds_alerts (alerts : AfterAlerts s t) (rests : s.noSheds) : t.noSheds := by
  obtain ⟨-, ⟨l, queue, codes⟩, -⟩ := alerts
  intro q m
  rw [queue] at m
  rcases List.mem_append.1 m with m | m
  · exact rests q m
  · have code := codes q m
    cases kind : q.notice <;> first | rfl | simp [kind, Notice.code] at code

/-- No SHED waits at the end of a shed of an own entry, where none waited. -/
theorem noSheds_shedOwn {e : Entry} (bed : bedOf e.bed = some b) (quiet : s.noSheds) (o : Bool) (n : Nat) :
    (((s.shedOwn e).marked o).ends n).noSheds := by
  have cuts := cutting_shedOwn bed s
  have phase : ((s.shedOwn e).marked o).sb.claim.phase = .awaiting := congrArg Claim.phase cuts.sameClaim
  obtain ⟨w, worked, alerts⟩ := ends_quietly (s := (s.shedOwn e).marked o) n (.inr (.inr (.inr phase)))
  have work := worked.sheds (.inl (congrArg Claim.shedMade cuts.sameClaim)) (cuts.sheds (.inl rfl) quiet)
  exact noSheds_alerts alerts work

/-- What a shed of an own entry leaves of the claim at the end of its event (R74, R76). -/
theorem shedOwn_waits {e : Entry} (own : e.station = s.sl.own) (entered : e ∈ s.sb.book) (bed : bedOf e.bed = some b) (o : Bool) (n : Nat) :
    let t := ((s.shedOwn e).marked o).ends (n + 1)
    (t.hasEntry s.sl.own e.bed = true → Awaiting b s.now t) ∧ (t.hasEntry s.sl.own e.bed = false → t.sb.claim.phase = .ending) := by
  intro t
  have here := awaiting_shedOwn own bed o
  have owned : ((s.shedOwn e).marked o).sl.own = s.sl.own := by
    change (s.shedOwn e).sl.own = _
    rw [(cutting_shedOwn bed s).sl]
    rfl
  rw [val_of_bedOf bed]
  cases has : ((s.shedOwn e).marked o).hasEntry s.sl.own b.val with
  | true =>
    rw [← owned] at has ⊢
    obtain ⟨last, kept⟩ := awaiting_ends (n + 1) here has
    exact ⟨fun _ => last, fun out => absurd (out.symm.trans kept) nofun⟩
  | false =>
    have gone : t.hasEntry s.sl.own b.val = false := Overdraw.hasEntry_of_inside (inside_ends (n + 1) _) has
    exact ⟨fun kept => absurd (gone.symm.trans kept) nofun, fun _ =>
      awaiting_gone n here (by rw [owned]; exact has) (dirty_shedOwn own bed entered has)⟩

theorem cut_claim (d : BedId) (c : EndCause) (s : State) : (s.cut d c).sb.claim = s.sb.claim := (cutting_cut d c s).sameClaim

theorem resolve_past (s : State) : s.resolve.sb.claim.past := by
  unfold State.resolve
  split
  · exact .inl ((worked_ownCommitted s.opened).claim.ended (opened_claim s))
  · split
    · unfold State.shedClaim
      split
      · rw [dropClaim_phase]; exact .inl rfl
      · split
        · rw [shedOwn_eq]
          split
          · rw [cut_claim]; exact .inr (.inr rfl)
          · exact .inr (.inr rfl)
        · rw [shedPeer_eq, offer_claim]
          exact .inr (.inl rfl)
    · rw [dropClaim_phase]; exact .inl rfl

/-- A claim that is resolved within an event is resolved at its end. -/
theorem resolve_ends (like : ForClaim s u) (can : ¬ u.sb.claim.inert) (active : s.sl.station = .active) (quiet : ClaimSound s → u.noSheds)
    (live : s.sb.claim.live = true) (o : Bool) (n : Nat) : Resolved s ((u.resolve.marked o).ends (n + 1)) := by
  have here : u.sl.station = .active := by rw [like.sl, active]
  have total := like.total
  refine ⟨ends_past (n + 1) (resolve_past u), fun fits => ?_, fun exceeds which => ?_, fun e exceeds severe unmade victim => ?_⟩
  · have commits : u.resolve = u.commitClaim := if_pos (like.fits.2 fits)
    rw [commits]
    exact commit_ends like can active o n
  · have drops : u.resolve = u.dropClaim := by
      refine (if_neg (mt like.fits.1 (Nat.not_le.2 exceeds))).trans ?_
      split
      · rename_i severe
        rw [like.urgency, like.shedMade] at severe
        unfold State.shedClaim
        rw [total, like.budget, like.age, like.book, which.resolve_left (not_not.2 severe.1) |>.resolve_left (by simp [severe.2])]
      · rfl
    rw [drops]
    exact dropClaim_ends like active o (n + 1)
  · have chooses : u.resolve = if e.station = u.sl.own then u.shedOwn e else u.shedPeer e := by
      refine (if_neg (mt like.fits.1 (Nat.not_le.2 exceeds))).trans ((if_pos ⟨by rw [like.urgency, severe], by rw [like.shedMade, unmade]⟩).trans ?_)
      unfold State.shedClaim
      rw [total, like.budget, like.age, like.book, victim]
    obtain ⟨entered, below⟩ := sheddable_of_victim victim
    rw [like.sl] at chooses
    by_cases own : e.station = s.sl.own
    · rw [if_pos own] at chooses
      rw [chooses]
      have own' : e.station = u.sl.own := by rw [like.sl, own]
      have bed : bedOf e.bed = some ⟨e.bed, below⟩ := dif_pos below
      have here := awaiting_shedOwn own' bed o
      have ends := ends_quietly (s := (u.shedOwn e).marked o) (n + 1) (.inr (.inr (.inr here.phase)))
      refine ⟨?_, fun peer => absurd own peer, fun _ sound => ?_⟩
      · obtain ⟨w, worked, alerts⟩ := ends
        rw [alerts.sb]
        exact worked.claim.kept (.inr (.inr here.phase)) here.made
      · have now : (((u.shedOwn e).marked o).ends (n + 1)).now = u.now :=
          (inside_ends (n + 1) ((u.shedOwn e).marked o)).now.trans (cutting_shedOwn bed u).now
        have held : (u.bed u.sb.claim.bed).state = .claiming := by rw [like.bed, like.bedOf]; exact sound.holds live
        obtain ⟨waits, gone⟩ := shedOwn_waits own' (by rw [like.book]; exact entered) bed o n
        rw [like.sl] at waits gone
        have own'' : (((u.shedOwn e).marked o).ends (n + 1)).sl.own = s.sl.own := by
          rw [(inside_ends (n + 1) ((u.shedOwn e).marked o)).sl]
          change (u.shedOwn e).sl.own = _
          rw [(cutting_shedOwn bed u).sl]
          exact congrArg _ like.sl
        refine ⟨fun b found => ?_, noSheds_shedOwn bed (quiet sound) o (n + 1), fun has => ?_, gone⟩
        · rw [bed] at found
          obtain rfl := Option.some.inj found
          have before : Aside ⟨e.bed, below⟩ s u := aside_same (by rw [like.sl]) like.beds like.vd
          have after (cycling : (s.bed ⟨e.bed, below⟩).state.cycling = true) := aside_shedOwn bed (before.bed ▸ cycling) held o (n + 1)
          refine ⟨?_, fun r cycling run unshut => ?_⟩
          · cases cycling : (s.bed ⟨e.bed, below⟩).state.cycling with
            | true =>
              rw [(after cycling).bed]
              exact shedOwn_rests bed u
            | false => exact shedOwn_resting own' (by rw [like.book]; exact entered) bed (before.bed ▸ cycling) o (n + 1)
          · exact cycleEnded_after (cycleEnded_before before
              (shedOwn_ended bed (before.bed ▸ cycling) (before.bed ▸ run) (before.unshut unshut))) (after cycling)
        · have last := waits has
          exact ⟨last.phase, by rw [last.victim, own''], by rw [last.since, now]⟩
    · rw [if_neg own] at chooses
      rw [chooses]
      obtain ⟨last, q, m, kind⟩ := shedPeer_ends (s := u) here (by rw [like.sl]; exact own) (by rw [like.book]; exact entered) o (n + 1)
      refine ⟨last.made, fun _ => ⟨last.phase, last.victim, q, m, ?_⟩, fun same => absurd same own⟩
      rw [kind, like.bed]

end Sys2Proof.Machine

/-! PROOFS. The timers of the claim (R68, R77), and the entries of peers that leave or commit while it waits (R42, R45, R46, R52, R58). -/

namespace Sys2Proof.ClaimTimers

open Sys2Proof.Machine

variable {s t u : State}

/-- An event that resolves the claim of `s`, on a state that is `s` for the resolution. -/
theorem resolved_finish (like : ForClaim s u) (can : ¬ u.sb.claim.inert) (active : s.sl.station = .active) (quiet : ClaimSound s → u.noSheds)
    (live : s.sb.claim.live = true) : Resolved s u.resolve.finish :=
  resolve_ends like can active quiet live u.resolve.bc.occasion 15

theorem noSheds_of_phase (sound : ClaimSound s) (phase : s.sb.claim.phase ≠ .asking) : s.noSheds := by
  intro q m
  refine Bool.eq_false_of_not_eq_true fun shed => phase (sound.asking ?_)
  exact List.any_eq_true.2 ⟨q, m, shed⟩

/-- What an event keeps whose effect is an inner operation of a later moment. -/
theorem inside_event {x : Nat} (inside : Inside (s.advanceTo x) u) :
    u.finish.now = max s.now x ∧ u.finish.peers = s.peers ∧ u.finish.pw = s.pw ∧ u.finish.sl = s.sl := by
  have h := inside.trans (inside_finish u)
  exact ⟨h.now, h.peers, h.pw, h.sl⟩

/-- Settles O33: the timer's command is the resolution, or the drop, at its moment. -/
theorem claimTimersResolveTheClaim : Obligations.ClaimTimersResolveTheClaim := by
  intro since s active
  have live : s.live = true := by simp [State.live, active]
  refine ⟨fun phase started => ?_, fun phase started => ?_⟩
  · have run : exec .resolutionTimerExpiry s
        = .next (State.resolve { s.advanceTo (since + 2 * 12000) with sb.claim.resolveSince := none }).finish := by
      simp only [exec, execResolutionTimerExpiry, State.take, live, phase, started, if_true]
      rfl
    have clear : Inside (s.advanceTo (since + 2 * 12000)) { s.advanceTo (since + 2 * 12000) with sb.claim.resolveSince := none } :=
      inside_claim { s.sb.claim with resolveSince := none } _
    obtain ⟨now, peers, pw, sl⟩ := inside_event (clear.trans (inside_resolve _))
    have answered : ClaimSound s → s.noSheds := fun sound => noSheds_of_phase sound (by rw [phase]; nofun)
    refine ⟨_, run, now, resolved_finish ⟨rfl, rfl, rfl, rfl, rfl, rfl, rfl, rfl, rfl, rfl, rfl, rfl, rfl⟩ ?_ active answered ?_, peers, pw, sl⟩
    · exact not_inert_of_resolving (s := { s.advanceTo (since + 2 * 12000) with sb.claim.resolveSince := none }) phase
    · rw [Claim.live, phase]
  · have run : exec .victimTimerExpiry s = .next (s.advanceTo (since + 20 * 12000)).dropClaim.finish := by
      simp only [exec, execVictimTimerExpiry, State.take, live, phase, started, if_true]
      rfl
    obtain ⟨now, peers, pw, sl⟩ := inside_event (inside_dropClaim (s.advanceTo (since + 20 * 12000)))
    have like : ForClaim s (s.advanceTo (since + 20 * 12000)) := ⟨rfl, rfl, rfl, rfl, rfl, rfl, rfl, rfl, rfl, rfl, rfl, rfl, rfl⟩
    exact ⟨_, run, now, dropClaim_ends like active (s.advanceTo (since + 20 * 12000)).dropClaim.bc.occasion settleLaps, peers, pw, sl⟩

end Sys2Proof.ClaimTimers

/-! PROOFS. The reports to the claim exchange (R58): a claim that waits for an entry which has left, or committed, is resolved on the
book that its event has left. -/

namespace Sys2Proof.Machine

variable {b d : BedId} {s t u a : State} {st bd : Nat}

/-! ### What the reports find -/

/-- The book no longer holds what the claim waits for. -/
def State.released (s : State) : Prop :=
  (s.sb.claim.phase = .resolving ∧ s.liveSeniors = [])
    ∨ ((s.sb.claim.phase = .awaiting ∨ s.sb.claim.phase = .asking ∧ s.sb.claim.outcome = none) ∧ s.victimGone = true)

/-- One SHED waits at most, and none is in transmission. -/
def State.unsent (s : State) : Prop :=
  s.sendingOf Notice.isShed = false ∧ s.tq.queue.countP (fun q => q.notice.isShed) ≤ 1

theorem liveSeniors_eq_nil : s.liveSeniors = [] ↔ ∀ p ∈ s.sb.claim.seniors, ∀ e ∈ s.sb.book, e.named p.1 p.2 = true → e.committed = true := by
  simp [State.liveSeniors, List.filter_eq_nil_iff]

theorem hasEntry_eq_false : s.hasEntry st bd = false ↔ ∀ e ∈ s.sb.book, e.named st bd = false := by
  simp [State.hasEntry]

theorem victimGone_iff : s.victimGone = true ↔ ∃ p, s.sb.claim.victim = some p ∧ s.hasEntry p.1 p.2 = false := by
  unfold State.victimGone
  split
  · rename_i st bd e
    simp [e]
  · rename_i e
    simp [e]

namespace Cutting

theorem released (h : Cutting s t) (r : s.released) : t.released := by
  unfold State.released
  rw [h.sameClaim]
  refine r.imp (fun ⟨phase, empty⟩ => ⟨phase, liveSeniors_eq_nil.2 ?_⟩) fun ⟨phase, gone⟩ => ⟨phase, victimGone_iff.2 ?_⟩
  · rw [h.sameClaim]
    exact fun p m e i => liveSeniors_eq_nil.1 empty p m e (h.sub.subset i)
  · obtain ⟨p, victim, out⟩ := victimGone_iff.1 gone
    rw [h.sameClaim]
    exact ⟨p, victim, hasEntry_eq_false.2 fun e i => hasEntry_eq_false.1 out e (h.sub.subset i)⟩

theorem noSheds (h : Cutting s t) (none : s.noSheds) : t.noSheds := by
  obtain ⟨l, queue, free⟩ := h.tail
  intro q m
  rw [queue] at m
  exact (List.mem_append.1 m).elim (none q) (free q)

theorem unsent (h : Cutting s t) (x : s.unsent) : t.unsent := by
  obtain ⟨l, queue, free⟩ := h.tail
  obtain ⟨still, one⟩ := x
  refine ⟨?_, ?_⟩
  · unfold State.sendingOf at still ⊢
    rw [h.li, queue]
    rcases waits : s.tq.queue with _ | ⟨x, q⟩
    · rcases l with _ | ⟨x, l⟩
      · simp
      · simp [free x]
    · rwa [waits] at still
  · have none : l.countP (fun q => q.notice.isShed) = 0 := by simpa [List.countP_eq_zero] using free
    rw [queue, List.countP_append, none]
    exact one

end Cutting

/-- A SHED that waits alone leaves at its cancellation. -/
theorem noSheds_cancel_unsent (h : s.unsent) : (s.cancel Notice.isShed).noSheds := by
  obtain ⟨still, one⟩ := h
  unfold State.cancel
  rw [if_neg (by simp [still])]
  split
  · rename_i x l queue
    rw [queue, List.countP_cons] at one
    split
    · rename_i head
      rw [if_pos head] at one
      have none : l.countP (fun q => q.notice.isShed) = 0 := by omega
      simpa [State.noSheds, State.popHead, queue, List.countP_eq_zero] using none
    · rename_i head
      rw [if_neg head] at one
      intro q m
      rcases List.mem_cons.1 m with rfl | m
      · simpa using head
      · refine Bool.eq_false_of_not_eq_true fun shed => ?_
        obtain ⟨y, l₁, l₂, -, head', split, erased⟩ := List.exists_of_eraseP (p := fun q : Queued => q.notice.isShed) (List.mem_of_mem_eraseP m) shed
        have left : 0 < (l₁ ++ l₂).countP (fun q => q.notice.isShed) := List.countP_pos_iff.2 ⟨q, erased ▸ m, shed⟩
        rw [split, List.countP_append, List.countP_cons, if_pos head'] at one
        rw [List.countP_append] at left
        omega
  · rename_i queue
    simp [State.noSheds, queue]

/-- The state in which a report resolves the claim. -/
def State.reported (q : TransmitQueue) (o : Option HeldOutcome) (s : State) : State :=
  { s with tq := q, sb := { s.sb with claim := { s.sb.claim with seniors := s.liveSeniors, outcome := o } } }

theorem report_released (h : s.released) (asks : s.sb.claim.phase = .asking → s.unsent) (rests : s.sb.claim.phase ≠ .asking → s.noSheds) :
    ∃ q o, s.report = (s.reported q o).resolve ∧ ¬ (s.reported q o).sb.claim.inert ∧ (s.reported q o).noSheds := by
  rw [report_eq]
  rcases h with ⟨phase, empty⟩ | ⟨phase | ⟨phase, out⟩, gone⟩
  · rw [phase]
    refine ⟨s.tq, s.sb.claim.outcome, ?_, ?_, rests (by rw [phase]; nofun)⟩
    · rw [empty]; rfl
    · simp [Claim.inert, Claim.live, State.reported, phase]
  · rw [phase]
    refine ⟨s.tq, s.sb.claim.outcome, ?_, ?_, rests (by rw [phase]; nofun)⟩
    · dsimp only
      rw [if_pos gone]
      unfold State.victimLeaves
      have phase : s.relisted.sb.claim.phase = .awaiting := phase
      rw [phase]
      rfl
    · simp [Claim.inert, Claim.live, State.reported, phase]
  · rw [phase]
    have unsent := asks phase
    have rests := noSheds_cancel_unsent (s := { s.relisted with sb.claim := { s.relisted.sb.claim with outcome := some .reResolve } }) unsent
    have sb := cancel_sb Notice.isShed { s.relisted with sb.claim := { s.relisted.sb.claim with outcome := some .reResolve } }
    have rest := cancel_rest Notice.isShed { s.relisted with sb.claim := { s.relisted.sb.claim with outcome := some .reResolve } }
    generalize hv : State.cancel Notice.isShed { s.relisted with sb.claim := { s.relisted.sb.claim with outcome := some .reResolve } } = v
      at rests sb rest
    have apart : v.holdsNotice Notice.isShed = false := by simpa [State.holdsNotice, State.noSheds] using rests
    refine ⟨v.tq, .none, ?_, ?_, rests⟩
    · dsimp only
      rw [if_pos gone]
      have leaves : s.relisted.victimLeaves = v.applyHeld := by
        unfold State.victimLeaves
        have phase : s.relisted.sb.claim.phase = .asking := phase
        have out : s.relisted.sb.claim.outcome = none := out
        rw [phase, out]
        dsimp only
        rw [hv, apart]
        rfl
      have held : v.sb.claim.outcome = some .reResolve := by rw [sb]
      rw [leaves]
      unfold State.applyHeld
      rw [held, rest]
      rfl
    · simp [Claim.inert, Claim.live, State.reported, phase]

/-! ### The resolution at the end of the event -/

theorem any_filter_named (book : List Entry) (l : List (Nat × Nat)) {e : Entry} (m : e ∈ book) (out : e.committed = false) :
    ((l.filter fun p => book.any fun x => x.named p.1 p.2 && !x.committed).any fun p => e.named p.1 p.2) = l.any fun p => e.named p.1 p.2 := by
  rw [Bool.eq_iff_iff, List.any_eq_true, List.any_eq_true]
  refine ⟨fun ⟨p, i, named⟩ => ⟨p, List.mem_of_mem_filter i, named⟩, fun ⟨p, i, named⟩ => ⟨p, List.mem_filter.2 ⟨i, ?_⟩, named⟩⟩
  exact List.any_eq_true.2 ⟨e, m, by simp [named, out]⟩

/-- The members that the book has lost count nothing: the senior set's sum stays. -/
theorem seniorSum_live (c : Claim) (o : Option HeldOutcome) (book : List Entry) (l : List (Nat × Nat)) (same : l = c.seniors) :
    seniorSum { c with seniors := l.filter fun p => book.any fun e => e.named p.1 p.2 && !e.committed, outcome := o } book
      = seniorSum c book := by
  subst same
  unfold seniorSum
  have keeps : book.filter (Claim.counts { c with
      seniors := c.seniors.filter fun p => book.any fun e => e.named p.1 p.2 && !e.committed, outcome := o }) = book.filter c.counts := by
    refine List.filter_congr fun e m => ?_
    unfold Claim.counts
    cases out : e.committed with
    | true => rfl
    | false => rw [any_filter_named book c.seniors m out]
  rw [keeps]

namespace ForClaim

theorem cutsNothing (h : ForClaim s u) (k : s.cutsNothing) : u.cutsNothing := by
  rintro e b ⟨m, own, bed⟩
  rw [h.bedOf]
  exact k e b ⟨by rwa [← h.budget, ← h.book], by rw [own, h.sl], bed⟩

theorem reported (h : ForClaim a u) (x : Bool) (q : TransmitQueue) (o : Option HeldOutcome) :
    ForClaim a (State.reported q o { u with sb.dirty := false, sb.saturated := x }) :=
  ⟨h.sl, h.beds, h.holds, h.vd, h.loss, h.book, h.budget, h.bed, h.flow, h.urgency, h.age, h.shedMade,
    (seniorSum_live u.sb.claim o u.sb.book _ rfl).trans h.sum⟩

end ForClaim

/-- A released claim is resolved, past what waits, in the first lap; on the book of the event where no cycle is cut before. -/
theorem released_ends (n : Nat) (dirty : u.sb.dirty = true) (released : u.released) (asks : u.sb.claim.phase = .asking → u.unsent)
    (rests : u.sb.claim.phase ≠ .asking → u.noSheds) :
    (u.ends (n + 2)).sb.claim.past
      ∧ (u.sb.claim.shedMade = true → (u.ends (n + 2)).noSheds)
      ∧ (ForClaim a u → a.sl.station = .active → a.sb.claim.live = true → u.cutsNothing → Resolved a (u.ends (n + 2))) := by
  have cuts := cutting_checked u
  obtain ⟨q, o, report, can, quiet⟩ := report_released (cuts.released released) (fun e => cuts.unsent (asks (cuts.sameClaim ▸ e)))
    (fun e => cuts.noSheds (rests (cuts.sameClaim ▸ e)))
  have lap : u.ends (n + 2) = ((u.checked.reported q o).resolve.marked true).ends (n + 1) := by
    rw [ends_lap (n + 1) dirty, bookSteps_eq, report]
    rfl
  rw [lap]
  have past : ((u.checked.reported q o).resolve.marked true).sb.claim.past := resolve_past _
  refine ⟨ends_past (n + 1) past, fun made => ?_, fun like active live nothing => ?_⟩
  · have made' : (u.checked.reported q o).sb.claim.shedMade = true := (congrArg Claim.shedMade cuts.sameClaim).trans made
    have work := (worked_resolve can).trans (worked_marked true _)
    obtain ⟨w, worked, alerts⟩ := ends_quietly (n + 1) (.inr past)
    exact noSheds_alerts alerts ((work.trans worked).sheds (.inl made') quiet)
  · obtain ⟨x, checked⟩ := checked_nothing nothing
    rw [checked] at can quiet ⊢
    exact resolve_ends (like.reported x q o) can active (fun _ => quiet) live true n

/-! ### The claim that waits for one entry (R58, R68, R76, R77) -/

/-- A claim in a phase that waits was made in ACTIVE, and is there still (R63, R187). -/
theorem active_of_live (sound : ClaimSound s) (live : s.sb.claim.live = true) : s.sl.station = .active := by
  by_contra other
  by_cases barred : s.sl.station = .barred
  · rw [sound.barred barred] at live
    cases live
  · rw [Claim.live, sound.offered other barred] at live
    cases live

theorem live_of_awaits (h : s.awaits st bd) : s.sb.claim.live = true := by
  rcases h with ⟨phase, -⟩ | ⟨phase | ⟨phase, out⟩, -⟩ <;> simp [Claim.live, *]

/-- The last senior has left or committed. -/
theorem released_seniors (phase : s.sb.claim.phase = .resolving) (alone : ∀ p ∈ s.liveSeniors, p = (st, bd)) (claim : u.sb.claim = s.sb.claim)
    (left : ∀ e ∈ u.sb.book, e.committed = false → e ∈ s.sb.book ∧ e.named st bd = false) : u.released := by
  refine .inl ⟨by rw [claim, phase], liveSeniors_eq_nil.2 fun p m e i named => Bool.eq_true_of_not_eq_false fun out => ?_⟩
  obtain ⟨before, other⟩ := left e i out
  have still : p ∈ s.liveSeniors := List.mem_filter.2 ⟨claim ▸ m, List.any_eq_true.2 ⟨e, before, by simp [named, out]⟩⟩
  have same := alone p still
  subst same
  rw [other] at named
  cases named

/-- The entry that the claim waits for has left. -/
theorem released_left (h : s.awaits st bd) (claim : u.sb.claim = s.sb.claim) (gone : u.hasEntry st bd = false)
    (sub : ∀ e ∈ u.sb.book, e ∈ s.sb.book) : u.released := by
  rcases h with ⟨phase, alone⟩ | ⟨phase, victim⟩
  · exact released_seniors phase alone claim fun e m _ => ⟨sub e m, hasEntry_eq_false.1 gone e m⟩
  · exact .inr ⟨by rwa [claim], victimGone_iff.2 ⟨(st, bd), by rw [claim, victim], gone⟩⟩

theorem unsent_of_sound (sound : ClaimSound s) (tq : u.tq = s.tq) (still : u.sendingOf Notice.isShed = false) : u.unsent :=
  ⟨still, by rw [tq]; exact sound.sheds⟩

/-- A released claim of a sound state, with no SHED in transmission, is resolved at the end of the event. -/
theorem released_finish (sound : ClaimSound s) (claim : u.sb.claim = s.sb.claim) (tq : u.tq = s.tq) (released : u.released)
    (still : u.sb.claim.phase = .asking → u.sendingOf Notice.isShed = false) (dirty : u.sb.dirty = true)
    (like : ForClaim a u) (sl : a.sl = s.sl) (same : a.sb.claim = s.sb.claim) (live : s.sb.claim.live = true) :
    u.finish.pastResolving ∧ (a.cutsNothing → Resolved a u.finish) ∧ (s.sb.claim.shedMade = true → u.finish.noSheds) := by
  have rests (e : u.sb.claim.phase ≠ .asking) : u.noSheds := by
    have := ClaimTimers.noSheds_of_phase sound (by rwa [← claim])
    rwa [State.noSheds, tq]
  obtain ⟨past, quiet, resolved⟩ := released_ends (a := a) 14 dirty released (fun e => unsent_of_sound sound tq (still e)) rests
  refine ⟨past, fun nothing => ?_, fun made => quiet (by rw [claim, made])⟩
  exact resolved like (by rw [sl]; exact active_of_live sound live) (by rw [same]; exact live) (like.cutsNothing nothing)

/-! ### A SHED in transmission holds the resolution (R76) -/

/-- The claim asks, its outcome is held, and the notices of before wait in their places. -/
structure Holding (x : Queued) (q : List Queued) (s : State) : Prop where
  phase : s.sb.claim.phase = .asking
  outcome : s.sb.claim.outcome = some .reResolve
  queue : ∃ l, s.tq.queue = x :: (q ++ l)

variable {x : Queued} {q : List Queued}

theorem holding_cutting (h : Holding x q s) (cuts : Cutting s t) : Holding x q t where
  phase := by rw [cuts.sameClaim, h.phase]
  outcome := by rw [cuts.sameClaim, h.outcome]
  queue := by
    obtain ⟨l, e⟩ := h.queue
    obtain ⟨m, f, -⟩ := cuts.tail
    exact ⟨l ++ m, by rw [f, e, List.cons_append, List.append_assoc]⟩

theorem holding_lap (h : Holding x q s) : Holding x q s.bookSteps := by
  have here := holding_cutting h (cutting_checked s)
  have report : s.checked.report = s.checked.relisted := by
    have leaves : s.checked.relisted.victimLeaves = s.checked.relisted := by
      have phase : s.checked.relisted.sb.claim.phase = .asking := here.phase
      have outcome : s.checked.relisted.sb.claim.outcome = some .reResolve := here.outcome
      unfold State.victimLeaves
      rw [phase, outcome]
    rw [report_eq, here.phase, leaves]
    dsimp only
    split <;> rfl
  rw [bookSteps_eq, report]
  exact ⟨here.phase, here.outcome, here.queue⟩

theorem holding_laps (n : Nat) (h : Holding x q s) : Holding x q (s.settleBook n) := by
  induction n generalizing s with
  | zero => exact h
  | succ n ih =>
    unfold State.settleBook
    split
    · exact ih (holding_lap h)
    · exact h

theorem holding_ends (n : Nat) (h : Holding x q s) : Holding x q (s.ends n) := by
  have last := holding_laps n h
  have alerts := ends_flight n (by rw [last.phase]; nofun)
  refine ⟨by rw [alerts.sb]; exact last.phase, by rw [alerts.sb]; exact last.outcome, ?_⟩
  obtain ⟨l, e⟩ := last.queue
  obtain ⟨m, f⟩ := alerts.queue
  exact ⟨l ++ m, f.trans (by rw [show (State.tq { s.settleBook n with sb.dirty := false, bc.occasion := false }).queue = _ from e,
    List.cons_append, List.append_assoc])⟩

theorem sending_head {p : Notice → Bool} (h : s.sendingOf p = true) : s.li.attempt.isSome = true ∧ ∃ x q, s.tq.queue = x :: q ∧ p x.notice = true := by
  unfold State.sendingOf at h
  obtain ⟨some, head⟩ := Bool.and_eq_true_iff.1 h
  refine ⟨some, ?_⟩
  rcases queue : s.tq.queue with _ | ⟨x, q⟩
  · simp [queue] at head
  · exact ⟨x, q, rfl, by simpa [queue] using head⟩

/-- The victim has left while the SHED is under way: the notice is cancelled in its place and the outcome is held. -/
theorem holding_finish (phase : u.sb.claim.phase = .asking) (outcome : u.sb.claim.outcome = none) (gone : u.victimGone = true)
    (attempt : u.li.attempt.isSome = true) (queue : u.tq.queue = x :: q) (shed : x.notice.isShed = true) (dirty : u.sb.dirty = true) :
    Holding { x with cancelled := true } q u.finish := by
  have cuts := cutting_checked u
  obtain ⟨l, tail, -⟩ := cuts.tail
  have released : u.checked.released := cuts.released (.inr ⟨.inr ⟨phase, outcome⟩, gone⟩)
  have asking : u.checked.sb.claim.phase = .asking := by rw [cuts.sameClaim, phase]
  have empty : u.checked.sb.claim.outcome = none := by rw [cuts.sameClaim, outcome]
  have left : u.checked.victimGone = true := by
    rcases released with ⟨other, -⟩ | ⟨-, left⟩
    · rw [asking] at other
      cases other
    · exact left
  have waits : u.checked.tq.queue = x :: (q ++ l) := by rw [tail, queue, List.cons_append]
  have report : u.checked.report = { u.checked.relisted with
      sb := { u.checked.relisted.sb with claim := { u.checked.relisted.sb.claim with outcome := some .reResolve } }
      tq := { u.checked.tq with queue := { x with cancelled := true } :: (q ++ l) } } := by
    have leaves : u.checked.relisted.victimLeaves = { u.checked.relisted with
        sb := { u.checked.relisted.sb with claim := { u.checked.relisted.sb.claim with outcome := some .reResolve } }
        tq := { u.checked.tq with queue := { x with cancelled := true } :: (q ++ l) } } := by
      have phase : u.checked.relisted.sb.claim.phase = .asking := asking
      have out : u.checked.relisted.sb.claim.outcome = none := empty
      have line : u.checked.li.attempt.isSome = true := by rw [cuts.li, attempt]
      unfold State.victimLeaves
      rw [phase, out]
      simp [State.cancel, State.sendingOf, State.modHead, State.relisted, State.holdsNotice, line, waits, shed]
    rw [report_eq, asking, leaves]
    exact if_pos left
  rw [finish_eq, settleLaps, ends_lap 15 dirty, bookSteps_eq, report]
  exact holding_ends 15 ⟨asking, rfl, l, rfl⟩

/-! ### The cuts of an event's overdraw check stand at its end (R54) -/

/-- A bed at rest that does not wait, and that the claim can open no cycle of, is as it was at the end of the event. -/
theorem aside_ends (n : Nat) (spares : s.sb.claim.spares b) (calm : (s.bed b).state.calm) (rests : (s.bed b).state ≠ .waiting) :
    Aside b s (s.ends n) := by
  obtain ⟨u, worked, -, -, ends⟩ := ends_work n s
  have aside := worked.calm b spares calm
  have same {v : State} (alerts : AfterAlerts v (s.ends n)) : Aside b v (s.ends n) := aside_same (by rw [alerts.sl]) (by rw [alerts.bc]) alerts.vd
  rcases ends with alerts | alerts
  · exact aside.trans (same alerts)
  · have offers := offered_weighOccasion u
    have bed : u.weighOccasion.bed b = u.bed b := (offers.beds b).of_not_waiting (by rw [aside.bed]; exact rests)
    have valve : Aside b u u.weighOccasion := ⟨offers.setupOf b, bed, by rw [State.valve, offers.vd]; rfl,
      fun e => by rwa [State.queued, offers.vd], fun e => by rwa [State.pulsing, offers.vd], by rw [State.channelOf, offers.vd]; rfl⟩
    exact (aside.trans valve).trans (same alerts)

theorem aside_cutOver {e : Entry} (other : e.station ≠ s.sl.own ∨ bedOf e.bed ≠ some b) : Aside b s (s.cutOver e) := by
  unfold State.cutOver
  split
  · rename_i own
    split
    · rename_i d bed
      refine aside_cut (fun same => ?_) .overdraw s
      rw [bed, same] at other
      exact other.elim (fun ne => ne own) fun ne => ne rfl
    · exact .refl ..
  · exact .refl ..

theorem cutting_overs (l : List Entry) (s : State) : Cutting s (l.foldl (fun s e => s.cutOver e) s) := by
  induction l generalizing s with
  | nil => exact .refl s
  | cons e l ih => exact (cutting_cutOver e s).trans (ih _)

theorem aside_clearSaturated (b : BedId) (s : State) : Aside b s s.clearSaturated := by
  obtain ⟨x, eq⟩ := clearSaturated_eq s
  rw [eq]
  exact aside_same rfl rfl rfl

section Overs

variable {r : Run} (cycling : (s.bed b).state.cycling = true) (run : (s.bed b).run = some r) (unshut : ¬ s.shutsAtOnce b)

include cycling run unshut

/-- A pass of cuts that comes to a bed's entry ends its cycle, with no other bed's help. -/
theorem overs_cut {l : List Entry} {o : Entry} (m : o ∈ l) (own : o.station = s.sl.own) (bed : bedOf o.bed = some b) :
    CycleEnded b r .overdraw s (l.foldl (fun s e => s.cutOver e) s) := by
  induction l generalizing s with
  | nil => cases m
  | cons e l ih =>
    rw [List.foldl_cons]
    by_cases here : e.station = s.sl.own ∧ bedOf e.bed = some b
    · have cuts : s.cutOver e = s.endCycle b .overdraw := by
        rw [Overdraw.cutOver_of_own here.1 here.2]
        exact if_pos cycling
      have ended := cycleEnded_endCycle (c := .overdraw) ⟨nofun, nofun, nofun⟩ run unshut
      rw [← cuts] at ended
      exact cycleEnded_after ended ((cutting_overs l _).rests b (by rw [ended.state]; rfl))
    · have aside := aside_cutOver (b := b) (s := s) (not_and_or.1 here)
      have rest : o ∈ l := (List.mem_cons.1 m).resolve_left fun same => here (same ▸ ⟨own, bed⟩)
      have sl := (cutting_cutOver e s).sl
      exact cycleEnded_before aside (ih (aside.bed ▸ cycling) (aside.bed ▸ run) (aside.unshut unshut) rest (by rw [sl, own]))

theorem overdraw_cut {o : Entry} (cut : s.overdrawn o b) : CycleEnded b r .overdraw s s.checked := by
  have marks : Aside b s { s with sb.dirty := false } := aside_same rfl rfl rfl
  have ended := overs_cut (s := { s with sb.dirty := false }) cycling run unshut cut.1 cut.2.1 cut.2.2
  exact cycleEnded_after (cycleEnded_before marks ended) (aside_clearSaturated b _)

/-- The cut stands at the end of the event, whatever becomes of a claim of another bed. -/
theorem overdraw_ends (n : Nat) (dirty : s.sb.dirty = true) (spares : s.sb.claim.spares b) {o : Entry} (cut : s.overdrawn o b) :
    CycleEnded b r .overdraw s (s.ends (n + 1)) := by
  have ended := overdraw_cut cycling run unshut cut
  have checks := cutting_checked s
  have calm : (s.checked.bed b).state.calm := by rw [ended.state]; exact ⟨rfl, nofun⟩
  have work := (worked_report s.checked).trans (worked_noteOccasion _)
  have reports := work.calm b (checks.claim.spares b spares) calm
  have ends := aside_ends n (s := s.bookSteps) (work.claim.spares b (checks.claim.spares b spares)) (reports.bed ▸ calm)
    (by rw [bookSteps_eq, reports.bed, ended.state]; nofun)
  rw [ends_lap n dirty]
  exact cycleEnded_after ended (reports.trans ends)

end Overs

/-- In a sound state the claim opens no bed that is in a cycle. -/
theorem spares_of_cycling (sound : ClaimSound s) (cycling : (s.bed b).state.cycling = true) : s.sb.claim.spares b := by
  cases live : s.sb.claim.live with
  | false => exact .inr (.inl live)
  | true =>
    refine .inl fun same => ?_
    have held := sound.holds live
    rw [same] at held
    simp [held, BedState.cycling] at cycling

end Sys2Proof.Machine

/-! PROOFS. DROP, FREE and COMMIT of a peer, and the entries of peers that expire or lapse, with a claim that waits for them (R42,
R45, R46, R52, R58). -/

namespace Sys2Proof.PeerEntries

open Sys2Proof.Machine FramesAndOrders

variable {s t u a : State} {src st bd : Nat}

/-! ### The state in which a notice of a peer is taken -/

theorem frameTaken_li (src len : Nat) (s : State) : (s.frameTaken src len).li = { (s.frameOver len).li with yielding := false } := by
  have refreshed (s : State) : (s.refresh src).li = s.li := by
    unfold State.refresh
    split <;> rfl
  unfold State.frameTaken
  dsimp only
  split
  · exact refreshed _
  · rfl

@[simp] theorem frameTaken_lossSince (src len : Nat) (s : State) : (s.frameTaken src len).li.lossSince = s.li.lossSince := by
  rw [frameTaken_li]; rfl

@[simp] theorem frameTaken_attempt (src len : Nat) (s : State) : (s.frameTaken src len).li.attempt = s.li.attempt := by
  rw [frameTaken_li]; rfl

@[simp] theorem frameTaken_budget (src len : Nat) (s : State) : (s.frameTaken src len).sb.budget = s.sb.budget := by
  rw [frameTaken_rest]

@[simp] theorem frameTaken_lastFree (src len : Nat) (s : State) : (s.frameTaken src len).sb.lastFree = s.sb.lastFree := by
  rw [frameTaken_rest]

@[simp] theorem frameTaken_hasEntry (src len st bd : Nat) (s : State) : (s.frameTaken src len).hasEntry st bd = s.hasEntry st bd := by
  rw [frameTaken_rest]; rfl

@[simp] theorem frameTaken_entry (src len st bd : Nat) (s : State) : (s.frameTaken src len).entry st bd = s.entry st bd := by
  rw [frameTaken_rest]; rfl

/-- A station that receives transmits nothing. -/
theorem attempt_none (h : s.receiving = true) : s.li.attempt = none := by
  simp only [State.receiving, Bool.and_eq_true, Option.isNone_iff_eq_none] at h
  exact h.1.2

theorem sendingOf_idle (p : Notice → Bool) (h : s.li.attempt = none) : s.sendingOf p = false := by
  simp [State.sendingOf, h]

/-- The state of a frame's end with another book is that of the statements, for a resolution. -/
theorem forClaim_frame (src len n : Nat) (book : List Entry) (s : State) (d : Bool) :
    ForClaim { s with now := n, sb.book := book } { s.frameTaken src len with sb.book := book, sb.dirty := d } := by
  refine ⟨frameTaken_own .., ?_, ?_, frameTaken_vd .., frameTaken_lossSince .., rfl, frameTaken_budget .., ?_, ?_, ?_, ?_, ?_, ?_⟩
  · exact congrArg _ (frameTaken_bc ..)
  · exact congrArg _ (frameTaken_bc ..)
  · exact congrArg Claim.bed (frameTaken_claim ..)
  · exact congrArg Claim.flow (frameTaken_claim ..)
  · exact congrArg Claim.urgency (frameTaken_claim ..)
  · exact congrArg Claim.age (frameTaken_claim ..)
  · exact congrArg Claim.shedMade (frameTaken_claim ..)
  · exact congrArg (fun c => seniorSum c book) (frameTaken_claim ..)

/-- What a removal leaves for the claim that waits for the entry. -/
theorem removal_resolves (hears : s.receiving = true) (sl : a.sl = s.sl) (claim : a.sb.claim = s.sb.claim)
    (like : ForClaim a u) (tq : u.tq = s.tq) (attempt : u.li.attempt = s.li.attempt) (same : u.sb.claim = s.sb.claim)
    (book : u.sb.book = removeEntry st bd s.sb.book) (dirty : u.sb.dirty = true) (sound : ClaimSound s) (awaits : s.awaits st bd) :
    u.finish.pastResolving ∧ (a.cutsNothing → Resolved a u.finish)
      ∧ (s.sb.claim.shedMade = true → ∀ q ∈ u.finish.tq.queue, q.notice.isShed = false) := by
  have gone : u.hasEntry st bd = false := hasEntry_eq_false.2 fun e m => (mem_removeEntry.1 (book ▸ m)).2
  have released := released_left awaits same gone fun e m => (mem_removeEntry.1 (book ▸ m)).1
  exact released_finish sound same tq released (fun _ => sendingOf_idle _ (attempt.trans (attempt_none hears))) dirty like sl claim
    (live_of_awaits awaits)

theorem remove_budget (st bd : Nat) (s : State) : (s.remove st bd).sb.budget = s.sb.budget := by
  unfold State.remove
  split <;> rfl

theorem remove_lastFree (st bd : Nat) (s : State) : (s.remove st bd).sb.lastFree = s.sb.lastFree := by
  unfold State.remove
  split <;> rfl

/-- DROP and FREE, but for the courtesy delay that FREE starts (R46, R65). -/
theorem removal_finish {tgt : Nat} (hears : s.hears src tgt) (removed : u.sb.book = ((s.frameTaken src 1).remove src bd).sb.book)
    (mark : u.sb.dirty = ((s.frameTaken src 1).remove src bd).sb.dirty) (claim : u.sb.claim = s.sb.claim) (budget : u.sb.budget = s.sb.budget)
    (rest : u = { s.frameTaken src 1 with sb := u.sb }) :
    u.finish.now = s.frameEnd 1 ∧ u.finish.hasEntry src bd = false ∧ u.finish.sb.lastFree = u.sb.lastFree
      ∧ (ClaimSound s → s.hasEntry src bd = true → s.awaits src bd →
          let after := { s with now := u.finish.now, sb.book := removeEntry src bd s.sb.book }
          u.finish.pastResolving ∧ (after.cutsNothing → Resolved after u.finish)
            ∧ (s.sb.claim.shedMade = true → ∀ q ∈ u.finish.tq.queue, q.notice.isShed = false)) := by
  have inside := inside_finish u
  have now : u.now = s.frameEnd 1 := by rw [rest, ← frameTaken_now]
  refine ⟨by rw [inside.now, now], Overdraw.hasEntry_of_inside inside ?_, inside.lastFree, fun sound has awaits => ?_⟩
  · have gone := Overdraw.hasEntry_remove src bd (s.frameTaken src 1)
    rw [State.hasEntry, removed]
    exact gone
  · have removes : (s.frameTaken src 1).remove src bd = (s.frameTaken src 1).putBook (removeEntry src bd s.sb.book) := by
      refine (if_pos (by rw [frameTaken_hasEntry, has])).trans ?_
      rw [frameTaken_book]
    have book : u.sb.book = removeEntry src bd s.sb.book := by rw [removed, removes]; rfl
    have dirty : u.sb.dirty = true := by rw [mark, removes]; rfl
    have tq : u.tq = s.tq := by rw [rest, frameTaken_tq]
    have attempt : u.li.attempt = s.li.attempt := by rw [rest, frameTaken_attempt]
    refine removal_resolves hears.1 rfl rfl ⟨?_, ?_, ?_, ?_, ?_, book, ?_, ?_, ?_, ?_, ?_, ?_, ?_⟩ tq attempt claim book dirty sound awaits
    · rw [rest, frameTaken_own]
    · rw [rest, frameTaken_bc]
    · rw [rest, frameTaken_bc]
    · rw [rest, frameTaken_vd]
    · rw [rest, frameTaken_lossSince]
    · exact budget
    all_goals rw [claim]
    rw [book]

/-- Settles O19. -/
theorem peerDropAndFreeRemoveTheEntry : Obligations.PeerDropAndFreeRemoveTheEntry := by
  intro src tgt bed s hears goes
  have rest := Overdraw.remove_rest src bed (s.frameTaken src 1)
  have claim : ((s.frameTaken src 1).remove src bed).sb.claim = s.sb.claim := by rw [remove_claim, frameTaken_claim]
  have budget : ((s.frameTaken src 1).remove src bed).sb.budget = s.sb.budget := by rw [remove_budget, frameTaken_budget]
  refine ⟨fun fits => ⟨_, rfl, ?_⟩, fun fits => ⟨_, rfl, ?_⟩⟩
  · have range : inRange 0 7 bed = true := by simp [inRange, fits]
    rw [range, hand_hears src tgt 4 1 hears]
    have last : ((s.frameTaken src 1).remove src bed).sb.lastFree = s.sb.lastFree := by rw [remove_lastFree, frameTaken_lastFree]
    rw [← last]
    exact removal_finish hears rfl rfl claim budget rest
  · have range : inRange 0 8 bed = true := by simp [inRange, fits]
    rw [range, hand_hears src tgt 5 1 hears]
    have moment : ((s.frameTaken src 1).remove src bed).now = s.frameEnd 1 := by rw [rest, frameTaken_now]
    have last : (State.takeFree src bed (s.frameTaken src 1)).sb.lastFree = some (s.frameEnd 1) := congrArg some moment
    obtain ⟨now, gone, free, resolves⟩ := removal_finish (u := State.takeFree src bed (s.frameTaken src 1)) hears rfl rfl claim budget
      (congrArg (fun v : State => { v with sb := (State.takeFree src bed (s.frameTaken src 1)).sb }) rest)
    exact ⟨now, gone, by rw [free, last, now], resolves⟩

/-! ### COMMIT (R45) -/

/-- A row that is changed is found changed. -/
theorem row_modRow {f : Row → Row} (keeps : ∀ r, (f r).station = r.station) (src : Nat) (s : State) : (s.modRow src f).row src = (s.row src).map f := by
  unfold State.row State.modRow
  induction s.sb.presence with
  | nil => rfl
  | cons r l ih =>
    by_cases here : r.station = src
    · simp [here, keeps]
    · simpa [here] using ih

/-- The row that a frame's sender has from then on (R41). -/
theorem row_refresh (src : Nat) (s : State) : (s.refresh src).row src
    = some (match s.row src with | some r => { r with heard := s.now } | none => ⟨src, s.now, none, false, none⟩) := by
  unfold State.refresh
  split
  · rename_i known
    have row := row_modRow (f := fun r => { r with heard := s.now }) (fun _ => rfl) src s
    obtain ⟨r, found⟩ : ∃ r, s.row src = some r := Option.isSome_iff_exists.1 (List.find?_isSome.2 (by simpa using known))
    rw [found] at row ⊢
    exact row
  · rename_i unknown
    have absent : s.row src = none := List.find?_eq_none.2 (by simpa using unknown)
    rw [absent]
    exact List.find?_append.trans (by rw [show s.sb.presence.find? _ = none from absent]; simp)

theorem row_frameTaken (len : Nat) (peer : 1 ≤ src ∧ src ≤ 15) (s : State) : (s.frameTaken src len).row src
    = some (match s.row src with | some r => { r with heard := s.frameEnd len } | none => ⟨src, s.frameEnd len, none, false, none⟩) := by
  have range : inRange 1 15 src = true := by simp [inRange, peer]
  unfold State.frameTaken
  dsimp only
  rw [if_pos range]
  exact row_refresh src _

/-- A refreshed row keeps its last claim; a new one has none. -/
theorem lastClaimFor_frameTaken (len bd : Nat) (peer : 1 ≤ src ∧ src ≤ 15) (s : State) :
    (s.frameTaken src len).lastClaimFor src bd = s.lastClaimFor src bd := by
  unfold State.lastClaimFor
  rw [row_frameTaken len peer]
  cases s.row src <;> rfl

theorem updateEntry_committed {st bd : Nat} {f : Entry → Entry} {book : List Entry} (commits : ∀ e, (f e).committed = true) {e : Entry}
    (m : e ∈ updateEntry st bd f book) (out : e.committed = false) : e ∈ book ∧ e.named st bd = false := by
  obtain ⟨x, i, eq⟩ := List.mem_map.1 m
  split at eq
  · rw [← eq, commits] at out
    cases out
  · rename_i other
    subst eq
    exact ⟨i, by simpa using other⟩

theorem changeEntry_putBook {f : Entry → Entry} {e : Entry} (found : s.entry st bd = some e) (news : e.sameClaim (f e) = false) :
    s.changeEntry st bd f = s.putBook (updateEntry st bd f s.sb.book) := by
  refine if_neg fun all => ?_
  have := List.all_eq_true.1 all e (List.mem_of_find?_eq_some found)
  have named : e.named st bd = true := List.find?_some (p := fun e : Entry => e.named st bd) found
  simp [named, news] at this

theorem hasEntry_of_entry {e : Entry} (found : s.entry st bd = some e) : s.hasEntry st bd = true := by rw [hasEntry_entry, found]; rfl

/-- A COMMIT of a pending entry, as a change of the book. -/
theorem takeCommit_pending {e : Entry} (found : s.entry src bd = some e) (pending : e.committed = false) :
    s.takeCommit src bd = s.putBook (updateEntry src bd (fun e => { e with committed := true, heard := s.now }) s.sb.book) :=
  (if_pos (hasEntry_of_entry found)).trans (changeEntry_putBook found (by simp [Entry.sameClaim, pending]))

theorem changeEntry_now (st bd : Nat) (f : Entry → Entry) (s : State) : (s.changeEntry st bd f).now = s.now := by
  unfold State.changeEntry
  dsimp only
  split <;> rfl

theorem insert_now (e : Entry) (s : State) : (s.insert e).now = s.now := by
  unfold State.insert
  split
  · rfl
  · split
    · rfl
    · unfold State.skipInsertion
      rw [State.setPending_rest]

theorem takeCommit_now (src bd : Nat) (s : State) : (s.takeCommit src bd).now = s.now := by
  unfold State.takeCommit
  split
  · exact changeEntry_now ..
  · split <;> exact insert_now ..

theorem changeEntry_own (st bd : Nat) (f : Entry → Entry) (s : State) : (s.changeEntry st bd f).sl = s.sl := by
  unfold State.changeEntry
  dsimp only
  split <;> rfl

theorem insert_own (e : Entry) (s : State) : (s.insert e).sl = s.sl := by
  unfold State.insert
  split
  · rfl
  · split
    · rfl
    · unfold State.skipInsertion
      rw [State.setPending_rest]

theorem takeCommit_own (src bd : Nat) (s : State) : (s.takeCommit src bd).sl = s.sl := by
  unfold State.takeCommit
  split
  · exact changeEntry_own ..
  · split <;> exact insert_own ..

/-- What a COMMIT of a pending entry brings about: the cuts of the check, and the resolution of a claim it was the last senior of. -/
theorem commit_reports {len n : Nat} {book : List Entry} (receiving : s.receiving = true) (sound : ClaimSound s)
    (committed : ∀ e ∈ book, e.committed = false → e ∈ s.sb.book ∧ e.named src bd = false) :
    let after := { s with now := n, sb.book := book }
    let t := ((s.frameTaken src len).putBook book).finish
    (∀ o b r, after.overdrawn o b → (s.bed b).state.cycling = true → (s.bed b).run = some r → ¬ s.shutsAtOnce b → CycleEnded b r .overdraw s t)
      ∧ (s.sb.claim.phase = .resolving → (∀ p ∈ s.liveSeniors, p = (src, bd)) → t.pastResolving ∧ (after.cutsNothing → Resolved after t)) := by
  intro after t
  have like : ForClaim after ((s.frameTaken src len).putBook book) := forClaim_frame src len n book s true
  have before (b : BedId) : Aside b s ((s.frameTaken src len).putBook book) :=
    aside_same (congrArg SetupLoader.setup (frameTaken_own ..)) (congrArg BedController.beds (frameTaken_bc ..)) (frameTaken_vd ..)
  have claim : ((s.frameTaken src len).putBook book).sb.claim = s.sb.claim := frameTaken_claim ..
  have tq : ((s.frameTaken src len).putBook book).tq = s.tq := frameTaken_tq ..
  have attempt : ((s.frameTaken src len).putBook book).li.attempt = none := (frameTaken_attempt ..).trans (attempt_none receiving)
  refine ⟨fun o b r cut cycling run unshut => ?_, fun resolving alone => ?_⟩
  · have here : State.overdrawn o b ((s.frameTaken src len).putBook book) := by
      obtain ⟨m, own, bed⟩ := cut
      exact ⟨by rw [like.budget, like.book]; exact m, by rw [like.sl]; exact own, bed⟩
    have ended := overdraw_ends (s := (s.frameTaken src len).putBook book) (b := b) (r := r) (by rw [(before b).bed, cycling])
      (by rw [(before b).bed, run]) ((before b).unshut unshut) 15 rfl (by rw [claim]; exact spares_of_cycling sound cycling) here
    exact cycleEnded_before (before b) ended
  · have released := released_seniors resolving alone claim committed
    obtain ⟨past, resolved, -⟩ := released_finish sound claim tq released (fun _ => sendingOf_idle _ attempt) rfl like rfl rfl
      (by rw [Claim.live, resolving])
    exact ⟨past, resolved⟩

/-- Settles O18. -/
theorem peerCommitCommitsTheEntry : Obligations.PeerCommitCommitsTheEntry := by
  intro src tgt bed s hears fits
  have range : inRange 0 8 bed = true := by simp [inRange, fits]
  have other : src ≠ s.sl.own := hears.2.2.2.1
  refine ⟨_, rfl, ?_⟩
  rw [range, hand_hears src tgt 3 1 hears]
  have inside := inside_finish (State.takeCommit src bed (s.frameTaken src 1))
  have now := inside.now.trans ((takeCommit_now ..).trans (frameTaken_now ..))
  have entry := inside.entry src bed (by rw [takeCommit_own, frameTaken_own]; exact other)
  refine ⟨now, fun e found => ?_, fun absent room => ?_, fun e sound found pending => ?_⟩
  · rw [entry, now]
    have has : (s.frameTaken src 1).hasEntry src bed = true := by rw [frameTaken_hasEntry]; exact hasEntry_of_entry found
    rw [State.takeCommit, if_pos has, frameTaken_now]
    refine (entry_changeEntry _ _ _ ?_ _).trans ?_
    · exact fun _ => ⟨rfl, rfl⟩
    · rw [frameTaken_entry, found]
      rfl
  · rw [entry, now]
    have has : (s.frameTaken src 1).hasEntry src bed = false := by rw [frameTaken_hasEntry, hasEntry_entry, absent]; rfl
    rw [State.takeCommit, if_neg (by simp [has]), lastClaimFor_frameTaken 1 bed ⟨hears.2.1, hears.2.2.1⟩, frameTaken_now]
    cases s.lastClaimFor src bed with
    | none => exact entry_insert _ _ has (by rw [frameTaken_book]; exact room)
    | some c => exact entry_insert _ _ has (by rw [frameTaken_book]; exact room)
  · have takes := takeCommit_pending (s := s.frameTaken src 1) (src := src) (bd := bed) (by rw [frameTaken_entry]; exact found) pending
    rw [frameTaken_book, frameTaken_now] at takes
    rw [now, takes]
    exact commit_reports hears.1 sound fun e m out => updateEntry_committed (fun _ => rfl) m out

/-! ### Rows that expire and entries that lapse (R42, R52) -/

/-- A station past LOADING takes its own events. -/
theorem peers_filter {p : Entry → Bool} (h : u.sb.book = s.sb.book.filter p) (sl : u.sl = s.sl) : u.peers = s.peers.filter p := by
  rw [State.peers, State.peers, h, sl, List.filter_filter, List.filter_filter]
  exact List.filter_congr fun e _ => Bool.and_comm ..

/-- What is left of the claim that waits for entries that leave by themselves. -/
theorem expiry_resolves (like : ForClaim a u) (sl : a.sl = s.sl) (same : a.sb.claim = s.sb.claim) (tq : u.tq = s.tq) (li : u.li = s.li)
    (claim : u.sb.claim = s.sb.claim) (gone : u.hasEntry st bd = false) (sub : ∀ e ∈ u.sb.book, e ∈ s.sb.book) (dirty : u.sb.dirty = true)
    (sound : ClaimSound s) (awaits : s.awaits st bd) :
    (s.sb.claim.phase ≠ .asking ∨ s.sendingOf Notice.isShed = false →
        u.finish.pastResolving ∧ (a.cutsNothing → Resolved a u.finish))
      ∧ (s.sb.claim.phase = .asking → s.sendingOf Notice.isShed = true →
        u.finish.sb.claim.phase = .asking ∧ u.finish.sb.claim.outcome = some .reResolve
          ∧ ∃ h q l, s.tq.queue = h :: q ∧ u.finish.tq.queue = { h with cancelled := true } :: (q ++ l)) := by
  have sending : u.sendingOf Notice.isShed = s.sendingOf Notice.isShed := by rw [State.sendingOf, tq, li]; rfl
  have released := released_left awaits claim gone sub
  refine ⟨fun still => ?_, fun asking busy => ?_⟩
  · have idle (e : u.sb.claim.phase = .asking) : u.sendingOf Notice.isShed = false := by
      rw [sending]
      exact still.resolve_left (not_not.2 (claim ▸ e))
    obtain ⟨past, resolved, -⟩ := released_finish sound claim tq released idle dirty like sl same (live_of_awaits awaits)
    exact ⟨past, resolved⟩
  · obtain ⟨attempt, x, q, queue, shed⟩ := sending_head busy
    have open' : u.sb.claim.outcome = none ∧ u.victimGone = true := by
      rcases released with ⟨phase, -⟩ | ⟨phase | ⟨-, outcome⟩, left⟩
      · simp [claim, asking] at phase
      · simp [claim, asking] at phase
      · exact ⟨outcome, left⟩
    have last := holding_finish (by rw [claim, asking]) open'.1 open'.2 (by rw [li, attempt]) (by rw [tq, queue]) shed dirty
    obtain ⟨l, waits⟩ := last.queue
    exact ⟨last.phase, last.outcome, x, q, l, queue, waits⟩

theorem recomputeBudget_eq (s : State) : ∃ x, s.recomputeBudget = { s with
    sb := { s.sb with budget := effectiveBudget s.sl.setup.budget s.sb.presence, dirty := x } } ∧ (s.sb.dirty = true → x = true) := by
  unfold State.recomputeBudget
  dsimp only
  split
  · rename_i same
    exact ⟨s.sb.dirty, by rw [same], id⟩
  · exact ⟨true, rfl, fun _ => rfl⟩

/-- An expiry, as its book, its rows, its budget and its mark. -/
theorem expire_eq (st : Nat) (s : State) : ∃ x, s.expire st = { s with sb := { s.sb with
      book := s.sb.book.filter (fun e => e.station != st)
      presence := s.sb.presence.filter fun r => r.station != st
      budget := effectiveBudget s.sl.setup.budget (s.sb.presence.filter fun r => r.station != st)
      dirty := x } } ∧ ((∃ e ∈ s.sb.book, e.station = st) → x = true) := by
  unfold State.expire
  dsimp only
  split
  · rename_i same
    have kept : s.sb.book.filter (fun e => e.station != st) = s.sb.book := List.filter_eq_self.2 (List.length_filter_eq_length_iff.1 same)
    obtain ⟨x, eq, -⟩ := recomputeBudget_eq { s with sb := { s.sb with presence := s.sb.presence.filter fun r => r.station != st } }
    refine ⟨x, by rw [eq, kept], fun ⟨e, m, here⟩ => ?_⟩
    have := List.filter_eq_self.1 kept e m
    simp [here] at this
  · obtain ⟨x, eq, dirty⟩ := recomputeBudget_eq (State.putBook (s.sb.book.filter fun e => e.station != st)
      { s with sb := { s.sb with presence := s.sb.presence.filter fun r => r.station != st } })
    exact ⟨x, eq, fun _ => dirty rfl⟩

/-- Settles O32. -/
theorem peersAndPendingEntriesExpire : Obligations.PeersAndPendingEntriesExpire := by
  intro st bd s live other goes
  refine ⟨fun r found => ?_, fun e found pending => ?_⟩
  · have run : exec (.peerExpiry st) s = .next ((s.advanceTo (r.heard + 30 * 12000)).expire st).finish := by
      have found : s.sb.presence.find? (fun r => r.station == st) = some r := found
      simp only [exec, execPeerExpiry, State.take, live, found, other, if_true, if_false]
      rfl
    obtain ⟨x, eq, dirty⟩ := expire_eq st (s.advanceTo (r.heard + 30 * 12000))
    refine ⟨_, run, ?_⟩
    generalize (s.advanceTo (r.heard + 30 * 12000)).expire st = u at eq
    have inside := inside_finish u
    have sl : u.sl = s.sl := by rw [eq]; rfl
    have book : u.sb.book = s.sb.book.filter fun e => e.station != st := by rw [eq]; rfl
    have presence : u.sb.presence = s.sb.presence.filter fun r => r.station != st := by rw [eq]; rfl
    have budget : u.sb.budget = effectiveBudget s.sl.setup.budget u.sb.presence := by rw [eq]; rfl
    refine ⟨inside.now.trans (by rw [eq]; rfl), ?_, ?_, inside.presence.trans presence, ?_, inside.li.trans (by rw [eq]; rfl),
      inside.pw.trans (by rw [eq]; rfl), inside.sl.trans sl, fun sound has awaits => ?_⟩
    · rw [State.row, inside.presence, presence]
      exact List.find?_eq_none.2 fun r m => by simpa using (List.mem_filter.1 m).2
    · rw [inside.peers]
      exact peers_filter book sl
    · rw [inside.budget, inside.presence, budget]
    · have gone : u.hasEntry st bd = false := hasEntry_eq_false.2 fun e m => by
        rw [book] at m
        have := (List.mem_filter.1 m).2
        simp only [bne_iff_ne] at this
        simp [Entry.named, this]
      have entered : ∃ e ∈ s.sb.book, e.station = st := by
        obtain ⟨e, m, named⟩ := List.any_eq_true.1 has
        simp only [Entry.named, Bool.and_eq_true, beq_iff_eq] at named
        exact ⟨e, m, named.1⟩
      refine expiry_resolves ⟨sl, ?_, ?_, ?_, ?_, book, inside.budget.symm, ?_, ?_, ?_, ?_, ?_, ?_⟩ rfl rfl ?_ ?_ ?_ gone
        (fun e m => List.mem_of_mem_filter (book ▸ m)) (by rw [eq]; exact dirty entered) sound awaits
      all_goals rw [eq]; rfl
  · have run : exec (.pendingLapse st bd) s = .next ((s.advanceTo (e.heard + 25 * 12000)).remove st bd).finish := by
      simp only [exec, execPendingLapse, State.take, live, found, other, pending, if_true, false_or]
      rfl
    have eq : (s.advanceTo (e.heard + 25 * 12000)).remove st bd = (s.advanceTo (e.heard + 25 * 12000)).putBook (removeEntry st bd s.sb.book) :=
      if_pos (hasEntry_of_entry found)
    refine ⟨_, run, ?_⟩
    generalize (s.advanceTo (e.heard + 25 * 12000)).remove st bd = u at eq
    have inside := inside_finish u
    have sl : u.sl = s.sl := by rw [eq]; rfl
    have book : u.sb.book = removeEntry st bd s.sb.book := by rw [eq]; rfl
    refine ⟨inside.now.trans (by rw [eq]; rfl), ?_, inside.presence.trans (by rw [eq]; rfl), inside.budget.trans (by rw [eq]; rfl),
      inside.li.trans (by rw [eq]; rfl), inside.pw.trans (by rw [eq]; rfl), inside.sl.trans sl, fun sound has awaits => ?_⟩
    · rw [inside.peers]
      exact peers_filter book sl
    · have gone : u.hasEntry st bd = false := hasEntry_eq_false.2 fun e m => (mem_removeEntry.1 (book ▸ m)).2
      refine expiry_resolves ⟨sl, ?_, ?_, ?_, ?_, book, ?_, ?_, ?_, ?_, ?_, ?_, ?_⟩ rfl rfl ?_ ?_ ?_ gone
        (fun e m => (mem_removeEntry.1 (book ▸ m)).1) ?_ sound awaits
      all_goals rw [eq]; rfl

end Sys2Proof.PeerEntries

/-! PROOFS. CLAIM, COMMIT, DROP, FREE and TALLY of a peer: what they write in the book, and what they leave (R37, R41 to R48). -/

namespace Sys2Proof.PeerNotices

open Sys2Proof.Machine FramesAndOrders PeerEntries

variable {s t u : State} {src st bd : Nat} {p : Entry → Bool}

/-! ### What a notice of a peer leaves alone (R37, R43) -/

/-- The peers' entries that `p` picks, weather, setup, number and volumes are as they were. -/
structure Unread (p : Entry → Bool) (s t : State) : Prop where
  peers : t.peers.filter p = s.peers.filter p
  pw : t.pw = s.pw
  setup : t.sl.setup = s.sl.setup
  own : t.sl.own = s.sl.own
  core : ∀ b, (t.bed b).core = (s.bed b).core

namespace Unread

theorem refl (s : State) : Unread p s s := ⟨rfl, rfl, rfl, rfl, fun _ => rfl⟩

theorem trans (h : Unread p s t) (k : Unread p t u) : Unread p s u :=
  ⟨k.peers.trans h.peers, k.pw.trans h.pw, k.setup.trans h.setup, k.own.trans h.own, fun b => (k.core b).trans (h.core b)⟩

end Unread

theorem unread_inside (h : Inside s t) : Unread p s t := ⟨by rw [h.peers], h.pw, by rw [h.sl], by rw [h.sl], h.core⟩

/-- A change of the book and of what no statement here reads. -/
theorem unread_book (book : t.sb.book.filter p = s.sb.book.filter p) (pw : t.pw = s.pw) (setup : t.sl.setup = s.sl.setup)
    (own : t.sl.own = s.sl.own) (beds : t.bc.beds = s.bc.beds) : Unread p s t where
  peers := by
    have swap (l : List Entry) : (l.filter fun e => e.station != s.sl.own).filter p = (l.filter p).filter fun e => e.station != s.sl.own := by
      rw [List.filter_filter, List.filter_filter]
      exact List.filter_congr fun e _ => Bool.and_comm ..
    rw [State.peers, State.peers, own, swap, swap, book]
  pw := pw
  setup := setup
  own := own
  core b := by rw [State.bed, beds]; rfl

theorem unread_ite {c : Prop} [Decidable c] (h : Unread p s t) (k : Unread p s u) : Unread p s (if c then t else u) := by
  split
  · exact h
  · exact k

theorem filter_updateEntry {f : Entry → Entry} (skips : ∀ e : Entry, e.named st bd = true → p e = false ∧ p (f e) = false) (book : List Entry) :
    (updateEntry st bd f book).filter p = book.filter p := by
  induction book with
  | nil => rfl
  | cons e l ih =>
    have head : updateEntry st bd f (e :: l) = (if e.named st bd then f e else e) :: updateEntry st bd f l := rfl
    rw [head]
    cases named : e.named st bd with
    | true =>
      obtain ⟨before, after⟩ := skips e named
      simpa [before, after] using ih
    | false =>
      rw [if_neg nofun, List.filter_cons, List.filter_cons, ih]

theorem unread_changeEntry {f : Entry → Entry} (keeps : ∀ e, (f e).station = e.station ∧ (f e).bed = e.bed)
    (skips : ∀ e : Entry, e.named st bd = true → p e = false) (s : State) : Unread p s (s.changeEntry st bd f) := by
  have out (e : Entry) (named : e.named st bd = true) : p e = false ∧ p (f e) = false := by
    obtain ⟨station, bed⟩ := keeps e
    exact ⟨skips e named, skips (f e) (by rw [Entry.named, station, bed]; exact named)⟩
  exact unread_ite (unread_book (filter_updateEntry out _) rfl rfl rfl rfl) (unread_book (filter_updateEntry out _) rfl rfl rfl rfl)

theorem unread_insert {e : Entry} (skips : ∀ x : Entry, x.named e.station e.bed = true → p x = false) (s : State) : Unread p s (s.insert e) := by
  have out : p e = false := skips e (by simp [Entry.named])
  have skipped : Unread p s s.skipInsertion := by
    unfold State.skipInsertion
    rw [State.setPending_rest]
    exact unread_book rfl rfl rfl rfl rfl
  refine unread_ite (unread_book ?_ rfl rfl rfl rfl) (unread_ite (unread_book ?_ rfl rfl rfl rfl) skipped)
  · exact filter_updateEntry (fun x named => ⟨skips x named, out⟩) _
  · exact (List.filter_append ..).trans (by simp [out])

theorem unread_remove (skips : ∀ x : Entry, x.named st bd = true → p x = false) (s : State) : Unread p s (s.remove st bd) := by
  refine unread_ite (unread_book ?_ rfl rfl rfl rfl) (.refl s)
  change (removeEntry st bd s.sb.book).filter p = _
  rw [removeEntry, List.filter_filter]
  refine List.filter_congr fun x _ => ?_
  cases named : x.named st bd with
  | true => simp [skips x named]
  | false => simp

/-! ### The duplicate-number event (R186) -/

theorem unread_station (x : StationState) (s : State) : Unread p s { s with sl.station := x } := ⟨rfl, rfl, rfl, rfl, fun _ => rfl⟩

theorem purge_rest (s : State) : s.purge = { s with tq := s.purge.tq } := by
  unfold State.purge
  dsimp only
  split
  · rfl
  · split <;> rfl

theorem unread_removeDraw (s : State) : Unread p s s.removeDraw := by
  unfold State.removeDraw
  dsimp only
  split
  · have waits : Unread p s (if s.holdsNotice (fun n => decide (n = .free drawBed)) = true then s else s.offer (.free drawBed)) :=
      unread_ite (.refl s) (unread_inside (inside_offer _ rfl s))
    have same : (if s.holdsNotice (fun n => decide (n = .free drawBed)) = true then s else s.offer (.free drawBed)).sl = s.sl := by
      split
      · rfl
      · exact offer_sl ..
    refine waits.trans ?_
    rw [← same]
    exact unread_inside (inside_removeOwn ..)
  · exact .refl s

theorem unread_enterBarred (s : State) : Unread p s s.enterBarred := by
  have bars := unread_inside (p := p) (inside_forBeds State.barBed inside_barBed { s with sl.station := .barred })
  have purged (s : State) : Unread p s s.purge := by
    rw [purge_rest]
    exact unread_book rfl rfl rfl rfl rfl
  exact ((((unread_station .barred s).trans bars).trans (purged _)).trans (unread_removeDraw _)).trans (unread_book rfl rfl rfl rfl rfl)

theorem unread_duplicate (kind : Nat) (s : State) : Unread p s (s.duplicate kind) := by
  have clash (s : State) : Unread p s (s.raiseClash kind) := unread_inside (inside_raise ..)
  unfold State.duplicate
  split
  · exact .refl s
  · exact (clash s).trans ⟨rfl, rfl, rfl, rfl, fun _ => rfl⟩
  · exact (clash s).trans (unread_enterBarred _)
  · exact (clash s).trans (unread_enterBarred _)
  · exact clash s
  · exact unread_inside (inside_setPending ..)

/-! ### A frame (R16) -/

theorem unread_refresh (src : Nat) (s : State) : Unread p s (s.refresh src) :=
  unread_ite (unread_book rfl rfl rfl rfl rfl) (unread_book rfl rfl rfl rfl rfl)

theorem unread_receive {f : State → State} (takes : ∀ s, Unread p s (f s)) (src kind len : Nat) (s : State) :
    Unread p s (s.receive src kind len f) := by
  have ended : Unread p s (s.frameOver len) := unread_book rfl rfl rfl rfl rfl
  have heard (s : State) : Unread p s (s.heard src f) := by
    unfold State.heard
    have calm : Unread p s { s with li.yielding := false } := unread_book rfl rfl rfl rfl rfl
    exact calm.trans ((unread_ite (unread_refresh ..) (.refl _)).trans (takes _))
  refine unread_ite ?_ (.refl s)
  exact (ended.trans (unread_ite (unread_duplicate ..) (heard _))).trans (unread_inside (inside_finish _))

theorem unread_hand {f : State → State} (takes : ∀ s, Unread p s (f s)) (src tgt kind len : Nat) (fits : Bool) (s : State) :
    Unread p s (s.hand src tgt kind len fits f) := by
  refine unread_receive (fun s => unread_ite (unread_ite (takes s) ?_) (.refl s)) ..
  exact unread_book rfl rfl rfl rfl rfl

/-! ### TALLY (R47, R48) -/

theorem unread_recomputeBudget (s : State) : Unread p s s.recomputeBudget := by
  obtain ⟨x, eq, -⟩ := recomputeBudget_eq s
  rw [eq]
  exact unread_book rfl rfl rfl rfl rfl

theorem unread_takeBudget (src : Nat) (y : TallyNotice) (s : State) : Unread p s (s.takeBudget src y) := by
  have rows : Unread p s (s.modRow src fun r => { r with budget := some y.budget, barred := y.barred }) := unread_book rfl rfl rfl rfl rfl
  have budget := rows.trans (unread_recomputeBudget _)
  refine budget.trans (unread_ite ?_ (.refl _))
  exact (unread_inside (inside_setPending ..)).trans (unread_ite (unread_inside (inside_takeFault ..)) (.refl _))

theorem unread_dropUnlisted (src : Nat) (l : List TallyEntry) (s : State) : Unread (fun e => e.station != src) s (s.dropUnlisted src l) := by
  refine unread_ite (.refl s) (unread_book ?_ rfl rfl rfl rfl)
  refine List.filter_filter.trans (List.filter_congr fun e _ => ?_)
  cases e.station != src <;> rfl

theorem unread_takeListing (src : Nat) (y : TallyEntry) (s : State) : Unread (fun e => e.station != src) s (s.takeListing src y) := by
  have others {x : Entry} (named : x.named src y.bed = true) : (x.station != src) = false := by
    simp only [Entry.named, Bool.and_eq_true, beq_iff_eq] at named
    simp [named.1]
  refine unread_ite (unread_changeEntry ?_ ?_ s) (unread_insert ?_ s)
  · exact fun _ => ⟨rfl, rfl⟩
  · exact fun x named => others named
  · exact fun x named => others named

theorem unread_takeTally (src : Nat) (y : TallyNotice) (s : State) : Unread (fun e => e.station != src) s (s.takeTally src y) := by
  have lists (l : List TallyEntry) (s : State) : Unread (fun e => e.station != src) s (l.foldl (fun s e => s.takeListing src e) s) := by
    induction l generalizing s with
    | nil => exact .refl s
    | cons e l ih => exact (unread_takeListing src e s).trans (ih _)
  exact ((unread_takeBudget src y s).trans (unread_dropUnlisted ..)).trans (lists ..)

/-! ### CLAIM, COMMIT, DROP and FREE (R44 to R46) -/

/-- All entries but the named one. -/
theorem named_out (x : Entry) (h : x.named src bd = true) : (!x.named src bd) = false := by rw [h]; rfl

theorem unread_takeClaim (src bd flow : Nat) (u : Urgency) (age : Nat) (s : State) :
    Unread (fun e => !e.named src bd) s (s.takeClaim src bd flow u age) := by
  have rows : Unread (fun e => !e.named src bd) s (s.modRow src fun r => { r with lastClaim := some ⟨bd, flow, u, age⟩ }) :=
    unread_book rfl rfl rfl rfl rfl
  refine rows.trans (unread_ite (unread_changeEntry ?_ ?_ _) (unread_insert ?_ _))
  · exact fun _ => ⟨rfl, rfl⟩
  · exact named_out
  · exact named_out

theorem unread_takeCommit (src bd : Nat) (s : State) : Unread (fun e => !e.named src bd) s (s.takeCommit src bd) := by
  refine unread_ite (unread_changeEntry ?_ ?_ s) ?_
  · exact fun _ => ⟨rfl, rfl⟩
  · exact named_out
  · cases s.lastClaimFor src bd with
    | none => exact unread_insert (e := ⟨src, bd, 1, .normal, true, 0, s.now⟩) named_out s
    | some c => exact unread_insert (e := ⟨src, bd, c.flow, c.urgency, true, c.age, s.now⟩) named_out s

theorem unread_takeFree (src bd : Nat) (s : State) : Unread (fun e => !e.named src bd) s (s.takeFree src bd) :=
  (unread_remove named_out s).trans (unread_book rfl rfl rfl rfl rfl)

/-- What keeps every entry but the named one keeps those of the other stations. -/
theorem Unread.others (h : Unread (fun e => !e.named src bd) s t) : Unread (fun e => e.station != src) s t := by
  refine ⟨?_, h.pw, h.setup, h.own, h.core⟩
  have narrow (l : List Entry) : (l.filter fun e => e.station != src) = (l.filter fun e => !e.named src bd).filter fun e => e.station != src := by
    rw [List.filter_filter]
    refine List.filter_congr fun e _ => ?_
    by_cases here : e.station = src <;> simp [Entry.named, here]
  rw [narrow, h.peers, ← narrow]

/-- Settles O21. -/
theorem peerNoticesTouchTheirOwnEntriesAlone : Obligations.PeerNoticesTouchTheirOwnEntriesAlone := by
  intro i src bed s kind
  suffices ∃ t, exec i s = .next t ∧ Unread (fun e => e.station != src) s t
      ∧ ((∀ tgt y, i ≠ .tallyReceived src tgt y) → Unread (fun e => !e.named src bed) s t) by
    obtain ⟨t, run, h, g⟩ := this
    exact ⟨t, run, h.peers, fun e => (g e).peers, h.pw, h.setup, h.own, h.core⟩
  have one {t : State} (run : exec i s = .next t) (h : Unread (fun e => !e.named src bed) s t) := (⟨t, run, h.others, fun _ => h⟩ :
    ∃ t, exec i s = .next t ∧ Unread (fun e => e.station != src) s t
      ∧ ((∀ tgt y, i ≠ .tallyReceived src tgt y) → Unread (fun e => !e.named src bed) s t))
  rcases kind with ⟨tgt, flow, u, age, rfl⟩ | ⟨tgt, rfl⟩ | ⟨tgt, rfl⟩ | ⟨tgt, rfl⟩ | ⟨tgt, y, rfl⟩
  · exact one rfl (unread_hand (unread_takeClaim src bed flow u age) ..)
  · exact one rfl (unread_hand (unread_takeCommit src bed) ..)
  · exact one rfl (unread_hand (unread_remove named_out) ..)
  · exact one rfl (unread_hand (unread_takeFree src bed) ..)
  · exact ⟨_, rfl, unread_hand (unread_takeTally src y) .., fun other => absurd rfl (other tgt y)⟩

end Sys2Proof.PeerNotices

/-! PROOFS. What CLAIM and TALLY of a peer write (R44, R47, R48). -/

namespace Sys2Proof.PeerNotices

open Sys2Proof.Machine FramesAndOrders PeerEntries

variable {s t u : State} {src st bd : Nat}

/-! ### The alert unit at the end of an event -/

/-- A latch is at the end of its event as the event set it, but for its armed bit (R174). -/
theorem latch_finish {c : Cause} (line : c = .line → s.bc.holds.line = true) (discard : c ≠ .discard) :
    (s.finish.latch c).pending = (s.latch c).pending ∧ (s.finish.latch c).bed = (s.latch c).bed ∧ (s.finish.latch c).value = (s.latch c).value := by
  obtain ⟨u, worked, ends⟩ := finish_work s
  rw [← worked.latches c line discard]
  have offers : u.weighOccasion.latch c = u.latch c := by
    unfold State.weighOccasion
    split
    · split
      · rename_i b _
        exact offer_latch (.claim b (u.setupOf b).flow (u.bed b).urgency (u.bed b).waitAge) discard { u with sb.claim := { Claim.none with
          phase := .sending, bed := b, flow := (u.setupOf b).flow, urgency := (u.bed b).urgency, age := (u.bed b).waitAge } }
      · rfl
    · rfl
  rcases ends with alerts | alerts
  · exact alerts.2.2 c discard
  · rw [← offers]
    exact alerts.2.2 c discard

/-! ### CLAIM (R44) -/

theorem row_finish (s : State) (src : Nat) : s.finish.row src = s.row src := by
  rw [State.row, (inside_finish s).presence]; rfl

theorem changeEntry_presence (st bd : Nat) (f : Entry → Entry) (s : State) : (s.changeEntry st bd f).sb.presence = s.sb.presence := by
  unfold State.changeEntry
  dsimp only
  split <;> rfl

theorem insert_presence (e : Entry) (s : State) : (s.insert e).sb.presence = s.sb.presence := by
  unfold State.insert
  split
  · rfl
  · split
    · rfl
    · unfold State.skipInsertion
      rw [State.setPending_rest]

/-- A full book skips a new entry, and that is no book change (R38). -/
theorem insert_full {e : Entry} (absent : s.hasEntry e.station e.bed = false) (full : 32 ≤ s.sb.book.length) : s.insert e = s.skipInsertion :=
  (if_neg (by simp [absent])).trans (if_neg (by simp [Config.bookRoom, full]))

theorem named_of_entry {e : Entry} (found : s.entry st bd = some e) : e.station = st ∧ e.bed = bd := by
  have named := List.find?_some (p := fun e : Entry => e.named st bd) found
  simpa [Entry.named] using named

theorem takeClaim_has (flow age : Nat) (u : Urgency) (has : s.hasEntry src bd = true) : s.takeClaim src bd flow u age
    = (s.modRow src fun r => { r with lastClaim := some ⟨bd, flow, u, age⟩ }).changeEntry src bd
        fun e => { e with flow := flow, urgency := u, committed := false, age := age, heard := s.now } := if_pos has

theorem takeClaim_new (flow age : Nat) (u : Urgency) (absent : s.hasEntry src bd = false) : s.takeClaim src bd flow u age
    = (s.modRow src fun r => { r with lastClaim := some ⟨bd, flow, u, age⟩ }).insert ⟨src, bd, flow, u, false, age, s.now⟩ :=
  if_neg (by change ¬ s.hasEntry src bd = true; simp [absent])

theorem takeClaim_rest (src bd flow : Nat) (u : Urgency) (age : Nat) (s : State) : (s.takeClaim src bd flow u age).now = s.now
    ∧ (s.takeClaim src bd flow u age).sl = s.sl
    ∧ (s.takeClaim src bd flow u age).sb.presence = (s.modRow src fun r => { r with lastClaim := some ⟨bd, flow, u, age⟩ }).sb.presence := by
  cases has : s.hasEntry src bd with
  | true =>
    rw [takeClaim_has flow age u has]
    exact ⟨changeEntry_now .., changeEntry_own .., changeEntry_presence ..⟩
  | false =>
    rw [takeClaim_new flow age u has]
    exact ⟨insert_now .., insert_own .., insert_presence ..⟩

theorem skipInsertion_eq (s : State) : s.skipInsertion = { s with sb.saturated := true, au := s.skipInsertion.au } := by
  unfold State.skipInsertion
  rw [State.setPending_rest]

theorem latch_skipInsertion (s : State) : (s.skipInsertion.latch .saturated).pending = true :=
  congrArg Latch.pending (State.latch_setPending_same ..)

/-- Settles O17. -/
theorem peerClaimEntersTheBook : Obligations.PeerClaimEntersTheBook := by
  intro src tgt bed flow age u s settled hears fits
  have other : src ≠ s.sl.own := hears.2.2.2.1
  refine ⟨_, rfl, ?_⟩
  rw [fits, hand_hears src tgt 2 4 hears]
  have moment := frameTaken_now src 4 s
  have settled := frameTaken_settled src 4 settled
  have row := row_frameTaken 4 ⟨hears.2.1, hears.2.2.1⟩ s
  have has := frameTaken_hasEntry src 4 src bed s
  have entry := frameTaken_entry src 4 src bed s
  have book := frameTaken_book src 4 s
  have own := frameTaken_own src 4 s
  generalize s.frameTaken src 4 = f at moment settled row has entry book own ⊢
  obtain ⟨now, sl, presence⟩ := takeClaim_rest src bed flow u age f
  have inside := inside_finish (f.takeClaim src bed flow u age)
  have time : (f.takeClaim src bed flow u age).finish.now = s.frameEnd 4 := inside.now.trans (now.trans moment)
  have kept := inside.entry src bed (by rw [sl, own]; exact other)
  refine ⟨time, fun room => ?_, fun absent full => ?_, ?_⟩
  · rw [kept, time]
    cases there : s.hasEntry src bed with
    | true =>
      obtain ⟨e, found⟩ := Option.isSome_iff_exists.1 ((hasEntry_entry src bed s).symm.trans there)
      obtain ⟨station, bed'⟩ := named_of_entry found
      rw [takeClaim_has flow age u (has.trans there)]
      refine (entry_changeEntry _ _ _ ?_ _).trans ?_
      · exact fun _ => ⟨rfl, rfl⟩
      · rw [show (f.modRow src _).entry src bed = some e from entry.trans found, ← moment]
        exact congrArg some (by rw [← station, ← bed'])
    | false =>
      rw [takeClaim_new flow age u (has.trans there), ← moment]
      exact entry_insert _ _ (has.trans there) (by
        change f.sb.book.length < 32
        rw [book]
        exact room.resolve_left (by simp [there]))
  · have skips : f.takeClaim src bed flow u age
        = (f.modRow src fun r => { r with lastClaim := some ⟨bed, flow, u, age⟩ }).skipInsertion := by
      rw [takeClaim_new flow age u (has.trans absent)]
      refine insert_full (has.trans absent) ?_
      change 32 ≤ f.sb.book.length
      rw [book]
      exact full
    rw [kept]
    rw [skips] at inside ⊢
    have alerts := finish_settled (f.modRow src fun r => { r with lastClaim := some ⟨bed, flow, u, age⟩ }).skipInsertion (by
      rw [skipInsertion_eq]
      exact settled)
    refine ⟨?_, ?_, inside.latched .saturated (latch_skipInsertion _)⟩
    · rw [skipInsertion_eq]
      refine entry.trans (Option.not_isSome_iff_eq_none.1 ?_)
      rw [← hasEntry_entry, absent]
      nofun
    · rw [alerts.sb, skipInsertion_eq]
  · rw [row_finish]
    have changed := row_modRow (f := fun r => { r with lastClaim := some ⟨bed, flow, u, age⟩ }) (fun _ => rfl) src f
    rw [row] at changed
    refine ⟨_, (congrArg (List.find? fun r : Row => r.station == src) presence).trans changed, ?_, rfl⟩
    rw [time]
    cases s.row src <;> rfl

/-! ### TALLY: one listing (R47) -/

theorem find_updateEntry_ne {f : Entry → Entry} {bd' : Nat} (keeps : ∀ e, (f e).station = e.station ∧ (f e).bed = e.bed) (ne : bd' ≠ bd)
    (book : List Entry) : (updateEntry st bd f book).find? (fun e => e.named st bd') = book.find? fun e => e.named st bd' := by
  induction book with
  | nil => rfl
  | cons e l ih =>
    have head : updateEntry st bd f (e :: l) = (if e.named st bd then f e else e) :: updateEntry st bd f l := rfl
    rw [head, List.find?_cons, List.find?_cons, ih]
    cases named : e.named st bd with
    | true =>
      obtain ⟨station, bed⟩ := keeps e
      have away : e.named st bd' = false := by
        simp only [Entry.named, Bool.and_eq_true, beq_iff_eq] at named
        simp [Entry.named, named.2, Ne.symm ne]
      have away' : (f e).named st bd' = false := by rw [Entry.named, station, bed]; exact away
      simp [away, away']
    | false => rfl

theorem changeEntry_book (st bd : Nat) (f : Entry → Entry) (s : State) : (s.changeEntry st bd f).sb.book = updateEntry st bd f s.sb.book := by
  unfold State.changeEntry
  dsimp only
  split <;> rfl

theorem insert_room {e : Entry} (absent : s.hasEntry e.station e.bed = false) (room : s.sb.book.length < 32) :
    s.insert e = s.putBook (s.sb.book ++ [e]) := (if_neg (by simp [absent])).trans (if_pos room)

/-- What a listing leaves, where the book has room for its entry. -/
structure Listed (src : Nat) (y : TallyEntry) (s t : State) : Prop where
  entry : ∃ x, t.entry src y.bed = some x ∧ x.flow = y.flow ∧ x.urgency = y.urgency ∧ x.committed = y.committed ∧ x.heard = s.now
  others : ∀ bd, bd ≠ y.bed → t.entry src bd = s.entry src bd
  length : t.sb.book.length ≤ s.sb.book.length + 1
  listed : ∀ x ∈ t.sb.book, x.station = src → x.bed = y.bed ∨ ∃ z ∈ s.sb.book, z.station = src ∧ z.bed = x.bed
  now : t.now = s.now
  sl : t.sl = s.sl
  presence : t.sb.presence = s.sb.presence
  budget : t.sb.budget = s.sb.budget
  au : t.au = s.au

theorem listed_takeListing (src : Nat) (y : TallyEntry) (room : s.sb.book.length < 32) : Listed src y s (s.takeListing src y) := by
  cases has : s.hasEntry src y.bed with
  | true =>
    have eq : s.takeListing src y = s.changeEntry src y.bed fun e =>
        { e with flow := y.flow, urgency := y.urgency, committed := y.committed, heard := s.now } := if_pos has
    obtain ⟨e, found⟩ := Option.isSome_iff_exists.1 ((hasEntry_entry src y.bed s).symm.trans has)
    have book := changeEntry_book src y.bed (fun e =>
      { e with flow := y.flow, urgency := y.urgency, committed := y.committed, heard := s.now }) s
    have keeps (e : Entry) : ({ e with flow := y.flow, urgency := y.urgency, committed := y.committed, heard := s.now } : Entry).station
        = e.station ∧ ({ e with flow := y.flow, urgency := y.urgency, committed := y.committed, heard := s.now } : Entry).bed = e.bed := ⟨rfl, rfl⟩
    rw [eq]
    refine ⟨⟨{ e with flow := y.flow, urgency := y.urgency, committed := y.committed, heard := s.now },
      (entry_changeEntry _ _ _ keeps _).trans (by rw [found]; rfl), rfl, rfl, rfl, rfl⟩, fun bd ne => ?_, ?_, fun x m here => ?_,
      changeEntry_now .., changeEntry_own .., changeEntry_presence .., ?_, ?_⟩
    · rw [State.entry, book]
      exact find_updateEntry_ne keeps ne _
    · rw [book]
      simp [updateEntry]
    · rw [book] at m
      obtain ⟨z, i, rfl⟩ := List.mem_map.1 m
      refine .inr ⟨z, i, ?_⟩
      revert here
      split <;> exact fun here => ⟨here, rfl⟩
    · unfold State.changeEntry
      dsimp only
      split <;> rfl
    · unfold State.changeEntry
      dsimp only
      split <;> rfl
  | false =>
    have eq : s.takeListing src y
        = s.putBook (s.sb.book ++ [⟨src, y.bed, y.flow, y.urgency, y.committed, ((s.lastClaimFor src y.bed).map (·.age)).getD 0, s.now⟩]) :=
      (if_neg (by simp [has])).trans (insert_room has room)
    rw [eq]
    refine ⟨⟨⟨src, y.bed, y.flow, y.urgency, y.committed, ((s.lastClaimFor src y.bed).map (·.age)).getD 0, s.now⟩, ?_, rfl, rfl, rfl, rfl⟩,
      fun bd ne => ?_, ?_, fun x m here => ?_, rfl, rfl, rfl, rfl, rfl⟩
    · have absent : s.sb.book.find? (fun e => e.named src y.bed) = none :=
        List.find?_eq_none.2 fun e m => by simp [hasEntry_eq_false.1 has e m]
      exact (List.find?_append ..).trans (by rw [absent]; simp [Entry.named])
    · exact (List.find?_append ..).trans (by simp [Entry.named, Ne.symm ne, State.entry])
    · simp
    · rcases List.mem_append.1 m with m | m
      · exact .inr ⟨x, m, here, rfl⟩
      · rw [List.mem_singleton.1 m]
        exact .inl rfl

/-! ### TALLY: the list (R47) -/

/-- A pass over listings of different beds leaves each of them, and nothing else of that station that was not there. -/
structure ListedAll (src : Nat) (l : List TallyEntry) (s t : State) : Prop where
  entries : ∀ y ∈ l, ∃ x, t.entry src y.bed = some x ∧ x.flow = y.flow ∧ x.urgency = y.urgency ∧ x.committed = y.committed ∧ x.heard = s.now
  others : ∀ bd, (∀ y ∈ l, y.bed ≠ bd) → t.entry src bd = s.entry src bd
  listed : ∀ x ∈ t.sb.book, x.station = src → (∃ y ∈ l, y.bed = x.bed) ∨ ∃ z ∈ s.sb.book, z.station = src ∧ z.bed = x.bed
  now : t.now = s.now
  sl : t.sl = s.sl
  presence : t.sb.presence = s.sb.presence
  budget : t.sb.budget = s.sb.budget
  au : t.au = s.au

theorem listedAll (src : Nat) (l : List TallyEntry) (once : (l.map fun e => e.bed).Nodup) (room : s.sb.book.length + l.length ≤ 32) :
    ListedAll src l s (l.foldl (fun s e => s.takeListing src e) s) := by
  induction l generalizing s with
  | nil => exact ⟨by simp, fun _ _ => rfl, fun x m here => .inr ⟨x, m, here, rfl⟩, rfl, rfl, rfl, rfl, rfl⟩
  | cons y l ih =>
    rw [List.length_cons] at room
    obtain ⟨out, once⟩ := List.nodup_cons.1 once
    have one := listed_takeListing src y (s := s) (by omega)
    have rest := ih (s := s.takeListing src y) once (by have := one.length; omega)
    rw [List.foldl_cons]
    have apart : ∀ z ∈ l, z.bed ≠ y.bed := fun z m same => out (List.mem_map.2 ⟨z, m, same⟩)
    refine ⟨fun z m => ?_, fun bd away => ?_, fun x m here => ?_, rest.now.trans one.now, rest.sl.trans one.sl,
      rest.presence.trans one.presence, rest.budget.trans one.budget, rest.au.trans one.au⟩
    · rcases List.mem_cons.1 m with rfl | m
      · rw [rest.others z.bed apart]
        exact one.entry
      · rw [← one.now]
        exact rest.entries z m
    · rw [rest.others bd fun z m => away z (List.mem_cons_of_mem _ m), one.others bd (away y (List.mem_cons_self ..)).symm]
    · rcases rest.listed x m here with ⟨z, i, same⟩ | ⟨z, i, station, same⟩
      · exact .inl ⟨z, List.mem_cons_of_mem _ i, same⟩
      · rcases one.listed z i station with here | ⟨w, j, station', same'⟩
        · exact .inl ⟨y, List.mem_cons_self .., by rw [← here, same]⟩
        · exact .inr ⟨w, j, station', by rw [same', same]⟩

theorem dropUnlisted_eq (src : Nat) (l : List TallyEntry) (s : State) : ∃ x, s.dropUnlisted src l = { s with
    sb := { s.sb with book := s.sb.book.filter (fun e => e.station != src || l.any fun t => t.bed == e.bed), dirty := x } } := by
  unfold State.dropUnlisted
  dsimp only
  split
  · rename_i same
    have kept : s.sb.book.filter (fun e => e.station != src || l.any fun t => t.bed == e.bed) = s.sb.book :=
      List.filter_eq_self.2 (List.length_filter_eq_length_iff.1 same)
    exact ⟨s.sb.dirty, by rw [kept]⟩
  · exact ⟨true, rfl⟩

/-! ### TALLY: the budget (R48) -/

theorem takeFault_setup (s : State) (bed peer kind one two : Nat) (c d : Cause) : (s.takeFault c bed peer kind one two).latch d = s.latch d := by
  unfold State.takeFault
  split <;> rfl

theorem mismatch_rest (src heard : Nat) (before : Option Nat) (s : State) :
    s.mismatch src heard before = { s with au := (s.mismatch src heard before).au } := by
  unfold State.mismatch
  dsimp only
  split
  · rw [State.takeFault_rest, State.setPending_rest]
  · rw [State.setPending_rest]

theorem mismatch_latch (src heard : Nat) (before : Option Nat) (s : State) :
    (s.mismatch src heard before).latch .setup = ⟨true, (s.latch .setup).armed, 15, word16 heard⟩ := by
  unfold State.mismatch
  dsimp only
  split
  · rw [takeFault_setup, State.latch_setPending_same]
  · rw [State.latch_setPending_same]

theorem mismatch_record {src heard : Nat} {before : Option Nat} (news : before ≠ some heard) (open' : s.au.record = none) :
    (s.mismatch src heard before).au.record = some ⟨.setup, 15, src, 1, word16 heard, word16 s.sl.setup.budget, s.clockMinute⟩ := by
  have faults : s.mismatch src heard before = (s.setPending .setup 15 heard).takeFault .setup 15 src 1 heard s.sl.setup.budget :=
    if_pos (.inr (.inr news))
  rw [faults, State.takeFault_unlocked _ _ _ _ _ _ _ (by rw [State.setPending_record, open']), State.setPending_rest]
  rfl

/-- The budget part of a TALLY, but for the comparison with the own budget. -/
def budgeted (src : Nat) (y : TallyNotice) (s : State) : State :=
  (s.modRow src fun r => { r with budget := some y.budget, barred := y.barred }).recomputeBudget

theorem takeBudget_eq (src : Nat) (y : TallyNotice) (s : State) : s.takeBudget src y =
    if (budgeted src y s).sl.setup.budget ≠ 0 ∧ y.budget ≠ 0 ∧ y.barred = false ∧ y.budget ≠ (budgeted src y s).sl.setup.budget then
      (budgeted src y s).mismatch src y.budget ((s.row src).bind Row.budget)
    else budgeted src y s := rfl

theorem budgeted_eq (src : Nat) (y : TallyNotice) (s : State) : ∃ x, budgeted src y s = { s with sb := { s.sb with
      presence := (s.modRow src fun r => { r with budget := some y.budget, barred := y.barred }).sb.presence
      budget := effectiveBudget s.sl.setup.budget (s.modRow src fun r => { r with budget := some y.budget, barred := y.barred }).sb.presence
      dirty := x } } := by
  obtain ⟨x, eq, -⟩ := recomputeBudget_eq (s.modRow src fun r => { r with budget := some y.budget, barred := y.barred })
  exact ⟨x, eq⟩

theorem takeBudget_rest (src : Nat) (y : TallyNotice) (s : State) :
    s.takeBudget src y = { budgeted src y s with au := (s.takeBudget src y).au } := by
  rw [takeBudget_eq]
  split
  · rw [mismatch_rest]
  · rfl

/-- Settles O20. -/
theorem peerTallyReplacesItsEntries : Obligations.PeerTallyReplacesItsEntries := by
  intro src tgt y s hears fits once room
  have other : src ≠ s.sl.own := hears.2.2.2.1
  refine ⟨_, rfl, ?_⟩
  rw [fits, hand_hears src tgt 1 (3 + 3 * y.entries.length) hears]
  generalize 3 + 3 * y.entries.length = len
  have moment := frameTaken_now src len s
  have row := row_frameTaken len ⟨hears.2.1, hears.2.2.1⟩ s
  have book := frameTaken_book src len s
  have own := frameTaken_own src len s
  have au := frameTaken_au src len s
  have pw := frameTaken_pw src len s
  generalize s.frameTaken src len = f at moment row book own au pw ⊢
  obtain ⟨x, budget⟩ := budgeted_eq src y f
  have rest := takeBudget_rest src y f
  obtain ⟨x', unlisted⟩ := dropUnlisted_eq src y.entries (f.takeBudget src y)
  have list := listedAll src y.entries (s := (f.takeBudget src y).dropUnlisted src y.entries) once (by
    rw [unlisted, rest, budget]
    have := List.length_filter_le (fun e : Entry => e.station != src || y.entries.any fun t => t.bed == e.bed) f.sb.book
    rw [book] at this
    exact le_trans (Nat.add_le_add_right (book ▸ this) _) room)
  change ListedAll src y.entries _ (f.takeTally src y) at list
  have inside := inside_finish (f.takeTally src y)
  have now : (f.takeTally src y).now = s.frameEnd len := by rw [list.now, unlisted, rest, budget, ← moment]
  have sl : (f.takeTally src y).sl = s.sl := by rw [list.sl, unlisted, rest, budget, ← own]
  have presence : (f.takeTally src y).sb.presence = (f.modRow src fun r => { r with budget := some y.budget, barred := y.barred }).sb.presence := by
    rw [list.presence, unlisted, rest, budget]
  have total : (f.takeTally src y).sb.budget = effectiveBudget s.sl.setup.budget (f.takeTally src y).sb.presence := by
    rw [list.budget, presence, unlisted, rest, budget, own]
  have alerts : (f.takeTally src y).au = (f.takeBudget src y).au := by rw [list.au, unlisted]
  refine ⟨inside.now.trans now, fun e m => ?_, fun z m here => ?_, ?_, ?_, fun nonzero heard unbarred differs => ?_, fun same => ?_⟩
  · obtain ⟨z, found, flow, urgency, committed, moment'⟩ := list.entries e m
    refine ⟨z, (inside.entry src e.bed (by rw [sl]; exact other)).trans found, flow, urgency, committed, ?_⟩
    rw [moment', inside.now, list.now]
  · have before : z ∈ (f.takeTally src y).sb.book := (inside.peerEntry (by rw [sl, here]; exact other)).1 m
    rcases list.listed z before here with ⟨e, i, same⟩ | ⟨w, i, station, same⟩
    · exact ⟨e, i, same⟩
    · rw [unlisted] at i
      have kept := (List.mem_filter.1 i).2
      simp only [station, bne_self_eq_false, Bool.false_or, List.any_eq_true, beq_iff_eq] at kept
      obtain ⟨e, j, bed⟩ := kept
      exact ⟨e, j, bed.trans same⟩
  · have changed := row_modRow (f := fun r => { r with budget := some y.budget, barred := y.barred }) (fun _ => rfl) src f
    rw [row] at changed
    refine ⟨_, (row_finish _ src).trans ((congrArg (List.find? fun r : Row => r.station == src) presence).trans changed), ?_, rfl, rfl⟩
    rw [inside.now, now]
    cases s.row src <;> rfl
  · rw [inside.budget, total, inside.sl, sl, inside.presence]
  · have judged : (budgeted src y f).sl = s.sl := by rw [budget, ← own]
    have takes : f.takeBudget src y = (budgeted src y f).mismatch src y.budget ((f.row src).bind Row.budget) :=
      (takeBudget_eq src y f).trans (if_pos (by rw [judged]; exact ⟨nonzero, heard, unbarred, differs⟩))
    have latch : (f.takeTally src y).latch .setup = ⟨true, ((budgeted src y f).latch .setup).armed, 15, word16 y.budget⟩ := by
      rw [State.latch, alerts, takes]
      exact mismatch_latch ..
    obtain ⟨pending, bed, value⟩ := latch_finish (s := f.takeTally src y) (c := .setup) nofun nofun
    rw [latch] at pending bed value
    refine ⟨pending, bed, value, fun open' news => ?_⟩
    refine inside.record _ ?_
    have before : (f.row src).bind Row.budget = (s.row src).bind Row.budget := by
      rw [row]
      cases s.row src <;> rfl
    rw [alerts, takes, before, mismatch_record news (by rw [budget]; exact (congrArg AlertUnit.record au).trans open'), judged]
    rw [budget]
    exact congrArg (fun w => some (FaultInfo.mk .setup 15 src 1 (word16 y.budget) (word16 s.sl.setup.budget) w))
      (congrArg (fun w : ProbesWeather => if w.clockSet then w.minute else 65535) pw)
  · have judged : (budgeted src y f).sl = s.sl := by rw [budget, ← own]
    have takes : f.takeBudget src y = budgeted src y f := (takeBudget_eq src y f).trans (if_neg (by
      rw [judged]
      rintro ⟨nonzero, heard, unbarred, differs⟩
      rcases same with e | e | e | e
      · exact nonzero e
      · exact heard e
      · simp [e] at unbarred
      · exact differs e))
    have latch : (f.takeTally src y).latch .setup = s.latch .setup := by
      rw [State.latch, alerts, takes, budget]
      exact congrArg (fun a : AlertUnit => a.latches.get .setup) au
    obtain ⟨pending, -, value⟩ := latch_finish (s := f.takeTally src y) (c := .setup) nofun nofun
    exact ⟨pending.trans (by rw [latch]), value.trans (by rw [latch])⟩

end Sys2Proof.PeerNotices

/-! PROOFS. SHED of a peer (R78), and what an event without a book change leaves of a bed. -/

namespace Sys2Proof.Machine

variable {b d : BedId} {s t u : State}

/-! ### A cut bed at the end of its event -/

/-- A cycle whose valve does not shut at once ends without a report: the books are as they were. -/
theorem endCycle_unshut {c : EndCause} (ne : c ≠ .supply) (unshut : ¬ s.shutsAtOnce d) : (s.endCycle d c).sb = s.sb := by
  obtain ⟨drive, -⟩ := Overdraw.closeRequest_of_not_shutsAtOnce (mt (Overdraw.ending_shutsAtOnce d c s).mp unshut)
  rw [endCycle_other ne, drive.sb]
  rfl

theorem Offered.aside (h : Offered s t) (rests : (s.bed b).state ≠ .waiting) : Aside b s t :=
  ⟨h.setupOf b, (h.beds b).of_not_waiting rests, by rw [State.valve, h.vd]; rfl, fun e => by rwa [State.queued, h.vd],
    fun e => by rwa [State.pulsing, h.vd], by rw [State.channelOf, h.vd]; rfl⟩

/-- Without a book change, a bed that does not wait is as it was at the end of the event. -/
theorem aside_finish_clean (clean : s.sb.dirty = false) (rests : (s.bed b).state ≠ .waiting) : Aside b s s.finish :=
  (offered_finish clean).aside rests

/-- No bed comes into CONFIRMING or RUNNING at the end of an event. -/
theorem credited_finish (s : State) (b : BedId) (out : (s.bed b).state.credited = false) : (s.finish.bed b).state.credited = false := by
  obtain ⟨u, worked, ends⟩ := finish_work s
  have still := worked.credited b out
  rcases ends with alerts | alerts
  · rwa [alerts.bed]
  · rw [alerts.bed]
    rcases (offered_weighOccasion u).beds b with same | ⟨-, claims⟩
    · rwa [same]
    · rw [claims]
      rfl

theorem credited_of_cycling (out : (s.bed b).state.cycling = false) : (s.bed b).state.credited = false := by
  cases state : (s.bed b).state <;> first | rfl | simp [state, BedState.cycling] at out

theorem not_credited {x : BedState} (h : x.credited = false) : x ≠ .confirming ∧ x ≠ .running := by
  cases x <;> simp_all [BedState.credited]

/-- After a cut the bed is in no cycle. -/
theorem cut_rests (d : BedId) (c : EndCause) (s : State) : ((s.cut d c).bed d).state.cycling = false := by
  unfold State.cut
  split
  · exact (endCycle_rests d c s).1
  · rename_i out
    simpa using out

end Sys2Proof.Machine

namespace Sys2Proof.PeerNotices

open Sys2Proof.Machine FramesAndOrders PeerEntries

variable {s : State} {b : BedId}

/-! ### SHED (R78) -/

/-- The victim is an own COMMITTED entry of NORMAL urgency, the claimant SEVERE, and the bed in a cycle or CLOSING. -/
theorem shedTarget_iff {victim : Nat} {u : Urgency} : s.shedTarget victim u = some b ↔ bedOf victim = some b ∧ ∃ e, s.ownEntry victim = some e
    ∧ u = .severe ∧ e.committed = true ∧ e.urgency = .normal ∧ ((s.bed b).state.cycling = true ∨ (s.bed b).state = .closing) := by
  unfold State.shedTarget
  split
  · rename_i e d own bed
    rw [own, bed]
    split
    · rename_i target
      constructor
      · intro same
        obtain rfl := Option.some.inj same
        exact ⟨rfl, e, rfl, target⟩
      · rintro ⟨same, -⟩
        exact same
    · rename_i target
      constructor
      · nofun
      · rintro ⟨same, x, found, rest⟩
        obtain rfl := Option.some.inj same
        obtain rfl := Option.some.inj found
        exact absurd rest target
  · rename_i out
    constructor
    · nofun
    · rintro ⟨bed, e, own, -⟩
      exact absurd bed (out e b own)

theorem aside_answer (tgt : Nat) (r : Reply) (s : State) (b : BedId) : Aside b s (s.answer tgt r) := by
  rw [answer_rest]
  exact aside_same rfl rfl rfl

/-- Settles O22. -/
theorem shedIsAnsweredByTheTable : Obligations.ShedIsAnsweredByTheTable := by
  intro src victim claimant u s settled hears fits numbered
  refine ⟨_, rfl, ?_⟩
  rw [fits, hand_hears src s.sl.own 6 3 hears]
  have taken := frameTaken_settled src 3 settled
  have own : (s.frameTaken src 3).ownEntry victim = s.ownEntry victim := by
    rw [State.ownEntry, State.ownEntry, frameTaken_own, frameTaken_entry]
  refine ⟨fun b e bed found severe committed normal busy => ?_, fun refuses => ?_⟩
  · have target : (s.frameTaken src 3).shedTarget victim u = some b :=
      shedTarget_iff.2 ⟨bed, e, own.trans found, severe, committed, normal, by simpa using busy⟩
    have takes : (s.frameTaken src 3).takeShed s.sl.own victim u = ((s.frameTaken src 3).answer s.sl.own .ack).cut b .shed := by
      unfold State.takeShed
      rw [target]
    rw [takes]
    have answered := answer_answer (s := s.frameTaken src 3) .ack (congrArg SetupLoader.own (frameTaken_own src 3 s))
    have clean : ((s.frameTaken src 3).answer s.sl.own .ack).sb.dirty = false := by rw [answer_sb]; exact taken.1
    have before : Aside b s ((s.frameTaken src 3).answer s.sl.own .ack) :=
      Aside.trans (aside_same (by rw [frameTaken_own]) (by rw [frameTaken_bc]) (frameTaken_vd ..)) (aside_answer ..)
    have quiet := settled_answer s.sl.own .ack taken
    generalize (s.frameTaken src 3).answer s.sl.own .ack = f at answered clean before quiet ⊢
    have out := not_credited (credited_finish _ b (credited_of_cycling (cut_rests b .shed f)))
    refine ⟨?_, out.1, out.2, fun r cycling run unshut => ?_, fun closing => ?_⟩
    · rw [((inside_cut b .shed f).trans (inside_finish _)).li, answered]
    · have there : (f.bed b).state.cycling = true := by rw [before.bed, cycling]
      have cuts : f.cut b .shed = f.endCycle b .shed := if_pos there
      have ended := cycleEnded_endCycle (c := .shed) ⟨nofun, nofun, nofun⟩ (before.bed ▸ run) (before.unshut unshut)
      rw [cuts]
      have same := endCycle_unshut (c := .shed) nofun (before.unshut unshut)
      exact cycleEnded_after (cycleEnded_before before ended) (aside_finish_clean (by rw [same, clean]) (by rw [ended.state]; nofun))
    · rw [Overdraw.cut_of_resting .shed (by rw [before.bed, closing]; rfl)]
      exact finish_settled f quiet
  · have target : (s.frameTaken src 3).shedTarget victim u = none := by
      refine Option.eq_none_iff_forall_ne_some.2 fun b found => ?_
      obtain ⟨bed, e, owned, severe, committed, normal, busy⟩ := shedTarget_iff.1 found
      obtain ⟨still, open'⟩ := refuses b e bed (own ▸ owned) severe committed normal
      rw [frameTaken_bed] at busy
      simp [still, open'] at busy
    have takes : (s.frameTaken src 3).takeShed s.sl.own victim u = (s.frameTaken src 3).answer s.sl.own .refuse := by
      unfold State.takeShed
      rw [target]
    rw [takes]
    exact finish_settled _ (settled_answer _ _ taken)

end Sys2Proof.PeerNotices

/-! PROOFS. A reason that cuts joins the hold set, and what its event leaves of beds and claim (R80, R81, R100, R120): PAUSE and
RESUME, line-loss closure. -/

namespace Sys2Proof.Machine

variable {b d : BedId} {s t u f : State} {r : HoldReason} {c : EndCause}

/-! ### From a join to the end of its event -/

/-- What the rest of an event keeps of beds at rest and of a claim that may not commit. -/
structure Settling (s t : State) : Prop where
  credited : ∀ b, (s.bed b).state.credited = false → (t.bed b).state.credited = false
  unclaimed : ∀ b, (s.bed b).state ≠ .claiming → (t.bed b).state ≠ .claiming
  live : s.sb.claim.live = false → t.sb.claim.live = false
  quiet : s.sb.claim.live = false → ∀ b, (s.bed b).state.cycling = false → (t.bed b).state.cycling = false
  calm : s.sb.claim.live = false → ∀ b, (s.bed b).state.calm → Aside b s t

namespace Settling

theorem refl (s : State) : Settling s s := ⟨fun _ => id, fun _ => id, id, fun _ _ => id, fun _ b _ => .refl b s⟩

theorem trans (h : Settling s t) (k : Settling t u) : Settling s u where
  credited b e := k.credited b (h.credited b e)
  unclaimed b e := k.unclaimed b (h.unclaimed b e)
  live e := k.live (h.live e)
  quiet e b x := k.quiet (h.live e) b (h.quiet e b x)
  calm e b x := by
    have a := h.calm e b x
    exact a.trans (k.calm (h.live e) b (by rw [a.bed]; exact x))

end Settling

theorem Worked.settling (h : Worked s t) : Settling s t :=
  ⟨h.credited, h.unclaimed, h.claim.live, h.quiet, fun e b x => h.calm b (.inr (.inl e)) x⟩

theorem settling_same (setup : t.sl.setup = s.sl.setup) (beds : t.bc.beds = s.bc.beds) (vd : t.vd = s.vd) (claim : t.sb.claim = s.sb.claim) :
    Settling s t := by
  have bed : ∀ b, t.bed b = s.bed b := fun b => by rw [State.bed, beds]; rfl
  exact ⟨fun b h => by rwa [bed], fun b h => by rwa [bed], fun h => by rwa [claim], fun _ b h => by rwa [bed],
    fun _ b _ => aside_same setup beds vd⟩

theorem settling_joinHold (r : HoldReason) (s : State) : Settling s (s.joinHold r) := by
  by_cases present : s.bc.holds.has r = true
  · rw [joinHold_present present]
    exact .refl s
  · have put : Settling s { s with bc.holds := s.bc.holds.put r true } := settling_same rfl rfl rfl rfl
    exact put.trans (worked_joinHold (by simpa using present)).settling

theorem settling_leaveHold (r : HoldReason) (s : State) : Settling s (s.leaveHold r) := by
  unfold State.leaveHold
  split
  · exact settling_same rfl rfl rfl rfl
  · exact .refl s

/-- Every cycle is cut with this cause, no bed stays in a cycle that is credited or in CLAIMING, and no claim may commit. -/
structure Stopped (c : EndCause) (s t : State) : Prop where
  rests : ∀ b, (t.bed b).state ≠ .confirming ∧ (t.bed b).state ≠ .running ∧ (t.bed b).state ≠ .claiming
  sound : ClaimSound s → t.sb.claim.live = false ∧ (∀ b, (t.bed b).state.cycling = false) ∧ AllCut c s t

/-- A claim of a sound state is held in any state with its claim and beds. -/
theorem claimHeld_of_sound (claim : f.sb.claim = s.sb.claim) (beds : ∀ b, f.bed b = s.bed b) (sound : ClaimSound s) : ClaimHeld f := fun live => by
  rw [claim] at live ⊢
  rw [beds]
  exact sound.holds live

/-- What a join of a cutting reason leaves at the end of its event, where no bed can be offered. -/
theorem stopped_join (before : ∀ b, (s.bed b).state.cycling = true → Aside b s f) (held : ClaimSound s → ClaimHeld f) (absent : f.bc.holds.has r = false) (cut : r.cut = some c)
    (settles : Settling (f.joinHold r) u) (mute : u.mute) (n : Nat) :
    (∀ b, ((u.ends n).bed b).state ≠ .confirming ∧ ((u.ends n).bed b).state ≠ .running ∧ ((u.ends n).bed b).state ≠ .claiming)
      ∧ (ClaimSound s → (u.ends n).sb.claim.live = false ∧ (∀ b, ((u.ends n).bed b).state.cycling = false)
          ∧ (c.plain → AllCut c s (u.ends n))) := by
  obtain ⟨w, worked, alerts⟩ := ends_quietly n (.inl mute)
  have rest := settles.trans worked.settling
  have calm (b : BedId) : ((f.joinHold r).bed b).state.calm := joinHold_rests absent cut b
  refine ⟨fun b => ?_, fun sound => ?_⟩
  · rw [alerts.bed]
    have out := not_credited (rest.credited b (credited_of_cycling (calm b).1))
    exact ⟨out.1, out.2, rest.unclaimed b (calm b).2⟩
  · have withdrawn := joinHold_withdraws absent cut (held sound)
    refine ⟨by rw [alerts.sb]; exact rest.live withdrawn, fun b => by rw [alerts.bed]; exact rest.quiet withdrawn b (calm b).1,
      fun plain b run cycling runs unshut => ?_⟩
    have before := before b cycling
    have cuts := joinHold_cuts absent cut plain b run (by rw [before.bed, cycling]) (by rw [before.bed, runs]) (before.unshut unshut)
    have after := (rest.calm withdrawn b (calm b)).trans (aside_same (by rw [alerts.sl]) (by rw [alerts.bc]) alerts.vd)
    exact cycleEnded_after (cycleEnded_before before cuts) after

theorem holds_joinHold (r : HoldReason) (s : State) : (s.joinHold r).bc.holds.has r = true := by
  by_cases present : s.bc.holds.has r = true
  · rw [joinHold_present present, present]
  · have joins := worked_joinHold (r := r) (s := s) (by simpa using present)
    rcases joins.holds with e | e <;> rw [e] <;> cases r <;> rfl

/-- With a reason other than DEFER no bed may be offered (R64, R99). -/
theorem mute_of_has (ne : r ≠ .defer) (has : s.bc.holds.has r = true) : s.mute := by
  refine .inr fun u => ?_
  cases r <;> simp_all [Holds.has, Holds.forbids]

/-! ### An answer waits (R8) -/

/-- An answer that waits is seen by no inner operation. -/
theorem Inside.answered (h : Inside s t) (own : Nat) (x : Reply) : Inside (s.answer own x) (t.answer own x) := by
  by_cases here : own = s.sl.own
  · have before : s.answer own x = { s with li.answer := .waiting x } := if_pos here
    have after : t.answer own x = { t with li.answer := .waiting x } := if_pos (by rw [h.sl, here])
    rw [before, after]
    exact {
      outer := congrArg (fun o : State => { o with li.answer := .waiting x }) h.outer
      core := h.core
      age := h.age
      holds := h.holds
      peers := h.peers
      names := h.names
      record := h.record
      latched := h.latched
      queue := h.queue
      drive := h.drive
      carry := h.carry }
  · have before : s.answer own x = s := if_neg here
    have after : t.answer own x = t := if_neg (by rw [h.sl]; exact here)
    rw [before, after]
    exact h

end Sys2Proof.Machine

namespace Sys2Proof.HoldJoins

open Sys2Proof.Machine FramesAndOrders PeerEntries PeerNotices

variable {s t : State}

/-! ### PAUSE and RESUME (R108) -/

theorem inside_join {r : HoldReason} (s : State) : Inside { s with bc.holds := s.bc.holds.put r true } (s.joinHold r) := by
  by_cases present : s.bc.holds.has r = true
  · have same : s.bc.holds.put r true = s.bc.holds := by
      cases r <;> simp only [Holds.has] at present <;> simp only [Holds.put, ← present]
    rw [joinHold_present present, same]
    exact .refl s
  · exact inside_joinHold r s (by simpa using present)

theorem inside_leave {r : HoldReason} (s : State) : Inside { s with bc.holds := s.bc.holds.put r false } (s.leaveHold r) := by
  unfold State.leaveHold
  split
  · exact inside_noteOccasion _
  · rename_i absent
    have same : s.bc.holds.put r false = s.bc.holds := by
      have absent : s.bc.holds.has r = false := by simpa using absent
      cases r <;> simp only [Holds.has] at absent <;> simp only [Holds.put, ← absent]
    rw [same]
    exact .refl s

theorem aside_frame (src len : Nat) (b : BedId) (s : State) : Aside b s (s.frameTaken src len) :=
  aside_same (by rw [frameTaken_own]) (by rw [frameTaken_bc]) (frameTaken_vd ..)

/-- The cuts of a PAUSE, with an answer or without. -/
theorem stopped_pause (src : Nat) (absent : s.bc.holds.pause = false) {u : State} (rest : u = { (s.frameTaken src 2).joinHold .pause with li := u.li }) :
    Stopped .hold s u.finish := by
  have settles : Settling ((s.frameTaken src 2).joinHold .pause) u := by
    rw [rest]
    exact settling_same rfl rfl rfl rfl
  have mute : u.mute := mute_of_has (r := .pause) nofun (by rw [rest]; exact holds_joinHold .pause _)
  obtain ⟨rests, sound⟩ := stopped_join (f := s.frameTaken src 2) (r := .pause) (fun b _ => aside_frame src 2 b s)
    (claimHeld_of_sound (frameTaken_claim ..) fun b => frameTaken_bed ..)    (by rw [frameTaken_bc]; exact absent) rfl settles mute settleLaps
  exact ⟨rests, fun claim => ⟨(sound claim).1, (sound claim).2.1, (sound claim).2.2 ⟨nofun, nofun, nofun⟩⟩⟩

theorem answer_held (h : Holds) (own : Nat) (x : Reply) (s : State) :
    { s with bc.holds := h }.answer own x = { s.answer own x with bc.holds := h } := by
  unfold State.answer
  split <;> rfl

/-- Settles O28. -/
theorem pauseAndResumeSetTheHold : Obligations.PauseAndResumeSetTheHold := by
  intro src sel s hears passes stopped
  have own : s.sl.own ≠ 0 := hears.2.2.2
  have frame : (s.frameTaken src 2).sl = s.sl := frameTaken_own ..
  have pauses : (s.frameTaken src 2).sl.station.passes .pause = true := by rw [frame, passes]
  have resumes : (s.frameTaken src 2).sl.station.passes .resume = true := by
    rw [frame, passes_as_water _ (by decide), ← passes_as_water _ (k := .pause) (by decide), passes]
  have holds : s.bc.holds = (s.frameTaken src 2).bc.holds := by rw [frameTaken_bc]
  have joined := inside_join (r := .pause) (s.frameTaken src 2)
  have left := inside_leave (r := .pause) (s.frameTaken src 2)
  have answered {u v : State} (h : Inside v u) (n : v.sl.own = s.sl.own) : (u.answer s.sl.own .ack).finish.li.answer = .waiting .ack := by
    rw [(inside_finish _).li]
    exact answer_answer .ack (by rw [h.sl, n])
  refine ⟨⟨_, rfl, ?_, fun absent => ?_, ?_⟩, ⟨_, rfl, ?_, ?_⟩, fun group => ⟨⟨_, rfl, fun absent => ?_, ?_⟩, ⟨_, rfl, ?_⟩⟩⟩
  · rw [order_hears src 2 hears, stationOrder_taken own pauses]
    exact answered joined (congrArg SetupLoader.own frame)
  · rw [order_hears src 2 hears, stationOrder_taken own pauses]
    obtain ⟨rests, sound⟩ := stopped_pause src absent (answer_rest ..)
    exact ⟨rests, sound⟩
  · rw [order_hears src 2 hears, stationOrder_taken own pauses, holds, ← answer_held]
    exact ((joined.answered s.sl.own .ack).trans (inside_finish _)).further
  · rw [order_hears src 2 hears, stationOrder_taken own resumes]
    exact answered left (congrArg SetupLoader.own frame)
  · rw [order_hears src 2 hears, stationOrder_taken own resumes, holds, ← answer_held]
    exact ((left.answered s.sl.own .ack).trans (inside_finish _)).further
  all_goals obtain ⟨l, some⟩ := Option.ne_none_iff_exists'.1 group
  · rw [order_group src 2 hears, stationOrder_group pauses ((frameTaken_groupBeds ..).trans some)]
    obtain ⟨rests, sound⟩ := stopped_pause src absent (u := (s.frameTaken src 2).joinHold .pause) rfl
    exact ⟨rests, sound⟩
  · rw [order_group src 2 hears, stationOrder_group pauses ((frameTaken_groupBeds ..).trans some), holds]
    exact (joined.trans (inside_finish _)).further
  · rw [order_group src 2 hears, stationOrder_group resumes ((frameTaken_groupBeds ..).trans some), holds]
    exact (left.trans (inside_finish _)).further

/-! ### A join hands over no fault -/

/-- The fault record and the more-faults mark are as they were. -/
def SameFault (s t : State) : Prop := t.au.record = s.au.record ∧ t.au.more = s.au.more

theorem SameFault.trans {u : State} (h : SameFault s t) (k : SameFault t u) : SameFault s u := ⟨k.1.trans h.1, k.2.trans h.2⟩

theorem sameFault_cancel (p : Notice → Bool) (s : State) : SameFault s (s.cancel p) := by
  rw [cancel_rest]
  exact ⟨rfl, rfl⟩

theorem sameFault_endClaim (s : State) : SameFault s s.endClaim := by
  rw [endClaim_eq, Overdraw.remove_rest]
  exact offer_fault ..

theorem sameFault_withdraw (s : State) : SameFault s s.withdraw := by
  unfold State.withdraw
  split
  · exact ⟨rfl, rfl⟩
  · exact ⟨rfl, rfl⟩
  · dsimp only
    split
    · exact sameFault_cancel ..
    · exact sameFault_cancel Notice.isClaim s
  · exact sameFault_endClaim s
  · exact sameFault_endClaim s
  · dsimp only
    have cancels := sameFault_cancel Notice.isShed { s with sb.claim := { s.sb.claim with outcome := some .drop } }
    split
    · exact cancels
    · exact cancels.trans (sameFault_endClaim _)

theorem sameFault_holdBed (r : HoldReason) (b : BedId) (s : State) : SameFault s (s.holdBed r b) := by
  by_cases cycling : (s.bed b).state.cycling = true
  · rw [holdBed_cycling cycling]
    split
    · exact (bedwise_endCycle ..).fault
    · exact ⟨rfl, rfl⟩
  · by_cases claiming : (s.bed b).state = .claiming
    · rw [holdBed_claiming claiming]
      split
      · exact ⟨rfl, rfl⟩
      · refine (sameFault_withdraw s).trans ?_
        have waits := (resting_toWaiting b 0 s.withdraw).au
        change (s.withdraw.toWaiting b 0).au.record = _ ∧ (s.withdraw.toWaiting b 0).au.more = _
        rw [waits]
        exact ⟨rfl, rfl⟩
    · rw [holdBed_calm ⟨by simpa using cycling, claiming⟩]
      exact ⟨rfl, rfl⟩

theorem sameFault_joinHold (r : HoldReason) (s : State) : SameFault s (s.joinHold r) := by
  have pass (l : List BedId) (s : State) : SameFault s (l.foldl (fun s b => s.holdBed r b) s) := by
    induction l generalizing s with
    | nil => exact ⟨rfl, rfl⟩
    | cons b l ih => exact (sameFault_holdBed r b s).trans (ih _)
  unfold State.joinHold
  split
  · exact ⟨rfl, rfl⟩
  · exact pass allBeds { s with bc.holds := s.bc.holds.put r true }

/-- A fault that finds the record locked sets the more-faults mark (R177). -/
theorem raise_locked (c : Cause) (bed value peer kind one two : Nat) {f : FaultInfo} (h : s.au.record = some f) :
    (s.raise c bed value peer kind one two).au.record = some f ∧ (s.raise c bed value peer kind one two).au.more = true := by
  unfold State.raise State.takeFault
  rw [State.setPending_record, h]
  exact ⟨(State.setPending_record ..).trans h, rfl⟩

/-! ### Line-loss closure (R18) -/

/-- What a closure leaves at the end of its event, in a state that is `s` but for the time. -/
theorem closeLine_finish (n : Nat) (s : State) : let f := s.advanceTo n
    f.closeLine.finish.bc.holds.line = true
      ∧ f.closeLine.finish.latch .line = ⟨true, (f.closeLine.finish.latch .line).armed, 15, 0⟩
      ∧ (s.au.record = none → f.closeLine.finish.au.record = some
          ⟨.line, 15, 0, 0, word16 s.tq.headRun, word16 ((max s.now n - s.li.lossSince) / 12000), s.clockMinute⟩)
      ∧ (s.au.record ≠ none → f.closeLine.finish.au.record = s.au.record ∧ f.closeLine.finish.au.more = true) := by
  intro f
  have present : f.closeLine.bc.holds.line = true := by
    rw [closeLine_rest]
    exact holds_joinHold .line f
  have inside := inside_finish f.closeLine
  obtain ⟨record, more⟩ := sameFault_joinHold .line f
  refine ⟨inside.keepsLine present, ?_, fun empty => inside.record _ ?_, fun locked => ?_⟩
  · obtain ⟨pending, bed, value⟩ := latch_finish (s := f.closeLine) (c := .line) (fun _ => present) nofun
    have raised : f.closeLine.latch .line = ⟨true, ((f.joinHold .line).latch .line).armed, 15, word16 0⟩ := raise_pending ..
    rw [raised] at pending bed value
    generalize f.closeLine.finish.latch .line = l at pending bed value ⊢
    obtain ⟨p, a, x, v⟩ := l
    simp_all [word16]
  · have pw : (f.joinHold .line).pw = s.pw := (inside_join (r := .line) f).pw
    refine (raise_record _ _ _ _ _ _ _ (record.trans empty)).trans ?_
    rw [State.clockMinute, pw]
    rfl
  · obtain ⟨x, held⟩ := Option.ne_none_iff_exists'.1 locked
    obtain ⟨kept, marked⟩ := raise_locked .line 15 0 0 0 f.tq.headRun f.lossSeconds (record.trans held)
    obtain ⟨w, worked, alerts⟩ := ends_quietly settleLaps (s := f.closeLine) (.inl (mute_of_has (r := .line) nofun present))
    refine ⟨(inside.record x kept).trans held.symm, ?_⟩
    exact alerts.more.trans (worked.more marked)

/-- A TALLY is admitted in every station state after LOADING (R28). -/
theorem admits_tally (h : s.live = true) : s.sl.station.admits .tally = true := by
  unfold State.live at h
  cases station : s.sl.station with
  | loading => simp [station] at h
  | _ => rfl

/-- The cuts of a closure. -/
theorem stopped_closeLine (n : Nat) (absent : s.bc.holds.line = false) : Stopped .line s (s.advanceTo n).closeLine.finish := by
  have closed : Settling ((s.advanceTo n).joinHold .line) (s.advanceTo n).closeLine := by
    rw [closeLine_rest]
    exact settling_same rfl rfl rfl rfl
  have mute : (s.advanceTo n).closeLine.mute := mute_of_has (r := .line) nofun (by
    rw [closeLine_rest]
    exact holds_joinHold .line _)
  have before (b : BedId) : Aside b s (s.advanceTo n) := aside_same rfl rfl rfl
  obtain ⟨rests, sound⟩ := stopped_join (fun b _ => before b) (r := .line) (claimHeld_of_sound rfl fun _ => rfl) absent rfl closed mute settleLaps
  exact ⟨rests, fun claim => ⟨(sound claim).1, (sound claim).2.1, (sound claim).2.2 ⟨nofun, nofun, nofun⟩⟩⟩

/-- Settles O14. -/
theorem lineTimersRunOut : Obligations.LineTimersRunOut := by
  intro s active
  refine ⟨fun absent own => ?_, fun x settled since => ?_⟩
  · have run : exec .lineLossClosure s = .next (s.advanceTo (s.li.lossSince + 25 * 12000)).closeLine.finish := by
      simp only [exec, execLineLossClosure, State.take, active, absent, own, if_true, Bool.not_false, Bool.and_self]
      rfl
    obtain ⟨line, latch, record, locked⟩ := closeLine_finish (s.li.lossSince + 25 * 12000) s
    have inside := (inside_closeLine (s.advanceTo (s.li.lossSince + 25 * 12000))).trans (inside_finish _)
    have now : (s.advanceTo (s.li.lossSince + 25 * 12000)).closeLine.finish.now = max s.now (s.li.lossSince + 25 * 12000) := inside.now
    obtain ⟨rests, sound⟩ := stopped_closeLine (s.li.lossSince + 25 * 12000) absent
    refine ⟨_, run, now, line, by rw [latch], by rw [latch], by rw [latch], by rw [now]; exact record, locked, rests, sound,
      inside.peers, inside.li, inside.pw, inside.sl⟩
  · have run : exec .tallyFallsDue s = .next (State.tallyDue { s.advanceTo (x + 10 * 12000) with
        tq.tallySince := some (s.advanceTo (x + 10 * 12000)).now }).finish := by
      simp only [exec, execTallyFallsDue, State.take, active, since, if_true]
      rfl
    refine ⟨_, run, fun waits => ?_, fun absent room => ?_⟩
    · have due : State.tallyDue { s.advanceTo (x + 10 * 12000) with tq.tallySince := some (s.advanceTo (x + 10 * 12000)).now }
          = { s.advanceTo (x + 10 * 12000) with tq.tallySince := some (s.advanceTo (x + 10 * 12000)).now } := by
        obtain ⟨q, m, kind⟩ := waits
        exact if_pos (List.any_eq_true.2 ⟨q, m, by rw [kind]; rfl⟩)
      rw [due]
      exact finish_settled _ settled
    · have due : State.tallyDue { s.advanceTo (x + 10 * 12000) with tq.tallySince := some (s.advanceTo (x + 10 * 12000)).now }
          = { s.advanceTo (x + 10 * 12000) with
              tq.tallySince := some (s.advanceTo (x + 10 * 12000)).now, tq.queue := s.tq.queue ++ [⟨.tally, 0, false⟩] } := by
        have none : ¬ s.tq.queue.any (fun q => q.notice.isTally) = true := fun any => by
          obtain ⟨q, m, kind⟩ := List.any_eq_true.1 any
          refine absent q m ?_
          cases notice : q.notice <;> simp [notice, Notice.isTally] at kind ⊢
        exact (if_neg none).trans (offer_admitted (admits_tally active) rfl room)
      rw [due]
      exact finish_settled _ settled

end Sys2Proof.HoldJoins

/-! PROOFS. The weather record (R99, R168 to R170): what an adoption changes, and the holds that join or leave with it. -/

namespace Sys2Proof.Machine

variable {b d : BedId} {s t u f : State} {r : HoldReason} {c : EndCause}

/-! ### A record change as an inner operation -/

/-- Inner operations run alike under another hold set. -/
theorem Inside.reheld (h : Inside s t) (x : Holds) : Inside { s with bc.holds := x } { t with bc.holds := x } :=
  { h with holds := .inl rfl }

/-- Inner operations run alike with another weather unit. -/
theorem Inside.rewatched (h : Inside s t) (p : ProbesWeather) : Inside { s with pw := p } { t with pw := p } :=
  { h with outer := congrArg (fun o : State => { o with pw := p }) h.outer }

/-- A reason is set or cleared: what the event does besides is inner work (R99, R100). -/
theorem inside_setHold (r : HoldReason) (v : Bool) (s : State) : Inside { s with bc.holds := s.bc.holds.put r v } (s.setHold r v) := by
  cases v with
  | true => exact HoldJoins.inside_join s
  | false => exact HoldJoins.inside_leave s

theorem settling_setHold (r : HoldReason) (v : Bool) (s : State) : Settling s (s.setHold r v) := by
  cases v with
  | true => exact settling_joinHold r s
  | false => exact settling_leaveHold r s

theorem hold_setHold (r : HoldReason) (ne : r ≠ .line) (v : Bool) (s : State) : (s.setHold r v).bc.holds.has r = v := by
  rw [(inside_setHold r v s).hold r ne]
  cases r <;> rfl

theorem hold_setHold_ne {q : HoldReason} (r : HoldReason) (ne : q ≠ .line) (other : q ≠ r) (v : Bool) (s : State) :
    (s.setHold r v).bc.holds.has q = s.bc.holds.has q := by
  rw [(inside_setHold r v s).hold q ne]
  cases r <;> cases q <;> first | rfl | exact absurd rfl other

/-- Notices of other sorts than CLAIM and SHED wait on while a reason joins or leaves. -/
theorem notices_setHold {q : Queued} (r : HoldReason) (v : Bool) (s : State) (m : q ∈ s.tq.queue) (claim : q.notice.isClaim = false)
    (shed : q.notice.isShed = false) : q ∈ (s.setHold r v).tq.queue := by
  cases v with
  | true =>
    change q ∈ (s.joinHold r).tq.queue
    by_cases present : s.bc.holds.has r = true
    · rw [joinHold_present present]
      exact m
    · exact (worked_joinHold (by simpa using present)).notices q m claim shed
  | false =>
    change q ∈ (s.leaveHold r).tq.queue
    unfold State.leaveHold
    split <;> exact m

/-! ### The weather holds (R99) -/

/-- Three reasons are set or cleared one after another. -/
def State.setHolds (x y z : Bool) (s : State) : State := ((s.setHold .rain x).setHold .defer y).setHold .freeze z

/-- RAIN by a record's contents (R99). -/
def State.rainy (k : Sky) (s : State) : Bool :=
  decide (0 < s.sl.setup.rainThreshold) && decide (10 * s.sl.setup.rainThreshold ≤ k.dayRain)

theorem weighWeather_fresh {k : Sky} (fresh : s.freshSky = some k) :
    s.weighWeather = s.setHolds (s.rainy k) (decide (4 ≤ k.recentRain)) (decide (k.temperature ≤ 4)) := by
  unfold State.weighWeather
  rw [fresh]
  rfl

theorem weighWeather_stale (stale : s.freshSky = none) : s.weighWeather = s.setHolds false false false := by
  unfold State.weighWeather
  rw [stale]
  rfl

theorem inside_setHolds (x y z : Bool) (s : State) : Inside { s with bc.holds := (s.setHolds x y z).bc.holds } (s.setHolds x y z) := by
  have rain := inside_setHold .rain x s
  have defer := inside_setHold .defer y (s.setHold .rain x)
  have freeze := inside_setHold .freeze z ((s.setHold .rain x).setHold .defer y)
  exact ((rain.reheld (s.setHolds x y z).bc.holds).trans (defer.reheld _)).trans (freeze.reheld (s.setHolds x y z).bc.holds)

/-- The three reasons follow the record, and no other than LINE is touched. -/
theorem holds_setHolds (x y z : Bool) (s : State) : (s.setHolds x y z).bc.holds.rain = x ∧ (s.setHolds x y z).bc.holds.defer = y
    ∧ (s.setHolds x y z).bc.holds.freeze = z ∧ (s.setHolds x y z).bc.holds.pause = s.bc.holds.pause
    ∧ (s.setHolds x y z).bc.holds.supply = s.bc.holds.supply := by
  have rain := hold_setHold .rain nofun x s
  have defer := hold_setHold .defer nofun y (s.setHold .rain x)
  have freeze := hold_setHold .freeze nofun z ((s.setHold .rain x).setHold .defer y)
  have keeps {q : HoldReason} (ne : q ≠ .line) (a : q ≠ .rain) (b : q ≠ .defer) (c : q ≠ .freeze) :
      (s.setHolds x y z).bc.holds.has q = s.bc.holds.has q :=
    (hold_setHold_ne .freeze ne c z _).trans ((hold_setHold_ne .defer ne b y _).trans (hold_setHold_ne .rain ne a x s))
  refine ⟨?_, ?_, freeze, keeps (q := .pause) nofun nofun nofun nofun, keeps (q := .supply) nofun nofun nofun nofun⟩
  · exact (hold_setHold_ne (q := .rain) .freeze nofun nofun z _).trans ((hold_setHold_ne (q := .rain) .defer nofun nofun y _).trans rain)
  · exact (hold_setHold_ne (q := .defer) .freeze nofun nofun z _).trans defer

theorem notices_setHolds {q : Queued} (x y z : Bool) (s : State) (m : q ∈ s.tq.queue) (claim : q.notice.isClaim = false)
    (shed : q.notice.isShed = false) : q ∈ (s.setHolds x y z).tq.queue :=
  notices_setHold .freeze z _ (notices_setHold .defer y _ (notices_setHold .rain x s m claim shed) claim shed) claim shed

/-! ### The day clock (R170) -/

/-- The weather unit with the clock set to a minute at this moment. -/
def State.clocked (m : Nat) (s : State) : ProbesWeather := { s.pw with minute := m, clockSet := true, secondSince := s.now }

theorem setClock_eq (m : Nat) (s : State) : s.setClock m = { s with pw := s.clocked m }
    ∨ s.setClock m = State.noteOccasion { s with pw := s.clocked m } := by
  unfold State.setClock
  dsimp only
  split
  · exact .inr rfl
  · exact .inl rfl

theorem inside_setClock (m : Nat) (s : State) : Inside { s with pw := s.clocked m } (s.setClock m) := by
  rcases setClock_eq m s with e | e <;> rw [e]
  · exact .refl _
  · exact inside_noteOccasion _

/-- The clock follows this minute. -/
def State.follows (m : Nat) (s : State) : Prop := m ≤ 1439 ∧ (s.pw.clockSet = false ∨ 1 < minuteDistance m s.pw.minute)

theorem followMinute_pw (m : Nat) (s : State) :
    (s.follows m → (s.followMinute m).pw = s.clocked m) ∧ (¬ s.follows m → s.followMinute m = s) := by
  refine ⟨fun h => ?_, fun h => if_neg h⟩
  rw [show s.followMinute m = s.setClock m from if_pos h, (inside_setClock m s).pw]

theorem inside_followMinute (m : Nat) (s : State) : Inside { s with pw := (s.followMinute m).pw } (s.followMinute m) := by
  by_cases h : s.follows m
  · have inside := inside_setClock m s
    rw [(followMinute_pw m s).1 h, show s.followMinute m = s.setClock m from if_pos h]
    exact inside
  · rw [(followMinute_pw m s).2 h]
    exact .refl s

theorem settling_followMinute (m : Nat) (s : State) : Settling s (s.followMinute m) := by
  unfold State.followMinute
  split
  · rcases setClock_eq m s with e | e <;> rw [e] <;> exact settling_same rfl rfl rfl rfl
  · exact .refl s

theorem followMinute_rest (m : Nat) (s : State) : (s.followMinute m).tq = s.tq ∧ (s.followMinute m).bc.holds = s.bc.holds := by
  unfold State.followMinute
  split
  · rcases setClock_eq m s with e | e <;> rw [e] <;> exact ⟨rfl, rfl⟩
  · exact ⟨rfl, rfl⟩

/-! ### Adoption (R168) -/

/-- The state with a record received now. -/
def State.recorded (k : Sky) (source : Nat) (s : State) : State := { s with pw.weather := some ⟨k, source, s.now⟩ }

/-- The holds judged on a record received now. -/
def State.judged (k : Sky) (source : Nat) (s : State) : State :=
  (s.recorded k source).setHolds (s.rainy k) (decide (4 ≤ k.recentRain)) (decide (k.temperature ≤ 4))

theorem adopt_eq (k : Sky) (source : Nat) (s : State) :
    s.adopt k source = { (s.judged k source).followMinute k.minute with pw.staleNoted := false } := by
  have fresh : (s.recorded k source).freshSky = some k := by
    have age : s.now - s.now ≤ Config.recordStale := by simp
    exact if_pos age
  unfold State.adopt State.judged
  dsimp only
  rw [← show (s.recorded k source).rainy k = s.rainy k from rfl, ← weighWeather_fresh fresh]
  rfl

/-- The weather unit after an adoption (R168, R170). -/
theorem adopt_pw (k : Sky) (source : Nat) (s : State) :
    (s.follows k.minute → (s.adopt k source).pw = { s.pw with
      weather := some ⟨k, source, s.now⟩, minute := k.minute, clockSet := true, secondSince := s.now, staleNoted := false })
    ∧ (¬ s.follows k.minute → (s.adopt k source).pw = { s.pw with weather := some ⟨k, source, s.now⟩, staleNoted := false }) := by
  have inside := inside_setHolds (s.rainy k) (decide (4 ≤ k.recentRain)) (decide (k.temperature ≤ 4)) (s.recorded k source)
  have pw : (s.judged k source).pw = { s.pw with weather := some ⟨k, source, s.now⟩ } := inside.pw
  have now : (s.judged k source).now = s.now := inside.now
  have same : (s.judged k source).follows k.minute ↔ s.follows k.minute := by
    unfold State.follows
    rw [pw]
  obtain ⟨follows, stays⟩ := followMinute_pw k.minute (s.judged k source)
  refine ⟨fun h => ?_, fun h => ?_⟩
  · have eq := follows (same.2 h)
    rw [adopt_eq]
    change { ((s.judged k source).followMinute k.minute).pw with staleNoted := false } = _
    rw [eq, State.clocked, pw, now]
  · rw [adopt_eq, stays (mt same.1 h)]
    change { (s.judged k source).pw with staleNoted := false } = _
    rw [pw]

theorem inside_adopt (k : Sky) (source : Nat) (s : State) :
    Inside { s with bc.holds := (s.adopt k source).bc.holds, pw := (s.adopt k source).pw } (s.adopt k source) := by
  have judges := inside_setHolds (s.rainy k) (decide (4 ≤ k.recentRain)) (decide (k.temperature ≤ 4)) (s.recorded k source)
  have follows := inside_followMinute k.minute (s.judged k source)
  have holds : ((s.judged k source).followMinute k.minute).bc.holds = (s.judged k source).bc.holds := (followMinute_rest ..).2
  rw [adopt_eq]
  refine Inside.trans (t := { s.judged k source with
    pw := { ((s.judged k source).followMinute k.minute).pw with staleNoted := false } }) ?_ ?_
  · rw [show ({ (s.judged k source).followMinute k.minute with pw.staleNoted := false } : State).bc.holds = (s.judged k source).bc.holds from holds]
    exact judges.rewatched _
  · exact follows.rewatched { ((s.judged k source).followMinute k.minute).pw with staleNoted := false }

theorem holds_adopt (k : Sky) (source : Nat) (s : State) : (s.adopt k source).bc.holds = (s.judged k source).bc.holds := by
  rw [adopt_eq]
  exact (followMinute_rest ..).2

theorem settling_adopt (k : Sky) (source : Nat) (s : State) : Settling (s.judged k source) (s.adopt k source) := by
  rw [adopt_eq]
  exact (settling_followMinute ..).trans (settling_same rfl rfl rfl rfl)

/-! ### DEFER joins (R80, R100) -/

theorem aside_leaveHold (r : HoldReason) (b : BedId) (s : State) : Aside b s (s.leaveHold r) := by
  unfold State.leaveHold
  split
  · exact aside_same rfl rfl rfl
  · exact .refl ..

/-- DEFER cuts no cycle. -/
theorem aside_joinDefer (cycling : (s.bed b).state.cycling = true) : Aside b s (s.joinHold .defer) := by
  by_cases present : s.bc.holds.has .defer = true
  · rw [joinHold_present present]
    exact .refl ..
  · obtain ⟨x, -, before, -, after⟩ := joinHold_at (r := .defer) (s := s) (by simpa using present) b
    have still : x.holdBed .defer b = x := by
      rw [holdBed_cycling (by rw [before.bed, cycling])]
      rfl
    rw [still] at after
    exact before.trans after

theorem aside_setDefer (cycling : (s.bed b).state.cycling = true) (v : Bool) : Aside b s (s.setHold .defer v) := by
  cases v with
  | true => exact aside_joinDefer cycling
  | false => exact aside_leaveHold ..

theorem claimHeld_leaveHold (h : ClaimHeld s) (r : HoldReason) : ClaimHeld (s.leaveHold r) := by
  unfold State.leaveHold
  split <;> exact h

theorem claimHeld_setHold (r : HoldReason) (v : Bool) (s : State) (h : ClaimHeld s) : ClaimHeld (s.setHold r v) := by
  cases v with
  | true =>
    by_cases present : s.bc.holds.has r = true
    · change ClaimHeld (s.joinHold r)
      rwa [joinHold_present present]
    · exact claimHeld_joinHold (by simpa using present) h
  | false => exact claimHeld_leaveHold h r

/-- The claim is none of SEVERE urgency. -/
def State.mild (s : State) : Prop := s.sb.claim.urgency ≠ .severe

theorem mild_withdraw (h : s.mild) : s.withdraw.mild := by
  have cancels (p : Notice → Bool) {s : State} (h : s.mild) : (s.cancel p).mild := by rwa [State.mild, cancel_sb]
  unfold State.withdraw
  split
  · exact h
  · exact h
  · dsimp only
    split
    · exact cancels _ h
    · exact nofun
  · exact h
  · exact h
  · dsimp only
    have drops : (State.cancel Notice.isShed { s with sb.claim := { s.sb.claim with outcome := some .drop } }).mild := cancels _ h
    split
    · exact drops
    · exact drops

theorem mild_holdBed (h : s.mild) (r : HoldReason) (d : BedId) : (s.holdBed r d).mild := by
  by_cases cycling : (s.bed d).state.cycling = true
  · rw [holdBed_cycling cycling]
    split
    · rwa [State.mild, (bedwise_endCycle d _ s).claim (ne_claiming_of_cycling cycling)]
    · exact h
  · by_cases claiming : (s.bed d).state = .claiming
    · rw [holdBed_claiming claiming]
      split
      · exact h
      · unfold State.mild State.withdrawToWaiting
        rw [toWaiting_sb]
        exact mild_withdraw h
    · rwa [holdBed_calm ⟨by simpa using cycling, claiming⟩]

/-- Where DEFER joins beside a claim that is not SEVERE, no bed stays in CLAIMING. -/
theorem joinDefer_unclaims (absent : s.bc.holds.defer = false) (mild : s.mild) (b : BedId) : ((s.joinHold .defer).bed b).state ≠ .claiming := by
  obtain ⟨x, keeps, before, -, after⟩ := forBeds_at (b := b) (f := State.holdBed .defer) (R := fun s t => s.mild → t.mild) (fun _ => id)
    (fun _ _ _ h k m => k (h m)) (fun d _ h => mild_holdBed h .defer d) (fun d ne s => aside_holdBed (Ne.symm ne) .defer s)
    { s with bc.holds := s.bc.holds.put .defer true }
  rw [joinHold_absent (r := .defer) absent]
  change ((State.forBeds (State.holdBed .defer) { s with bc.holds := s.bc.holds.put .defer true }).bed b).state ≠ .claiming
  rw [after.bed]
  by_cases claiming : (x.bed b).state = .claiming
  · rw [holdBed_claiming claiming, if_neg (not_and.2 fun _ => keeps mild)]
    exact (toWaiting_calm ..).2
  · by_cases cycling : (x.bed b).state.cycling = true
    · rw [holdBed_cycling cycling]
      exact claiming
    · rw [holdBed_calm ⟨by simpa using cycling, claiming⟩]
      exact claiming

/-- With DEFER in the set and no bed in CLAIMING, an event can offer a SEVERE bed alone (R64, R99). -/
theorem severe_finish (defer : s.bc.holds.defer = true) (unclaimed : ∀ b, (s.bed b).state ≠ .claiming) (claiming : (s.finish.bed b).state = .claiming) :
    (s.finish.bed b).urgency = .severe := by
  obtain ⟨w, worked, ends⟩ := finish_work s
  have before := worked.unclaimed b (unclaimed b)
  rcases ends with alerts | alerts
  · rw [alerts.bed] at claiming
    exact absurd claiming before
  · rw [alerts.bed] at claiming ⊢
    unfold State.weighOccasion at claiming ⊢
    split at claiming
    · rename_i ready
      rw [if_pos ready]
      split at claiming
      · rename_i d found
        have eligible := List.find?_some (p := fun b => w.eligible b) found
        by_cases same : b = d
        · subst same
          have severe : (w.bed b).urgency = .severe := by
            have held : w.bc.holds.defer = true := by
              rcases worked.holds with e | e <;> rw [e] <;> exact defer
            simp only [State.eligible, Bool.and_eq_true, Bool.not_eq_true'] at eligible
            have allows := eligible.1.1.1.2
            by_contra other
            simp [Holds.forbids, held, other] at allows
          rcases (offered_offerBed (waiting_of_find found)).beds b with eq | ⟨-, eq⟩ <;> rw [eq] <;> exact severe
        · have aside : (w.offerBed d).bed b = w.bed b := (aside_moveBed same .claiming _).bed.trans (offer_bed ..)
          rw [aside] at claiming
          exact absurd claiming before
      · exact absurd claiming before
    · exact absurd claiming before

/-! ### What an adoption stops (R80, R81, R100, R120) -/

section Adoption

variable {k : Sky} {source : Nat}

/-- RAIN or FREEZE joins with the record. -/
def State.stops (k : Sky) (s : State) : Prop :=
  (s.bc.holds.rain = false ∧ s.rainy k = true) ∨ (s.bc.holds.freeze = false ∧ k.temperature ≤ 4)

theorem mute_adopt (joins : s.stops k) : (s.adopt k source).mute := by
  have holds := holds_setHolds (s.rainy k) (decide (4 ≤ k.recentRain)) (decide (k.temperature ≤ 4)) (s.recorded k source)
  rcases joins with ⟨-, rain⟩ | ⟨-, freeze⟩
  · refine mute_of_has (r := .rain) nofun ?_
    rw [holds_adopt]
    exact holds.1.trans rain
  · refine mute_of_has (r := .freeze) nofun ?_
    rw [holds_adopt]
    exact holds.2.2.1.trans (by simpa using freeze)

theorem stopped_adopt (like : ∀ b, Aside b s f) (claim : f.sb.claim = s.sb.claim) (joins : f.stops k) : Stopped .hold s (f.adopt k source).finish := by
  have mute := mute_adopt (source := source) joins
  have held (sound : ClaimSound s) : ClaimHeld (f.recorded k source) := claimHeld_of_sound claim (fun b => (like b).bed) sound
  have recorded (b : BedId) : Aside b s (f.recorded k source) := (like b).trans (aside_same rfl rfl rfl)
  have judged := settling_adopt k source f
  by_cases rain : f.bc.holds.rain = false ∧ f.rainy k = true
  · obtain ⟨absent, rainy⟩ := rain
    have settles : Settling ((f.recorded k source).joinHold .rain) (f.adopt k source) := by
      refine Settling.trans ?_ judged
      unfold State.judged State.setHolds
      rw [rainy]
      exact (settling_setHold ..).trans (settling_setHold ..)
    obtain ⟨rests, sound⟩ := stopped_join (r := .rain) (fun b _ => recorded b) held absent rfl settles mute settleLaps
    exact ⟨rests, fun claim => ⟨(sound claim).1, (sound claim).2.1, (sound claim).2.2 ⟨nofun, nofun, nofun⟩⟩⟩
  · obtain ⟨absent, cold⟩ := joins.resolve_left rain
    have dry (b : BedId) : Aside b (f.recorded k source) ((f.recorded k source).setHold .rain (f.rainy k)) := by
      cases rainy : f.rainy k with
      | false => exact aside_leaveHold ..
      | true =>
        have present : (f.recorded k source).bc.holds.has .rain = true := Bool.eq_true_of_not_eq_false fun e => rain ⟨e, rainy⟩
        change Aside b _ ((f.recorded k source).joinHold .rain)
        rw [joinHold_present present]
        exact .refl ..
    have settles : Settling ((((f.recorded k source).setHold .rain (f.rainy k)).setHold .defer (decide (4 ≤ k.recentRain))).joinHold .freeze)
        (f.adopt k source) := by
      refine Settling.trans ?_ judged
      unfold State.judged State.setHolds
      rw [decide_eq_true cold]
      exact .refl _
    have before (b : BedId) (cycling : (s.bed b).state.cycling = true) :
        Aside b s (((f.recorded k source).setHold .rain (f.rainy k)).setHold .defer (decide (4 ≤ k.recentRain))) := by
      have first := (recorded b).trans (dry b)
      exact first.trans (aside_setDefer (by rw [first.bed, cycling]) _)
    have unfrozen : (((f.recorded k source).setHold .rain (f.rainy k)).setHold .defer (decide (4 ≤ k.recentRain))).bc.holds.has .freeze = false :=
      (hold_setHold_ne (q := .freeze) .defer nofun nofun _ _).trans ((hold_setHold_ne (q := .freeze) .rain nofun nofun _ _).trans absent)
    obtain ⟨rests, sound⟩ := stopped_join (r := .freeze) before (fun sound => claimHeld_setHold _ _ _ (claimHeld_setHold _ _ _ (held sound)))
      unfrozen rfl settles mute settleLaps
    exact ⟨rests, fun claim => ⟨(sound claim).1, (sound claim).2.1, (sound claim).2.2 ⟨nofun, nofun, nofun⟩⟩⟩

/-- Where DEFER joins beside a claim that is not SEVERE, a bed in CLAIMING is SEVERE at the end of the event. -/
theorem severe_adopt (mild : s.mild) (absent : s.bc.holds.defer = false) (wet : 4 ≤ k.recentRain)
    (claiming : ((s.adopt k source).finish.bed b).state = .claiming) : ((s.adopt k source).finish.bed b).urgency = .severe := by
  by_cases joins : s.stops k
  · exact absurd claiming ((stopped_adopt (s := s) (fun b => .refl b s) rfl joins).rests b).2.2
  · have dry : ((s.recorded k source).setHold .rain (s.rainy k)).sb = s.sb := by
      cases rainy : s.rainy k with
      | false =>
        change ((s.recorded k source).leaveHold .rain).sb = s.sb
        unfold State.leaveHold
        split <;> rfl
      | true =>
        have present : (s.recorded k source).bc.holds.has .rain = true := Bool.eq_true_of_not_eq_false fun e => joins (.inl ⟨e, rainy⟩)
        change ((s.recorded k source).joinHold .rain).sb = s.sb
        rw [joinHold_present present]
        rfl
    have mild' : ((s.recorded k source).setHold .rain (s.rainy k)).mild := by rwa [State.mild, dry]
    have unheld : ((s.recorded k source).setHold .rain (s.rainy k)).bc.holds.defer = false :=
      (hold_setHold_ne (q := .defer) .rain nofun nofun _ _).trans absent
    have out := joinDefer_unclaims unheld mild'
    have settles : Settling (((s.recorded k source).setHold .rain (s.rainy k)).joinHold .defer) (s.adopt k source) := by
      refine Settling.trans ?_ (settling_adopt k source s)
      unfold State.judged State.setHolds
      rw [decide_eq_true wet]
      exact settling_setHold ..
    refine severe_finish ?_ (fun b => settles.unclaimed b (out b)) claiming
    rw [holds_adopt]
    exact (holds_setHolds ..).2.1.trans (decide_eq_true wet)

end Adoption

end Sys2Proof.Machine

/-! PROOFS. SKY of a peer, the day clock, and the station's own SKY and stale record (R165 to R170). -/

namespace Sys2Proof.SkyAndClock

open Sys2Proof.Machine FramesAndOrders PeerEntries PeerNotices HoldJoins

variable {s t u f : State} {src : Nat} {k : Sky}

/-! ### SKY of a peer (R168) -/

theorem adopts_iff : s.adopts src = true ↔ s.pw.weather = none
    ∨ ∃ r, s.pw.weather = some r ∧ (src ≤ r.source ∨ 15 * 720000 < s.now - r.receipt) := by
  unfold State.adopts
  split
  · rename_i e
    simp [e]
  · rename_i r e
    simp only [e, Bool.or_eq_true, decide_eq_true_eq, reduceCtorEq, Option.some.injEq, exists_eq_left', false_or]
    rfl

theorem follows_iff {m : Nat} : s.follows m ↔ m ≤ 1439 ∧ (s.pw.clockSet = false
    ∨ (max m s.pw.minute - min m s.pw.minute > 1 ∧ max m s.pw.minute - min m s.pw.minute < 1439)) := by
  unfold State.follows minuteDistance
  refine and_congr_right fun _ => or_congr_right ?_
  dsimp only
  omega

/-- What an adoption leaves of the weather unit and of the holds at the end of its event. -/
theorem adopt_finish (k : Sky) (src : Nat) (f : State) : let t := (f.adopt k src).finish
    t.pw = (f.adopt k src).pw ∧ t.bc.holds.rain = f.rainy k ∧ t.bc.holds.defer = decide (4 ≤ k.recentRain)
      ∧ t.bc.holds.freeze = decide (k.temperature ≤ 4) := by
  intro t
  have inside := inside_finish (f.adopt k src)
  obtain ⟨rain, defer, freeze, -⟩ := holds_setHolds (f.rainy k) (decide (4 ≤ k.recentRain)) (decide (k.temperature ≤ 4)) (f.recorded k src)
  have holds := holds_adopt k src f
  refine ⟨inside.pw, ?_, ?_, ?_⟩
  · exact (inside.hold .rain nofun).trans ((congrArg Holds.rain holds).trans rain)
  · exact (inside.hold .defer nofun).trans ((congrArg Holds.defer holds).trans defer)
  · exact (inside.hold .freeze nofun).trans ((congrArg Holds.freeze holds).trans freeze)

/-- Settles O23. -/
theorem skyIsAdoptedByItsSource : Obligations.SkyIsAdoptedByItsSource := by
  intro src tgt k s hears fits
  refine ⟨_, rfl, ?_⟩
  rw [fits, hand_hears src tgt 7 11 hears]
  have moment := frameTaken_now src 11 s
  have pw := frameTaken_pw src 11 s
  have bc := frameTaken_bc src 11 s
  have own := frameTaken_own src 11 s
  have claim := frameTaken_claim src 11 s
  have peers : (s.frameTaken src 11).peers = s.peers := by rw [State.peers, frameTaken_book, own]; rfl
  have like (b : BedId) := aside_frame src 11 b s
  generalize s.frameTaken src 11 = f at moment pw bc own claim peers like ⊢
  have rainy : f.rainy k = (decide (0 < s.sl.setup.rainThreshold) && decide (10 * s.sl.setup.rainThreshold ≤ k.dayRain)) := by
    rw [State.rainy, own]
  cases adopts : f.adopts src with
  | false =>
    rw [if_neg nofun]
    have inside := inside_finish f
    have keeps (r : HoldReason) (ne : r ≠ .line) : f.finish.bc.holds.has r = s.bc.holds.has r := by rw [inside.hold r ne, bc]
    have rain := keeps .rain nofun
    have defer := keeps .defer nofun
    have freeze := keeps .freeze nofun
    refine ⟨inside.now.trans moment, fun takes => ?_, fun joins => ?_, fun before after => ?_, fun _ _ _ _ => inside.pw.trans pw,
      inside.peers.trans peers⟩
    · rw [inside.now, ← pw] at takes
      rw [adopts_iff.2 takes] at adopts
      cases adopts
    · rcases joins with ⟨before, after⟩ | ⟨before, after⟩
      · exact absurd (before.symm.trans (rain.symm.trans after)) nofun
      · exact absurd (before.symm.trans (freeze.symm.trans after)) nofun
    · exact absurd (before.symm.trans (defer.symm.trans after)) nofun
  | true =>
    rw [if_pos rfl]
    have inside := inside_finish (f.adopt k src)
    have adopting := inside_adopt k src f
    have now : (f.adopt k src).finish.now = f.now := inside.now.trans adopting.now
    obtain ⟨unit, rain, defer, freeze⟩ := adopt_finish k src f
    obtain ⟨follows, stays⟩ := adopt_pw k src f
    refine ⟨now.trans moment, fun _ => ⟨?_, ?_, rain.trans rainy, defer, freeze, fun range clock => ?_, fun still => ?_⟩, fun joins => ?_,
      fun before after mild b claiming => ?_, fun r record less young => ?_, (inside.peers.trans adopting.peers).trans peers⟩
    · rw [unit, now]
      by_cases h : f.follows k.minute
      · rw [follows h]
      · rw [stays h]
    · rw [unit]
      by_cases h : f.follows k.minute
      · rw [follows h]
      · rw [stays h]
    · rw [unit, now, follows (follows_iff.2 ⟨range, by rw [pw]; exact clock⟩)]
      exact ⟨rfl, rfl, rfl⟩
    · have same : ¬ f.follows k.minute := by
        rw [follows_iff, pw]
        rintro ⟨range, clock⟩
        rcases still with late | ⟨set, near⟩
        · omega
        · rcases clock with unset | far
          · simp [set] at unset
          · omega
      rw [unit, stays same, pw]
      exact ⟨rfl, rfl, rfl⟩
    · have stops : f.stops k := by
        refine joins.imp (fun ⟨before, after⟩ => ⟨by rw [bc, before], rain.symm.trans after⟩) fun ⟨before, after⟩ => ⟨by rw [bc, before], ?_⟩
        exact of_decide_eq_true (freeze.symm.trans after)
      obtain ⟨rests, sound⟩ := stopped_adopt (source := src) like claim stops
      exact ⟨rests, sound⟩
    · exact severe_adopt (by rw [State.mild, claim]; exact mild) (by rw [bc]; exact before) (of_decide_eq_true (defer.symm.trans after)) claiming
    · rw [now] at young
      obtain e | ⟨x, e, k'⟩ := adopts_iff.1 adopts
      · rw [pw, record] at e
        cases e
      · rw [pw, record] at e
        obtain rfl := Option.some.inj e
        omega

/-! ### An order that the whole station takes (R103, R180) -/

/-- By number or by a group of the station, the order is its effect, and by number its answer. -/
theorem order_station {tgt sel : Nat} {kind : OrderKind} {act : State → State} (len : Nat) (hears : s.hearsOrder src)
    (passes : (s.frameTaken src len).sl.station.passes kind = true) (addressed : tgt = s.sl.own ∨ (tgt = 0 ∧ s.groupBeds sel ≠ none))
    (keeps : (act (s.frameTaken src len)).sl.own = s.sl.own) :
    s.order src tgt len (State.stationOrder tgt sel kind true act) = ((act (s.frameTaken src len)).answer tgt .ack).finish := by
  have own : s.sl.own ≠ 0 := hears.2.2.2
  rcases addressed with rfl | ⟨rfl, group⟩
  · rw [order_hears src len hears, stationOrder_taken own passes]
  · obtain ⟨l, group⟩ := Option.ne_none_iff_exists'.1 group
    have silent : (act (s.frameTaken src len)).answer 0 .ack = act (s.frameTaken src len) := if_neg (by rw [keeps]; exact Ne.symm own)
    rw [order_group src len hears, stationOrder_group passes ((frameTaken_groupBeds ..).trans group), silent]

theorem answer_line {tgt own sel : Nat} {x : Reply} (addressed : tgt = own ∨ (tgt = 0 ∧ s.groupBeds sel ≠ none)) (same : u.sl.own = own)
    (numbered : own ≠ 0) : (u.answer tgt x).li.answer = if tgt = 0 then u.li.answer else .waiting x := by
  subst same
  rcases addressed with rfl | ⟨rfl, -⟩
  · rw [answer_own, if_neg numbered]
  · rw [if_pos rfl]
    exact congrArg (fun f : State => f.li.answer) (if_neg (Ne.symm numbered))

/-! ### The day clock (R92, R170) -/

/-- A tick, with the boundaries that it makes. -/
theorem tickClock_eq (s : State) : ∃ o, s.tickClock = { s with
    now := max s.now (s.pw.secondSince + 720000)
    pw := { s.pw with minute := (s.pw.minute + 1) % 1440, secondSince := max s.now (s.pw.secondSince + 720000) }
    bc := { s.bc with due := s.bc.due ++ boundariesAt ((s.pw.minute + 1) % 1440), occasion := o } } := by
  unfold State.tickClock
  dsimp only
  split
  · exact ⟨true, rfl⟩
  · exact ⟨s.bc.occasion, rfl⟩

theorem boundariesAt_eq {m : Nat} (range : m < 1440) : boundariesAt ((m + 1) % 1440)
    = if (m + 1) % 1440 = 0 then [.day, .hour 0] else if (m + 1) % 60 = 0 then [.hour (m + 1)] else [] := by
  unfold boundariesAt
  by_cases last : (m + 1) % 1440 = 0
  · rw [if_pos last, if_pos last]
  · have same : (m + 1) % 1440 = m + 1 := Nat.mod_eq_of_lt (by omega)
    rw [if_neg last, if_neg last, same]

theorem answer_watched (p : ProbesWeather) (tgt : Nat) (x : Reply) (s : State) :
    { s with pw := p }.answer tgt x = { s.answer tgt x with pw := p } := by
  unfold State.answer
  split <;> rfl

/-- Settles O36. -/
theorem dayClockIsSetAndTicks : Obligations.DayClockIsSetAndTicks := by
  refine ⟨fun s clock range => ?_, fun src tgt sel m s hears passes top addressed => ?_⟩
  · obtain ⟨o, eq⟩ := tickClock_eq s
    suffices ∃ t, exec .dayClockTick s = .next t ∧ Inside s.tickClock t by
      obtain ⟨t, run, inside⟩ := this
      rw [eq] at inside
      have peers := inside.peers
      refine ⟨t, run, inside.now, ?_, ?_, peers, inside.core, inside.li, inside.sl⟩
      · rw [inside.pw, inside.now]
      · rw [inside.due, boundariesAt_eq range]
    cases live : s.live with
    | true => exact ⟨_, by simp only [exec, execDayClockTick, clock, live, if_true], inside_finish _⟩
    | false => exact ⟨_, by simp only [exec, execDayClockTick, clock, live, if_true, Bool.false_eq_true, if_false], .refl _⟩
  · have own : s.sl.own ≠ 0 := hears.2.2.2
    have frame : (s.frameTaken src 4).sl = s.sl := frameTaken_own ..
    have clocks : (s.frameTaken src 4).sl.station.passes .clock = true := by rw [frame, passes]
    have args : decide (m ≤ 1439) = true := decide_eq_true top
    have moment := frameTaken_now src 4 s
    have set := inside_setClock m (s.frameTaken src 4)
    have unit : (s.frameTaken src 4).clocked m = { s.pw with minute := m, clockSet := true, secondSince := s.frameEnd 4 } := by
      rw [State.clocked, frameTaken_pw, moment]
    rw [unit] at set
    have answered := (set.answered tgt .ack).trans (inside_finish _)
    rw [answer_watched] at answered
    have here (f : State) : (f.answer tgt .ack).now = f.now := by rw [answer_rest]
    have now : ((State.setClock m (s.frameTaken src 4)).answer tgt .ack).finish.now = s.frameEnd 4 := by
      rw [answered.now, ← moment]
      exact here _
    have setup : (State.setClock m (s.frameTaken src 4)).sl = s.sl := set.sl.trans frame
    refine ⟨_, rfl, ?_⟩
    rw [args, order_station 4 hears clocks addressed (congrArg SetupLoader.own setup), now]
    refine ⟨?_, rfl, ?_, answered.further⟩
    · rw [(inside_finish _).li]
      refine (answer_line addressed (congrArg SetupLoader.own setup) own).trans ?_
      rw [set.li]
      exact if_congr Iff.rfl (frameTaken_answer ..) rfl
    · rw [answered.pw]

/-! ### The station's own SKY (R24, R166, R167) -/

/-- What a SKY that falls due adopts: the queue with the SKY where it is admitted, and the moment of its admission. -/
def skyOffered (k : Sky) (s : State) : State :=
  { s.offer (.sky k) with pw := if s.admits (.sky k) then { s.pw with lastSky := some s.now } else s.pw }

theorem skyDue_known {x : Int} (known : s.pw.temperature = some x) : s.skyDue = (skyOffered (s.skyNow x) s).adopt (s.skyNow x) s.sl.own := by
  have rest := Overdraw.offer_rest (.sky (s.skyNow x)) s
  have pw : (s.offer (.sky (s.skyNow x))).pw = s.pw := by rw [rest]
  have now : (s.offer (.sky (s.skyNow x))).now = s.now := by rw [rest]
  have own : (s.offer (.sky (s.skyNow x))).sl.own = s.sl.own := by rw [rest]
  unfold State.skyDue skyOffered
  rw [known]
  dsimp only
  cases s.admits (.sky (s.skyNow x)) with
  | true => rw [if_pos rfl, if_pos rfl, pw, now, own]
  | false => rw [if_neg nofun, if_neg nofun, own, ← pw]

theorem skyDue_unknown (unknown : s.pw.temperature = none) : s.skyDue = s := by
  unfold State.skyDue
  rw [unknown]

theorem notices_adopt {q : Queued} (m : q ∈ s.tq.queue) (claim : q.notice.isClaim = false) (shed : q.notice.isShed = false) :
    q ∈ (s.adopt k src).tq.queue := by
  rw [adopt_eq]
  change q ∈ ((s.judged k src).followMinute k.minute).tq.queue
  rw [(followMinute_rest ..).1]
  exact notices_setHolds _ _ _ _ m claim shed

theorem notices_finish {q : Queued} (m : q ∈ s.tq.queue) (claim : q.notice.isClaim = false) (shed : q.notice.isShed = false) :
    q ∈ s.finish.tq.queue := by
  obtain ⟨w, worked, ends⟩ := finish_work s
  have kept := worked.notices q m claim shed
  rcases ends with alerts | alerts
  · exact alerts.mem_queue kept
  · obtain ⟨l, queue⟩ := (offered_weighOccasion w).waits
    exact alerts.mem_queue (by rw [queue]; exact List.mem_append_left _ kept)

/-- The unit after a SKY that fell due, at the end of its event. -/
theorem skyDue_pw {x : Int} (known : s.pw.temperature = some x) :
    s.skyDue.finish.pw.weather = some ⟨s.skyNow x, s.sl.own, s.now⟩
      ∧ s.skyDue.finish.pw.current = s.pw.current ∧ s.skyDue.finish.pw.complete = s.pw.complete
      ∧ s.skyDue.finish.pw.rainLevel = s.pw.rainLevel ∧ s.skyDue.finish.pw.rainSince = s.pw.rainSince
      ∧ s.skyDue.finish.pw.skySince = s.pw.skySince ∧ s.skyDue.finish.now = s.now
      ∧ (s.tq.queue.length < 6 → s.sl.station = .active → s.skyDue.finish.pw.lastSky = some s.now
          ∧ ∃ q ∈ s.skyDue.finish.tq.queue, q.notice = .sky (s.skyNow x)) := by
  have due := skyDue_known known
  have inside := inside_finish s.skyDue
  obtain ⟨follows, stays⟩ := adopt_pw (s.skyNow x) s.sl.own (skyOffered (s.skyNow x) s)
  have adopting := inside_adopt (s.skyNow x) s.sl.own (skyOffered (s.skyNow x) s)
  have now : (skyOffered (s.skyNow x) s).now = s.now := by
    unfold skyOffered
    rw [Overdraw.offer_rest]
  have moment : s.skyDue.now = s.now := by rw [due, adopting.now]; exact now
  have unit : ∃ m c y, s.skyDue.pw = { s.pw with
      weather := some ⟨s.skyNow x, s.sl.own, s.now⟩, minute := m, clockSet := c, secondSince := y, staleNoted := false
      lastSky := if s.admits (.sky (s.skyNow x)) then some s.now else s.pw.lastSky } := by
    have offered : (skyOffered (s.skyNow x) s).pw = { s.pw with
        lastSky := if s.admits (.sky (s.skyNow x)) then some s.now else s.pw.lastSky } := by
      unfold skyOffered
      cases s.admits (.sky (s.skyNow x)) <;> rfl
    rw [due]
    by_cases h : (skyOffered (s.skyNow x) s).follows (s.skyNow x).minute
    · rw [follows h, offered, now]
      exact ⟨_, _, _, rfl⟩
    · rw [stays h, offered, now]
      exact ⟨_, _, _, rfl⟩
  obtain ⟨m, c, y, unit⟩ := unit
  have final : s.skyDue.finish.pw = s.skyDue.pw := inside.pw
  rw [final, unit]
  refine ⟨rfl, rfl, rfl, rfl, rfl, rfl, inside.now.trans moment, fun room active => ?_⟩
  have admits : s.admits (.sky (s.skyNow x)) = true := by simp [State.admits, active, StationState.admits, room, Config.generalRoom]
  refine ⟨if_pos admits, ⟨.sky (s.skyNow x), 0, false⟩, ?_, rfl⟩
  rw [due]
  refine notices_finish (notices_adopt ?_ rfl rfl) rfl rfl
  change _ ∈ (s.offer (.sky (s.skyNow x))).tq.queue
  rw [offer_admitted (by rw [active]; rfl) rfl room]
  simp

/-- A tip that has been counted, before its SKY falls due. -/
def tipped (s : State) : State := { s with
  now := max s.now (s.pw.rainSince + 50 * 12)
  pw := { s.pw with rainLevel := false, rainSince := max s.now (s.pw.rainSince + 50 * 12), current := min (s.pw.current + 2) 65535 } }

theorem skyGapOver_iff : s.skyGapOver = true ↔ s.pw.lastSky = none ∨ ∃ y, s.pw.lastSky = some y ∧ y + 60 * 12000 ≤ s.now := by
  unfold State.skyGapOver
  split
  · rename_i e
    simp [e]
  · rename_i y e
    simp only [e, decide_eq_true_eq, reduceCtorEq, Option.some.injEq, exists_eq_left', false_or]
    rfl

/-- The record's condition holds from the stale moment on (R169). -/
theorem freshSky_stale (late : s.staleMoment ≤ s.now) : s.freshSky = none := by
  unfold State.freshSky
  unfold State.staleMoment at late
  split
  · rename_i r e
    rw [e] at late
    exact if_neg (by dsimp only at late; omega)
  · rfl

theorem staleCondition_late (late : s.staleMoment ≤ s.now) (live : s.live = true) : s.staleCondition = true := by
  unfold State.staleCondition
  unfold State.staleMoment at late
  split
  · rename_i r e
    rw [e] at late
    exact decide_eq_true (by dsimp only at late; omega)
  · rename_i e
    rw [e] at late
    rw [live, Bool.and_true]
    exact decide_eq_true late

/-- Once the record is stale the three weather holds leave, and STALE is pending to the end of the event. -/
theorem goStale_finish (late : s.staleMoment ≤ s.now) (live : s.live = true) : let t := s.goStale.finish
    t.now = s.now ∧ t.pw = { s.pw with staleNoted := true } ∧ (t.latch .stale).pending = true
      ∧ t.bc.holds.rain = false ∧ t.bc.holds.defer = false ∧ t.bc.holds.freeze = false
      ∧ t.bc.holds.pause = s.bc.holds.pause ∧ t.bc.holds.supply = s.bc.holds.supply := by
  intro t
  have left := inside_setHolds false false false { s with pw.staleNoted := true }
  obtain ⟨rain, defer, freeze, pause, supply⟩ := holds_setHolds false false false { s with pw.staleNoted := true }
  generalize e : State.setHolds false false false { s with pw.staleNoted := true } = w at left rain defer freeze pause supply
  have condition : w.condition .stale = true := by
    refine staleCondition_late ?_ ?_
    · unfold State.staleMoment
      rw [left.pw, left.sl, left.now]
      exact late
    · unfold State.live
      rw [left.sl]
      exact live
  have pends : s.goStale = w.setPending .stale (State.conditionBed .stale) (w.conditionValue .stale) := by
    unfold State.goStale
    rw [weighWeather_stale (freshSky_stale (s := { s with pw.staleNoted := true }) late), e]
    exact if_pos condition
  have tail : Inside w t := by
    change Inside w s.goStale.finish
    rw [pends]
    exact (inside_setPending ..).trans (inside_finish _)
  refine ⟨tail.now.trans left.now, tail.pw.trans left.pw, (inside_finish _).latched .stale ?_, (tail.hold .rain nofun).trans rain,
    (tail.hold .defer nofun).trans defer, (tail.hold .freeze nofun).trans freeze, (tail.hold .pause nofun).trans pause,
    (tail.hold .supply nofun).trans supply⟩
  rw [pends, State.latch_setPending_same]

/-- Settles O38: each event is one counted tip, one SKY that falls due, or the stale record, followed through its end. -/
theorem rainSkyAndStaleRecord : Obligations.RainSkyAndStaleRecord := by
  refine ⟨fun s live source => ⟨fun high => ?_, fun settled low => ?_⟩, fun s live => ⟨fun x k since known => ?_, fun fresh => ?_⟩,
    fun x s => ⟨rfl, rfl, rfl, rfl, rfl, ?_, rfl⟩⟩
  · have run : exec .rainTip s = .next (if (tipped s).skyGapOver then (tipped s).skyDue else tipped s).finish := by
      simp only [exec, execRainTip, State.take, live, source, high, if_true, Bool.and_self]
      rfl
    refine ⟨_, run, ?_⟩
    cases gap : (tipped s).skyGapOver with
    | false =>
      have shut := mt skyGapOver_iff.2 (by simp [gap] : ¬ (tipped s).skyGapOver = true)
      rw [if_neg nofun]
      have inside := inside_finish (tipped s)
      have pw : (tipped s).finish.pw = (tipped s).pw := inside.pw
      have now : (tipped s).finish.now = (tipped s).now := inside.now
      rw [pw, now]
      refine ⟨rfl, rfl, rfl, rfl, rfl, fun _ _ _ => rfl, fun x known open' => ?_, fun _ => ⟨rfl, rfl⟩⟩
      exact absurd open' shut
    | true =>
      have open' := skyGapOver_iff.1 gap
      rw [if_pos rfl]
      cases known : s.pw.temperature with
      | none =>
        have due : (tipped s).skyDue = tipped s := skyDue_unknown known
        rw [due]
        have inside := inside_finish (tipped s)
        have pw : (tipped s).finish.pw = (tipped s).pw := inside.pw
        have now : (tipped s).finish.now = (tipped s).now := inside.now
        rw [pw, now]
        exact ⟨rfl, rfl, rfl, rfl, rfl, fun _ _ _ => rfl, nofun, fun _ => ⟨rfl, rfl⟩⟩
      | some x =>
        obtain ⟨weather, current, complete, level, lowSince, -, now, sent⟩ := skyDue_pw (s := tipped s) (x := x) known
        refine ⟨now, current, level, lowSince.trans now.symm, complete, fun y last early => ?_, fun z same _ => ?_, nofun⟩
        · rw [now] at early
          rcases open' with e | ⟨y', e, past⟩
          · exact absurd (last.symm.trans e) nofun
          · obtain rfl := Option.some.inj (last.symm.trans e)
            omega
        · obtain rfl := Option.some.inj same
          rw [now, current]
          exact ⟨weather, rfl, fun room active _ => sent room active⟩
  · have run : exec .rainFilteredLevelChange s = .next (State.finish { s with
        now := max s.now (s.pw.rainSince + 50 * 12), pw.rainLevel := true, pw.rainSince := max s.now (s.pw.rainSince + 50 * 12) }) := by
      simp only [exec, execRainFilteredLevelChange, State.take, live, source, low, if_true, Bool.not_false, Bool.and_self]
      rfl
    exact ⟨_, run, finish_settled _ settled⟩
  · have run : exec .skyTimerExpiry s = .next (State.skyDue { s with
        now := max s.now (x + 5 * 720000), pw.skySince := some (max s.now (x + 5 * 720000)) }).finish := by
      simp only [exec, execSkyTimerExpiry, State.take, live, since, if_true]
      rfl
    obtain ⟨weather, -, -, -, -, next, now, sent⟩ := skyDue_pw (x := k) (s := { s with
      now := max s.now (x + 5 * 720000), pw.skySince := some (max s.now (x + 5 * 720000)) }) known
    refine ⟨_, run, now, next.trans (congrArg some now.symm), ?_, fun room active _ => ?_⟩
    · rw [now]
      exact weather
    · rw [now]
      exact (sent room active).2
  · have run : exec .weatherRecordStale s = .next (s.advanceTo s.staleMoment).goStale.finish := by
      simp only [exec, execWeatherRecordStale, State.take, live, fresh, if_true]
      rfl
    refine ⟨_, run, ?_⟩
    exact goStale_finish (s := s.advanceTo s.staleMoment) (le_max_right ..) live
  · rfl

end Sys2Proof.SkyAndClock

/-! PROOFS. The own transmissions (R13, R15, R31 to R33, R67, R69 to R76): collisions, completions, and the claim on the line. -/

namespace Sys2Proof.Machine

variable {b d : BedId} {s t u : State} {n : Nat}

/-! ### The head notice's run of collisions (R14)

No work inside an event lets it rise; a notice that is cancelled takes it back to 0. -/

/-- A run of 0 is 0 still. -/
def RunStays (s t : State) : Prop := s.tq.headRun = 0 → t.tq.headRun = 0

theorem runStays_of_eq (h : t.tq.headRun = s.tq.headRun) : RunStays s t := fun e => h.trans e

theorem RunStays.trans (h : RunStays s t) (k : RunStays t u) : RunStays s u := fun e => k (h e)

theorem runStays_ite {p : Prop} [Decidable p] (h : p → RunStays s t) (k : ¬ p → RunStays s u) : RunStays s (if p then t else u) := by
  split
  · exact h ‹_›
  · exact k ‹_›

theorem runStays_foldl {α : Type} {f : State → α → State} (keeps : ∀ s a, RunStays s (f s a)) (l : List α) (s : State) :
    RunStays s (l.foldl f s) := by
  induction l generalizing s with
  | nil => exact id
  | cons a l ih => exact (keeps s a).trans (ih _)

theorem runStays_offer (n : Notice) (s : State) : RunStays s (s.offer n) := runStays_of_eq (offer_headRun n s)

theorem runStays_cancel (p : Notice → Bool) (s : State) : RunStays s (s.cancel p) := by
  intro e
  unfold State.cancel
  split
  · unfold State.modHead
    split <;> exact e
  · split
    · split
      · rfl
      · exact e
    · exact e

theorem runStays_endClaim (s : State) : RunStays s s.endClaim := by
  rw [endClaim_eq]
  refine runStays_of_eq ?_
  rw [Overdraw.remove_rest]
  exact offer_headRun ..

theorem runStays_toWaiting (d : BedId) (n : Nat) (s : State) : RunStays s (s.toWaiting d n) :=
  runStays_of_eq (bedwise_resting (resting_toWaiting d n s)).headRun

theorem runStays_dropClaim (s : State) : RunStays s s.dropClaim :=
  (runStays_endClaim s).trans (runStays_ite (fun _ => runStays_toWaiting _ _ _) fun _ => id)

theorem runStays_withdraw (s : State) : RunStays s s.withdraw := by
  unfold State.withdraw
  split
  · exact id
  · exact id
  · exact (runStays_cancel Notice.isClaim s).trans (runStays_ite (fun _ => id) fun _ => id)
  · exact runStays_endClaim s
  · exact runStays_endClaim s
  · have ends : RunStays s (State.cancel Notice.isShed { s with sb.claim.outcome := some .drop }) := fun e => runStays_cancel Notice.isShed _ e
    exact ends.trans (runStays_ite (fun _ => id) fun _ => runStays_endClaim _)

theorem runStays_holdBed (r : HoldReason) (d : BedId) (s : State) : RunStays s (s.holdBed r d) := by
  unfold State.holdBed
  split
  · split <;> first | exact id | exact runStays_of_eq (bedwise_endCycle ..).headRun
  · split <;> first | exact id | exact runStays_of_eq (bedwise_endCycle ..).headRun
  · split <;> first | exact id | exact runStays_of_eq (bedwise_endCycle ..).headRun
  · exact runStays_ite (fun _ => id) fun _ => (runStays_withdraw s).trans (runStays_toWaiting d 0 _)
  all_goals exact id

theorem runStays_joinHold (r : HoldReason) (s : State) : RunStays s (s.joinHold r) :=
  runStays_ite (fun _ => id) fun _ => runStays_foldl (fun s b => runStays_holdBed r b s) allBeds { s with bc.holds := s.bc.holds.put r true }

theorem runStays_raise (c : Cause) (bed value peer kind one two : Nat) (s : State) : RunStays s (s.raise c bed value peer kind one two) :=
  runStays_of_eq (by rw [raise_same])

theorem runStays_ownCommitted (s : State) : RunStays s s.ownCommitted :=
  runStays_ite (fun _ => (runStays_joinHold .line s).trans (runStays_raise _ _ _ _ _ _ _ _)) fun _ => id

theorem runStays_cut (d : BedId) (c : EndCause) (s : State) : RunStays s (s.cut d c) := runStays_of_eq (bedwise_cut d c s).headRun

theorem runStays_commitClaim (s : State) : RunStays s s.commitClaim := by
  rw [commitClaim_eq]
  have committing : RunStays s s.committing := fun e => runStays_offer (.commit s.sb.claim.bed) _ e
  refine (committing.trans (runStays_of_eq ?_)).trans (runStays_ownCommitted _)
  rw [(driveOnly_openRequest ..).tq]
  rfl

theorem runStays_shedClaim (s : State) : RunStays s s.shedClaim := by
  unfold State.shedClaim
  split
  · exact runStays_dropClaim s
  · rename_i e _
    refine runStays_ite (fun _ => ?_) fun _ => ?_
    · rw [shedOwn_eq]
      split
      · exact fun e => runStays_cut _ .shed _ e
      · exact id
    · rw [shedPeer_eq]
      exact fun e => runStays_offer _ _ e

theorem runStays_resolve (s : State) : RunStays s s.resolve :=
  runStays_ite (fun _ => runStays_commitClaim s) fun _ => runStays_ite (fun _ => runStays_shedClaim s) fun _ => runStays_dropClaim s

theorem runStays_applyHeld (s : State) : RunStays s s.applyHeld := by
  unfold State.applyHeld
  split
  · exact fun e => runStays_resolve { s with sb.claim.outcome := none } e
  · exact runStays_endClaim s
  · exact id

theorem runStays_victimLeaves (s : State) : RunStays s s.victimLeaves := by
  unfold State.victimLeaves
  split
  · exact runStays_resolve s
  · have cancels : RunStays s (State.cancel Notice.isShed { s with sb.claim.outcome := some .reResolve }) := fun e => runStays_cancel Notice.isShed _ e
    exact cancels.trans (runStays_ite (fun _ => id) fun _ => runStays_applyHeld _)
  all_goals exact id

theorem runStays_report (s : State) : RunStays s s.report := by
  rw [report_eq]
  split
  · exact runStays_ite (fun _ => runStays_resolve s.relisted) fun _ => id
  · exact runStays_ite (fun _ => runStays_victimLeaves s.relisted) fun _ => id
  · exact runStays_ite (fun _ => runStays_victimLeaves s.relisted) fun _ => id
  all_goals exact id

theorem runStays_cutOver (e : Entry) (s : State) : RunStays s (s.cutOver e) := by
  refine runStays_ite (fun _ => ?_) fun _ => id
  split
  · exact runStays_cut _ _ s
  · exact id

theorem runStays_bookSteps (s : State) : RunStays s s.bookSteps := by
  have cuts : RunStays s (State.overdraw { s with sb.dirty := false }) := runStays_foldl (fun s e => runStays_cutOver e s) _ { s with sb.dirty := false }
  have clears (u : State) : RunStays u u.clearSaturated := runStays_ite (fun _ => id) fun _ => id
  exact (cuts.trans (clears _)).trans (runStays_report _)

theorem runStays_settleBook (n : Nat) (s : State) : RunStays s (s.settleBook n) := by
  induction n generalizing s with
  | zero => exact id
  | succ n ih => exact runStays_ite (fun _ => (runStays_bookSteps s).trans (ih _)) fun _ => id

theorem runStays_weighOccasion (s : State) : RunStays s s.weighOccasion := by
  refine runStays_ite (fun _ => ?_) fun _ => id
  split
  · exact fun e => runStays_offer _ _ e
  · exact id

/-- At the end of an event the run is 0 where the event left it at 0. -/
theorem runStays_finish (s : State) : RunStays s s.finish := by
  have settles : RunStays s s.settle := (runStays_settleBook settleLaps s).trans (runStays_ite (fun _ e => runStays_weighOccasion _ e) fun _ => id)
  exact settles.trans (runStays_of_eq (afterAlerts_offerAlerts s.settle).headRun)

/-! ### An event that ends the claim -/

/-- The rest of an event whose claim has ended: cycles are cut, and no bed without one changes. -/
structure Spent (s t : State) : Prop extends Worked s t where
  ended : t.sb.claim.phase = .ending
  rests : ∀ b, (s.bed b).state.cycling = false → Aside b s t
  tail : ∃ l, t.tq.queue = s.tq.queue ++ l

namespace Spent

theorem refl (h : s.sb.claim.phase = .ending) : Spent s s := ⟨.refl s, h, fun b _ => .refl b s, [], (List.append_nil _).symm⟩

theorem trans (h : Spent s t) (k : Spent t u) : Spent s u where
  toWorked := h.toWorked.trans k.toWorked
  ended := k.ended
  rests b e := (h.rests b e).trans (k.rests b (by rw [(h.rests b e).bed, e]))
  tail := by
    obtain ⟨l, e⟩ := h.tail
    obtain ⟨m, f⟩ := k.tail
    exact ⟨l ++ m, by rw [f, e, List.append_assoc]⟩

end Spent

theorem spent_bookSteps (h : s.sb.claim.phase = .ending) : Spent s s.bookSteps := by
  have cuts := cutting_checked s
  have ended : s.checked.sb.claim.phase = .ending := by rw [cuts.sameClaim, h]
  obtain ⟨l, queue, -⟩ := cuts.tail
  rw [bookSteps_eq, report_idle (.inr (.inr ended))]
  refine ⟨(cuts.toWorked.trans (worked_relisted _)).trans (worked_noteOccasion _), ended, fun b e => ?_, l, queue⟩
  exact (cuts.rests b e).trans (aside_same rfl rfl rfl)

theorem spent_settleBook (n : Nat) (h : s.sb.claim.phase = .ending) : Spent s (s.settleBook n) := by
  induction n generalizing s with
  | zero => exact .refl h
  | succ n ih =>
    unfold State.settleBook
    split
    · exact (spent_bookSteps h).trans (ih (spent_bookSteps h).ended)
    · exact .refl h

theorem spent_finish (h : s.sb.claim.phase = .ending) : ∃ w, Spent s w ∧ AfterAlerts w s.finish := by
  have laps := spent_settleBook settleLaps h
  refine ⟨{ s.settleBook settleLaps with sb.dirty := false, bc.occasion := false }, laps.trans ⟨worked_marks _ _ _, laps.ended, fun b _ => aside_same rfl rfl rfl, [], (List.append_nil _).symm⟩, ?_⟩
  rw [finish_eq]
  exact ends_flight settleLaps (by rw [laps.ended]; nofun)

end Sys2Proof.Machine

namespace Sys2Proof.LineTransmissions

open Sys2Proof.Machine FramesAndOrders ClaimTimers HoldJoins
open EdgesAndOffers (offer_essential)

variable {s t u a : State} {h : Queued} {q : List Queued}

/-! ### The ends of a claim (R71, R75, R76) -/

theorem admits_drop (b : BedId) {x : StationState} (h : x = .active ∨ x = .barred) : x.admits (.drop b) = true := by
  rcases h with e | e <;> rw [e] <;> rfl

theorem endClaim_queue (admits : s.sl.station = .active ∨ s.sl.station = .barred) :
    s.endClaim.tq.queue = s.tq.queue ++ [⟨.drop s.sb.claim.bed, 0, false⟩] := by
  rw [endClaim_eq, Overdraw.remove_rest, offer_essential rfl (admits_drop _ admits)]

/-- A claim that ends: its DROP follows what waits, its entry is gone, and no bed out of a cycle changes. -/
theorem endClaim_finish (admits : s.sl.station = .active ∨ s.sl.station = .barred) : let t := s.endClaim.finish
    t.sb.claim.phase = .ending ∧ t.hasEntry s.sl.own s.sb.claim.bed.val = false
      ∧ (∃ l, t.tq.queue = s.tq.queue ++ ⟨.drop s.sb.claim.bed, 0, false⟩ :: l)
      ∧ ∀ b, (s.bed b).state.cycling = false → t.bed b = s.bed b := by
  intro t
  have ended : s.endClaim.sb.claim.phase = .ending := by rw [endClaim_phase]; rfl
  obtain ⟨w, spent, alerts⟩ := spent_finish ended
  refine ⟨?_, ?_, ?_, fun b rests => ?_⟩
  · exact (congrArg (fun x => x.claim.phase) alerts.sb).trans spent.ended
  · refine Overdraw.hasEntry_of_inside (inside_finish s.endClaim) ?_
    exact hasEntry_endClaim s
  · obtain ⟨l, laps⟩ := spent.tail
    obtain ⟨m, last⟩ := alerts.queue
    exact ⟨l ++ m, by rw [show t = s.endClaim.finish from rfl, last, laps, endClaim_queue admits]; simp⟩
  · rw [show t = s.endClaim.finish from rfl, alerts.bed, (spent.rests b (by rw [endClaim_bed, rests])).bed, endClaim_bed]

/-- An ended claim takes nothing from the queue. -/
theorem endClaim_waits (s : State) : ∃ l, s.endClaim.finish.tq.queue = s.tq.queue ++ l := by
  obtain ⟨w, spent, alerts⟩ := spent_finish (s := s.endClaim) (by rw [endClaim_phase]; rfl)
  obtain ⟨k, first⟩ := offer_waits (.drop s.sb.claim.bed) s
  have queue : s.endClaim.tq.queue = s.tq.queue ++ k := by
    rw [endClaim_eq, Overdraw.remove_rest]
    exact first
  obtain ⟨l, laps⟩ := spent.tail
  obtain ⟨m, last⟩ := alerts.queue
  exact ⟨k ++ l ++ m, by rw [last, laps, queue]; simp⟩

/-- A claim that drops: as it ends, and its bed waits with its backoff. -/
theorem dropClaim_finish (like : ForClaim a s) (active : a.sl.station = .active) : let t := s.dropClaim.finish
    t.sb.claim.phase = .ending ∧ t.hasEntry a.sl.own a.sb.claim.bed.val = false
      ∧ (∃ l, t.tq.queue = s.tq.queue ++ ⟨.drop a.sb.claim.bed, 0, false⟩ :: l) ∧ Dropped a t := by
  intro t
  have dropped : Dropped a t := dropClaim_ends like active s.dropClaim.bc.occasion settleLaps
  have here : s.sl.station = .active := by rw [like.sl, active]
  have ended : s.dropClaim.sb.claim.phase = .ending := by rw [dropClaim_phase]; rfl
  obtain ⟨w, spent, alerts⟩ := spent_finish ended
  refine ⟨dropped.phase, dropped.gone, ?_, dropped⟩
  have queue : s.dropClaim.tq.queue = s.tq.queue ++ [⟨.drop a.sb.claim.bed, 0, false⟩] := by
    have tq : s.dropClaim.tq = s.endClaim.tq := by
      unfold State.dropClaim
      dsimp only
      split
      · exact (resting_toWaiting ..).tq
      · rfl
    rw [tq, endClaim_queue (.inl here), like.bed]
  obtain ⟨l, laps⟩ := spent.tail
  obtain ⟨m, last⟩ := alerts.queue
  exact ⟨l ++ m, by rw [show t = s.dropClaim.finish from rfl, last, laps, queue]; simp⟩

theorem noSheds_tail (sound : s.tq.queue.countP (fun x => x.notice.isShed) ≤ 1) (queue : s.tq.queue = h :: q) (shed : h.notice.isShed = true) :
    ∀ x ∈ q, x.notice.isShed = false := by
  rw [queue, List.countP_cons_of_pos (p := fun x : Queued => x.notice.isShed) shed] at sound
  have none : q.countP (fun x => x.notice.isShed) = 0 := by omega
  intro x m
  simpa using List.countP_eq_zero.1 none x m

/-- The SHED has left the queue while its claim's victim was gone: the claim is resolved on the book of that moment (R76). -/
theorem applyHeld_resolves (phase : u.sb.claim.phase = .asking) (outcome : u.sb.claim.outcome = some .reResolve) (active : a.sl.station = .active)
    (like : ForClaim a { u with sb.claim.outcome := none }) (live : a.sb.claim.live = true) (rests : ClaimSound a → u.noSheds) :
    Resolved a u.applyHeld.finish := by
  have held : u.applyHeld = State.resolve { u with sb.claim.outcome := none } := by
    unfold State.applyHeld
    rw [outcome]
  rw [held]
  exact resolved_finish like (not_inert_of_asking (c := { u.sb.claim with outcome := none }) phase nofun) active rests live

/-! ### Collisions (R13, R14, R33) -/

/-- The state after a collision whose notice stays. -/
def collided (s : State) : State :=
  { s with li.attempt := none, li.idleSince := s.now, au.collisions := min (s.au.collisions + 1) 255, tq.headRun := s.tq.headRun + 1 }

/-- LINE with its fault, at the eighth collision of a notice. -/
def runRaised (s : State) : State := if s.tq.headRun = 7 then (collided s).raise .line 15 8 0 s.headKind 8 s.lossSeconds else collided s

theorem raiseRun_eq (s : State) : State.raiseRun (State.countCollision { s with li.attempt := none, li.idleSince := s.now }) = runRaised s := by
  unfold State.raiseRun State.countCollision runRaised
  dsimp only
  by_cases h : s.tq.headRun = 7
  · rw [if_pos (by rw [h]), if_pos h, h]
    unfold collided
    rw [h]
    rfl
  · rw [if_neg (by omega), if_neg h]
    rfl

theorem runRaised_rest (s : State) : runRaised s = { collided s with au := (runRaised s).au } := by
  unfold runRaised
  split
  · rw [raise_same]
  · rfl

/-- The line released by a collision that takes its notice with it. -/
def parted (q : List Queued) (u : AlertUnit) (s : State) : State :=
  { s with li.attempt := none, li.idleSince := s.now, au := u, tq.queue := q, tq.headRun := 0 }

theorem runRaised_collisions (s : State) : (runRaised s).au.collisions = min (s.au.collisions + 1) 255 := by
  unfold runRaised
  split
  · exact (inside_raise .line 15 8 0 s.headKind 8 s.lossSeconds (collided s)).collisions
  · rfl

theorem collide_kept (queue : s.tq.queue = h :: q) (kept : h.cancelled = false) : s.collide = runRaised s := by
  unfold State.collide
  rw [raiseRun_eq, runRaised_rest]
  unfold State.dropCancelled collided
  dsimp only
  rw [queue]
  dsimp only
  rw [kept]
  rfl

theorem collide_parted (queue : s.tq.queue = h :: q) (cancelled : h.cancelled = true) :
    s.collide = (parted q (runRaised s).au s).leftCancelled h.notice := by
  unfold State.collide
  rw [raiseRun_eq, runRaised_rest]
  unfold State.dropCancelled collided
  dsimp only
  rw [queue]
  dsimp only
  rw [cancelled]
  rfl

theorem leftCancelled_claim {n : Notice} (claim : n.isClaim = true) (s : State) : s.leftCancelled n = s.clearClaim := if_pos claim

theorem leftCancelled_shed {n : Notice} (shed : n.isShed = true) (s : State) : s.leftCancelled n = s.applyHeld := by
  cases n <;> first | rfl | exact absurd shed nofun

theorem leftCancelled_other {n : Notice} (claim : n.isClaim = false) (shed : n.isShed = false) (s : State) : s.leftCancelled n = s := by
  unfold State.leftCancelled
  rw [claim, shed]
  rfl

theorem runStays_leftCancelled (n : Notice) (s : State) : RunStays s (s.leftCancelled n) :=
  runStays_ite (fun _ => id) fun _ => runStays_ite (fun _ => runStays_applyHeld s) fun _ => id

/-- A claim that is cleared may be followed by another's offer, and by nothing else. -/
theorem clearClaim_finish (clean : s.sb.dirty = false) : let t := s.clearClaim.finish
    (t.sb.claim.phase = .none ∨ t.sb.claim.phase = .sending) ∧ (∃ l, t.tq.queue = s.tq.queue ++ l) ∧ t.sb.book = s.sb.book := by
  intro t
  have offered : Offered s.clearClaim t := offered_finish clean
  refine ⟨?_, offered.waits, offered.book⟩
  rcases offered.claim with e | e
  · exact .inr e
  · rw [e]
    exact .inl rfl

/-- The outcome held for a SHED that has left, where it is a drop. -/
theorem applyHeld_drops (outcome : s.sb.claim.outcome = some .drop) : s.applyHeld = s.endClaim := by
  unfold State.applyHeld
  rw [outcome]

theorem applyHeld_none (outcome : s.sb.claim.outcome = none) : s.applyHeld = s := by
  unfold State.applyHeld
  rw [outcome]

theorem held_station (sound : ClaimSound s) (held : s.sb.claim.outcome.isSome = true) : s.sl.station = .active ∨ s.sl.station = .barred := by
  by_contra c
  obtain ⟨active, barred⟩ := not_or.1 c
  exact absurd ((sound.held held).symm.trans (sound.offered active barred)) nofun

/-- The claim of a held resolution may commit, in ACTIVE. -/
theorem held_live (sound : ClaimSound s) (outcome : s.sb.claim.outcome = some .reResolve) :
    s.sb.claim.phase = .asking ∧ s.sb.claim.live = true ∧ s.sl.station = .active := by
  have asking : s.sb.claim.phase = .asking := sound.held (by rw [outcome]; rfl)
  have live : s.sb.claim.live = true := by
    rw [Claim.live, asking, outcome]
    rfl
  exact ⟨asking, live, active_of_live sound live⟩

/-- Settles O11: a collision either keeps its notice, or parts with a cancelled one, and the claim exchange takes the claim's or the SHED's. -/
theorem collisionKeepsTheNotice : Obligations.CollisionKeepsTheNotice := by
  intro h q a s settled live attempt receiver queue
  have run : exec .collision s = .next s.collide.finish := by
    simp only [exec, execCollision, live, attempt, receiver, Option.isSome_some, decide_true, Bool.and_self, if_true]
  refine ⟨fun kept => ⟨_, run, ?_⟩, fun cancelled => ⟨_, run, ?_⟩⟩
  · rw [collide_kept queue kept]
    refine ⟨fun early => ?_, fun eighth => ?_⟩
    · rw [show runRaised s = collided s from if_neg early]
      exact finish_settled _ settled
    · have raised : runRaised s = (collided s).raise .line 15 8 0 s.headKind 8 s.lossSeconds := if_pos eighth
      have same := raise_same .line 15 8 0 s.headKind 8 s.lossSeconds (collided s)
      have alerts : AfterAlerts (runRaised s) (runRaised s).finish := finish_settled _ (by rw [runRaised_rest]; exact settled)
      obtain ⟨pending, bed, value⟩ := alerts.2.2 .line nofun
      obtain ⟨l, tail⟩ := alerts.queue
      rw [raised] at alerts pending bed value tail ⊢
      rw [raise_pending] at pending bed value
      refine ⟨?_, pending, value, bed, ⟨l, ?_⟩, ?_, fun none => ?_, fun locked => ?_⟩
      · rw [alerts.headRun, same]
        exact congrArg (· + 1) eighth
      · rw [tail, same]
        exact congrArg (· ++ l) queue
      · rw [alerts.li, same]
        rfl
      · rw [alerts.record, raise_record .line 15 8 0 s.headKind 8 s.lossSeconds (s := collided s) none, State.headKind, queue]
        rfl
      · obtain ⟨f, held⟩ := Option.ne_none_iff_exists'.1 locked
        obtain ⟨record, more⟩ := raise_locked .line 15 8 0 s.headKind 8 s.lossSeconds (s := collided s) held
        rw [alerts.record, alerts.more, record, held]
        exact ⟨rfl, more⟩
  · rw [collide_parted queue cancelled]
    have inside := (inside_leftCancelled h.notice (parted q (runRaised s).au s)).trans (inside_finish _)
    refine ⟨?_, ?_, ?_, ?_, ?_, fun kind => ?_, fun claim => ?_, fun shed drop sound => ?_, fun shed again sound => ?_, fun claim shed early => ?_⟩
    · rw [inside.li]; rfl
    · rw [inside.li]; rfl
    · rw [inside.li]; rfl
    · exact runStays_finish _ (runStays_leftCancelled h.notice (parted q (runRaised s).au s) rfl)
    · rw [inside.collisions]
      exact runRaised_collisions s
    · cases claim : h.notice.isClaim with
      | true =>
        rw [leftCancelled_claim claim]
        exact (clearClaim_finish (s := parted q (runRaised s).au s) settled.1).2.1
      | false =>
        cases shed : h.notice.isShed with
        | false =>
          rw [leftCancelled_other claim shed]
          exact (offered_finish (s := parted q (runRaised s).au s) settled.1).waits
        | true =>
          rw [leftCancelled_shed shed]
          cases outcome : s.sb.claim.outcome with
          | none =>
            rw [applyHeld_none (s := parted q (runRaised s).au s) outcome]
            exact (offered_finish (s := parted q (runRaised s).au s) settled.1).waits
          | some o =>
            cases o with
            | reResolve => exact absurd outcome (kind.resolve_right (by rw [shed]; nofun))
            | drop =>
              rw [applyHeld_drops (s := parted q (runRaised s).au s) outcome]
              exact endClaim_waits (parted q (runRaised s).au s)
    · rw [leftCancelled_claim claim]
      exact (clearClaim_finish (s := parted q (runRaised s).au s) settled.1).1
    · rw [leftCancelled_shed shed, applyHeld_drops (s := parted q (runRaised s).au s) drop]
      have station := held_station sound (by rw [drop]; rfl)
      obtain ⟨phase, -, ⟨l, tail⟩, -⟩ := endClaim_finish (s := parted q (runRaised s).au s) station
      exact ⟨phase, _, by rw [tail]; exact List.mem_append_right _ List.mem_cons_self, rfl⟩
    · rw [leftCancelled_shed shed]
      obtain ⟨asking, able, active⟩ := held_live sound again
      refine applyHeld_resolves (a := { s with tq.queue := q }) (u := parted q (runRaised s).au s) asking again active
        ⟨rfl, rfl, rfl, rfl, rfl, rfl, rfl, rfl, rfl, rfl, rfl, rfl, rfl⟩ able fun _ => ?_
      exact noSheds_tail sound.sheds queue shed
    · rw [leftCancelled_other claim shed, runRaised, if_neg early]
      exact finish_settled (parted q (collided s).au s) settled

end Sys2Proof.LineTransmissions

/-! PROOFS. The own completions (R9, R15, R31 to R33, R67, R69 to R76): the claim on the line, COMMIT and DROP, and the SHED. -/

namespace Sys2Proof.Machine

variable {s t u : State}

/-! ### The occasion mark does not reach what an operation does -/

theorem setPending_marked (o : Bool) (c : Cause) (bed value : Nat) (s : State) :
    (s.marked o).setPending c bed value = (s.setPending c bed value).marked o := by
  unfold State.setPending
  dsimp only
  rw [apply_ite (State.marked o)]
  exact if_congr Iff.rfl rfl rfl

theorem offer_marked (o : Bool) (n : Notice) (s : State) : (s.marked o).offer n = (s.offer n).marked o := by
  unfold State.offer
  rw [apply_ite (State.marked o), apply_ite (State.marked o), setPending_marked]
  exact if_congr Iff.rfl rfl (if_congr Iff.rfl rfl rfl)

theorem remove_marked (o : Bool) (st bd : Nat) (s : State) : (s.marked o).remove st bd = (s.remove st bd).marked o := by
  unfold State.remove
  rw [apply_ite (State.marked o)]
  exact if_congr Iff.rfl rfl rfl

theorem insert_marked (o : Bool) (e : Entry) (s : State) : (s.marked o).insert e = (s.insert e).marked o := by
  have skips : (s.marked o).skipInsertion = s.skipInsertion.marked o :=
    setPending_marked o .saturated 15 s.sb.book.length { s with sb.saturated := true }
  unfold State.insert
  rw [apply_ite (State.marked o), apply_ite (State.marked o), skips]
  exact if_congr Iff.rfl rfl (if_congr Iff.rfl rfl rfl)

theorem endClaim_marked (o : Bool) (s : State) : (s.marked o).endClaim = s.endClaim.marked o := by
  rw [endClaim_eq, endClaim_eq, offer_marked]
  have removes := remove_marked o s.sl.own s.sb.claim.bed.val (s.offer (.drop s.sb.claim.bed))
  rw [show (s.marked o).sl = s.sl from rfl, show (s.marked o).sb = s.sb from rfl, removes]
  rfl

theorem setWaiting_marked (o : Bool) (b : BedId) (n : Nat) (s : State) : (s.marked o).setWaiting b n = s.setWaiting b n := rfl

theorem dropClaim_marked (o : Bool) (s : State) : ∃ p, (s.marked o).dropClaim = s.dropClaim.marked p := by
  let b := s.sb.claim.bed
  let n := dropBackoff s.sb.claim.urgency
  have drops : (s.marked o).dropClaim
      = if (s.endClaim.bed b).state = .claiming then (s.endClaim.marked o).toWaiting b n else s.endClaim.marked o := by
    unfold State.dropClaim
    rw [endClaim_marked]
    rfl
  have same : s.dropClaim = if (s.endClaim.bed b).state = .claiming then s.endClaim.toWaiting b n else s.endClaim := rfl
  rw [drops, same]
  by_cases claiming : (s.endClaim.bed b).state = .claiming
  · refine ⟨(s.endClaim.toWaiting b n).bc.occasion, ?_⟩
    rw [if_pos claiming, if_pos claiming, State.toWaiting, setWaiting_marked]
    rfl
  · exact ⟨o, by rw [if_neg claiming, if_neg claiming]⟩

theorem inside_marked (o : Bool) (s : State) : Inside s (s.marked o) := (worked_marked o s).toInside

/-! ### The own CLAIM on the line (R67) -/

/-- The entry of the own claim as its CLAIM completes. -/
def State.claimEntry (s : State) : Entry :=
  ⟨s.sl.own, s.sb.claim.bed.val, s.sb.claim.flow, s.sb.claim.urgency, false, s.sb.claim.age, s.now⟩

/-- The claim's entry is placed, and the claim waits for its senior set. -/
def State.contesting (s : State) : State := { s with
  sb.book := s.sb.book ++ [s.claimEntry], sb.dirty := true
  sb.claim := { s.sb.claim with phase := .resolving, seniors := s.seniorSet, resolveSince := some s.now } }

theorem claimOnLine_eq (s : State) : s.claimOnLine = if s.sb.claim.withdrawn then (s.insert s.claimEntry).endClaim
    else if !(s.insert s.claimEntry).hasEntry (s.insert s.claimEntry).sl.own s.sb.claim.bed.val then (s.insert s.claimEntry).dropClaim
    else { s.insert s.claimEntry with
      sb.claim.phase := .resolving, sb.claim.seniors := s.seniorSet, sb.claim.resolveSince := some s.now } := rfl

theorem claimOnLine_withdrawn (withdrawn : s.sb.claim.withdrawn = true) : s.claimOnLine = (s.insert s.claimEntry).endClaim := by
  rw [claimOnLine_eq, withdrawn]
  rfl

theorem claimOnLine_room (stands : s.sb.claim.withdrawn = false) (absent : s.hasEntry s.sl.own s.sb.claim.bed.val = false)
    (room : s.sb.book.length < 32) : s.claimOnLine = s.contesting := by
  have placed : s.insert s.claimEntry = s.putBook (s.sb.book ++ [s.claimEntry]) := PeerNotices.insert_room absent room
  have entered : (s.putBook (s.sb.book ++ [s.claimEntry])).hasEntry s.sl.own s.sb.claim.bed.val = true :=
    List.any_eq_true.2 ⟨s.claimEntry, List.mem_append_right _ (List.mem_singleton.2 rfl), by simp [Entry.named, State.claimEntry]⟩
  rw [claimOnLine_eq, stands, placed]
  refine (if_neg nofun).trans ((if_neg ?_).trans rfl)
  rw [show (s.putBook (s.sb.book ++ [s.claimEntry])).sl = s.sl from rfl, entered]
  nofun

theorem claimOnLine_full (stands : s.sb.claim.withdrawn = false) (absent : s.hasEntry s.sl.own s.sb.claim.bed.val = false)
    (full : 32 ≤ s.sb.book.length) : s.claimOnLine = s.skipInsertion.dropClaim := by
  have skipped : s.insert s.claimEntry = s.skipInsertion := PeerNotices.insert_full absent full
  have out : s.skipInsertion.hasEntry s.skipInsertion.sl.own s.sb.claim.bed.val = false := by
    rw [PeerNotices.skipInsertion_eq]
    exact absent
  rw [claimOnLine_eq, stands, skipped, out]
  rfl

theorem claimOnLine_marked (o : Bool) (s : State) : ∃ p, (s.marked o).claimOnLine = s.claimOnLine.marked p := by
  have placed := insert_marked o s.claimEntry s
  rw [claimOnLine_eq, claimOnLine_eq, show (s.marked o).claimEntry = s.claimEntry from rfl, placed, show (s.marked o).sb = s.sb from rfl]
  by_cases withdrawn : s.sb.claim.withdrawn = true
  · rw [if_pos withdrawn, if_pos withdrawn]
    exact ⟨o, endClaim_marked ..⟩
  · rw [if_neg withdrawn, if_neg withdrawn]
    by_cases out : (!(s.insert s.claimEntry).hasEntry (s.insert s.claimEntry).sl.own s.sb.claim.bed.val) = true
    · rw [if_pos out]
      obtain ⟨p, same⟩ := dropClaim_marked o (s.insert s.claimEntry)
      exact ⟨p, (if_pos out).trans same⟩
    · rw [if_neg out]
      exact ⟨o, (if_neg out).trans rfl⟩

/-! ### A claim that waits for a senior (R67, R68) -/

/-- The claim waits for a senior of the book, with its own one entry there and its bed out of every cycle. -/
structure Contesting (c : Claim) (e p : Entry) (s : State) : Prop where
  phase : s.sb.claim.phase = .resolving
  since : s.sb.claim.resolveSince = c.resolveSince
  still : ∀ b, bedOf e.bed = some b → (s.bed b).state.cycling = false
  entry : e ∈ s.sb.book
  only : ∀ x ∈ s.sb.book, x.named e.station e.bed = true → x = e
  peer : p.station ≠ s.sl.own
  pends : p.committed = false
  waits : p ∈ s.sb.book
  senior : (p.station, p.bed) ∈ s.sb.claim.seniors

variable {c : Claim} {e p : Entry}

theorem contesting_lap (h : Contesting c e p s) : Contesting c e p s.bookSteps := by
  have cuts := cutting_checked s
  have waits : p ∈ s.checked.sb.book := cuts.keeps p h.waits fun b own => absurd own h.peer
  have named : p.named p.station p.bed = true := by simp [Entry.named]
  have live : (p.station, p.bed) ∈ s.checked.liveSeniors :=
    List.mem_filter.2 ⟨by rw [cuts.sameClaim]; exact h.senior, List.any_eq_true.2 ⟨p, waits, by simp [named, h.pends]⟩⟩
  have phase : s.checked.sb.claim.phase = .resolving := by rw [cuts.sameClaim, h.phase]
  have report : s.checked.report = s.checked.relisted := by
    rw [report_eq, phase]
    exact if_neg fun none => by rw [List.isEmpty_iff.1 none] at live; cases live
  rw [bookSteps_eq, report]
  refine ⟨phase, (congrArg Claim.resolveSince cuts.sameClaim).trans h.since, fun b bed => ?_, ?_, fun x m => h.only x (cuts.sub.subset m), ?_, h.pends, waits, live⟩
  · exact (congrArg (fun x : Bed => x.state.cycling) (cuts.rests b (h.still b bed)).bed).trans (h.still b bed)
  · exact cuts.keeps e h.entry fun b _ bed => h.still b bed
  · exact fun same => h.peer (same.trans (congrArg SetupLoader.own cuts.sl))

theorem contesting_laps (n : Nat) (h : Contesting c e p s) : Contesting c e p (s.settleBook n) := by
  induction n generalizing s with
  | zero => exact h
  | succ n ih =>
    unfold State.settleBook
    split
    · exact ih (contesting_lap h)
    · exact h

/-- The book with one entry of a name finds it by that name. -/
theorem find_only {book : List Entry} {st bd : Nat} (m : e ∈ book) (named : e.named st bd = true) (only : ∀ x ∈ book, x.named st bd = true → x = e) :
    book.find? (fun x => x.named st bd) = some e := by
  cases found : book.find? (fun x => x.named st bd) with
  | none => exact absurd named (by simpa using List.find?_eq_none.1 found e m)
  | some x => rw [only x (List.mem_of_find?_eq_some found) (List.find?_some (p := fun x : Entry => x.named st bd) found)]

theorem contesting_finish (h : Contesting c e p s) :
    s.finish.sb.claim.phase = .resolving ∧ s.finish.sb.claim.resolveSince = c.resolveSince ∧ s.finish.entry e.station e.bed = some e := by
  have last := contesting_laps settleLaps h
  have alerts := ends_flight settleLaps (by rw [last.phase]; nofun)
  rw [finish_eq, State.entry, alerts.sb]
  exact ⟨last.phase, last.since, find_only last.entry (by simp [Entry.named]) last.only⟩

/-! ### A PENDING entry does not weigh in the overdraw check (R53) -/

theorem overEntries_append (pends : e.committed = false) (budget sum : Nat) (book : List Entry) :
    overEntries budget sum (book ++ [e]) = overEntries budget sum book := by
  induction book generalizing sum with
  | nil => simp [overEntries, pends]
  | cons x book ih =>
    rw [List.cons_append, overEntries, overEntries, ih, ih, ← List.cons_append, List.filter_append]
    simp [pends]

theorem contesting_cutsNothing (h : s.cutsNothing) : s.contesting.cutsNothing := by
  rintro e b ⟨m, own, bed⟩
  refine h e b ⟨?_, own, bed⟩
  rwa [show s.contesting.sb.book = s.sb.book ++ [s.claimEntry] from rfl, overEntries_append rfl] at m

end Sys2Proof.Machine

namespace Sys2Proof.LineTransmissions

open Sys2Proof.Machine FramesAndOrders ClaimTimers HoldJoins

variable {s t u : State} {h : Queued} {q : List Queued} {a : Attempt}

/-! ### Completions (R15) -/

/-- The line after a completion at this moment, with the head gone: yielding, the loss timer, the run, the LINE hold. -/
def sent (ends : Nat) (q : List Queued) (l : LineInterface) (s : State) : State := { s with
  now := ends, tq.queue := q, tq.headRun := 0, bc.holds := s.bc.holds.put .line false
  li := { l with attempt := none, yielding := true, lossSince := ends } }

theorem leaveHold_line (s : State) : s.leaveHold .line
    = State.marked (s.bc.holds.line || s.bc.occasion) { s with bc.holds := s.bc.holds.put .line false } := by
  unfold State.leaveHold
  cases line : s.bc.holds.line with
  | true => exact if_pos line
  | false =>
    refine (if_neg (by rw [show s.bc.holds.has .line = s.bc.holds.line from rfl, line]; nofun)).trans ?_
    have holds : s.bc.holds.put .line false = s.bc.holds := by
      rw [← line]
      rfl
    rw [holds]
    rfl

/-- A completion whose notice has no slot of its own: the receiver takes the slot, and the producer learns of it. -/
theorem complete_other (slot : Option SlotByte) (queue : s.tq.queue = h :: q) (shed : h.notice.isShed = false) :
    let ends := max s.now (a.start + 50 * a.bytes.length)
    s.complete a slot = State.onLine h.notice
      ((sent ends q { s.li with rx := .slot, slotSince := ends } s).marked (s.bc.holds.line || s.bc.occasion)) := by
  intro ends
  have completed : State.popHead (State.completed { s.advanceTo (attemptEnd a) with
      li.rx := .slot, li.slotSince := (s.advanceTo (attemptEnd a)).now })
      = (sent ends q { s.li with rx := .slot, slotSince := ends } s).marked (s.bc.holds.line || s.bc.occasion) := by
    unfold State.completed
    rw [leaveHold_line]
    unfold State.popHead State.marked sent State.advanceTo attemptEnd
    dsimp only
    rw [queue]
    rfl
  unfold State.complete
  rw [queue]
  dsimp only
  rw [completed]
  cases kind : h.notice <;> first | rfl | exact absurd (kind ▸ shed) nofun

theorem completes_run (slot : Option SlotByte) (live : s.live = true) (attempt : s.li.attempt = some a) :
    exec (.transmissionCompletes slot) s = .next (s.complete a slot).finish := by
  simp only [exec, execTransmissionCompletes, attempt, live, if_true]

/-! ### The own CLAIM on the line (R67) -/

theorem insert_keeps (e : Entry) (s : State) :
    (s.insert e).tq = s.tq ∧ (s.insert e).sl = s.sl ∧ (s.insert e).sb.claim = s.sb.claim := by
  unfold State.insert
  split
  · exact ⟨rfl, rfl, rfl⟩
  · split
    · exact ⟨rfl, rfl, rfl⟩
    · rw [PeerNotices.skipInsertion_eq]
      exact ⟨rfl, rfl, rfl⟩

theorem mem_seniorSet {st bd : Nat} : (st, bd) ∈ s.seniorSet
    ↔ ∃ e ∈ s.sb.book, e.station = st ∧ e.bed = bd ∧ st ≠ s.sl.own ∧ e.committed = false := by
  simp only [State.seniorSet, List.mem_map, List.mem_filter, Prod.mk.injEq, Bool.and_eq_true, bne_iff_ne, ne_eq, Bool.not_eq_true']
  constructor
  · rintro ⟨e, ⟨m, other, pends⟩, rfl, rfl⟩
    exact ⟨e, m, rfl, rfl, other, pends⟩
  · rintro ⟨e, m, rfl, rfl, other, pends⟩
    exact ⟨e, ⟨m, other, pends⟩, rfl, rfl⟩

/-- A claim that waits for a peer's PENDING entry is in RESOLVING at the end of the event. -/
theorem contesting_waits (holds : (s.bed s.sb.claim.bed).state = .claiming) (absent : s.hasEntry s.sl.own s.sb.claim.bed.val = false)
    {p : Entry} (m : p ∈ s.sb.book) (peer : p.station ≠ s.sl.own) (pends : p.committed = false) : let t := s.contesting.finish
    t.sb.claim.phase = .resolving ∧ t.sb.claim.resolveSince = some s.now ∧ t.entry s.sl.own s.sb.claim.bed.val = some s.claimEntry := by
  refine contesting_finish (c := s.contesting.sb.claim) (e := s.claimEntry) (p := p) ⟨rfl, rfl, fun b bed => ?_, ?_, fun x i named => ?_, peer, pends, ?_, ?_⟩
  · have same : s.sb.claim.bed = b := Option.some.inj ((bedOf_val _).symm.trans bed)
    change (s.bed b).state.cycling = false
    rw [← same, holds]
    rfl
  · exact List.mem_append_right _ (List.mem_singleton.2 rfl)
  · rcases List.mem_append.1 i with i | i
    · exact absurd ((hasEntry_eq_false.1 absent x i).symm.trans named) nofun
    · exact List.mem_singleton.1 i
  · exact List.mem_append_left _ m
  · exact mem_seniorSet.2 ⟨p, m, rfl, rfl, peer, pends⟩

/-- A claim that finds no senior is resolved on the book its entry has joined. -/
theorem contesting_resolves {f : State} (like : ForClaim f.contesting s.contesting) (active : f.sl.station = .active)
    (alone : ∀ e ∈ s.sb.book, e.station = s.sl.own ∨ e.committed = true) (rests : s.noSheds) : let t := s.contesting.finish
    t.pastResolving ∧ (s.cutsNothing → Resolved f.contesting t) := by
  have none : s.seniorSet = [] := by
    refine List.eq_nil_iff_forall_not_mem.2 fun p m => ?_
    obtain ⟨e, i, station, -, other, pends⟩ := mem_seniorSet.1 m
    rcases alone e i with own | committed
    · exact other (station.symm.trans own)
    · exact absurd (pends.symm.trans committed) nofun
  have released : s.contesting.released := .inl ⟨rfl, liveSeniors_eq_nil.2 fun p m => by
    rw [show s.contesting.sb.claim.seniors = s.seniorSet from rfl, none] at m
    cases m⟩
  obtain ⟨past, -, resolved⟩ := released_ends (a := f.contesting) 14 (u := s.contesting) rfl released (fun e => absurd e nofun) fun _ => rests
  exact ⟨past, fun nothing => resolved like active rfl (contesting_cutsNothing nothing)⟩

/-- Settles O13: the claim on the line as the completion leaves it, and the end of that event, in its four outcomes. -/
theorem ownClaimOnTheLineTakesItsSeniors : Obligations.OwnClaimOnTheLineTakesItsSeniors := by
  refine ⟨fun s stands absent room => ?_, fun slot a b f u g n cancelled q s settled sound live attempt queue => ?_⟩
  · rw [claimOnLine_room stands absent room]
    refine ⟨?_, rfl, rfl, fun st bd => mem_seniorSet, rfl, rfl, rfl⟩
    refine find_only (List.mem_append_right _ (List.mem_singleton.2 rfl)) (by simp [Entry.named]) fun x i named => ?_
    rcases List.mem_append.1 i with i | i
    · exact absurd ((hasEntry_eq_false.1 absent x i).symm.trans named) nofun
    · exact List.mem_singleton.1 i
  · intro ends done
    have sending : s.sb.claim.phase = .sending := sound.sending (by rw [State.holdsNotice, queue]; rfl)
    have station : s.sl.station = .active ∨ s.sl.station = .barred := by
      by_contra c
      obtain ⟨active, barred⟩ := not_or.1 c
      exact absurd (sending.symm.trans (sound.offered active barred)) nofun
    have able (stands : s.sb.claim.withdrawn = false) : s.sb.claim.live = true := by
      rw [Claim.live, sending, stands]
      rfl
    obtain ⟨o, run⟩ : ∃ o, exec (.transmissionCompletes slot) s = .next (done.marked o).claimOnLine.finish := by
      rw [completes_run slot live attempt, complete_other slot queue rfl]
      exact ⟨_, rfl⟩
    refine ⟨_, run, ?_, fun withdrawn => ?_, fun stands absent room => ?_, fun stands absent full => ?_⟩
    · obtain ⟨p, same⟩ := claimOnLine_marked o done
      rw [same]
      exact ((inside_marked p _).trans (inside_finish _)).further
    · rw [claimOnLine_withdrawn (s := done.marked o) withdrawn]
      obtain ⟨tq, sl, claim⟩ := insert_keeps (done.marked o).claimEntry (done.marked o)
      obtain ⟨phase, gone, tail, -⟩ := endClaim_finish (s := (done.marked o).insert (done.marked o).claimEntry) (by rw [sl]; exact station)
      rw [sl, claim] at gone
      rw [tq, claim] at tail
      exact ⟨phase, tail, gone⟩
    · have contests := claimOnLine_room (s := done.marked o) stands absent room
      have holds := sound.holds (able stands)
      rw [contests]
      refine ⟨fun ⟨p, m, peer, pends⟩ => contesting_waits (s := done.marked o) holds absent m peer pends, fun alone => ?_⟩
      rw [claimOnLine_room (s := done) stands absent room]
      have active : s.sl.station = .active := active_of_live sound (able stands)
      have rests : (done.marked o).noSheds := fun x i => noSheds_of_phase sound (by rw [sending]; nofun) x (by rw [queue]; exact List.mem_cons_of_mem _ i)
      exact contesting_resolves (f := done) (s := done.marked o) ⟨rfl, rfl, rfl, rfl, rfl, rfl, rfl, rfl, rfl, rfl, rfl, rfl, rfl⟩
        active alone rests
    · rw [claimOnLine_full (s := done.marked o) stands absent full]
      have skipped := PeerNotices.skipInsertion_eq (done.marked o)
      have pending := PeerNotices.latch_skipInsertion (done.marked o)
      have active := active_of_live sound (able stands)
      obtain ⟨phase, gone, tail, -⟩ := dropClaim_finish (a := (done.marked o).skipInsertion) (s := (done.marked o).skipInsertion)
        ⟨rfl, rfl, rfl, rfl, rfl, rfl, rfl, rfl, rfl, rfl, rfl, rfl, rfl⟩ (by rw [skipped]; exact active)
      have kept := ((inside_dropClaim (done.marked o).skipInsertion).trans (inside_finish _)).latched .saturated pending
      have sl : (done.marked o).skipInsertion.sl = s.sl := by rw [skipped]; rfl
      have claim : (done.marked o).skipInsertion.sb.claim = s.sb.claim := by rw [skipped]; rfl
      have waits : (done.marked o).skipInsertion.tq.queue = q := by rw [skipped]; rfl
      rw [sl, claim] at gone
      rw [waits, claim] at tail
      exact ⟨phase, tail, gone, kept⟩

end Sys2Proof.LineTransmissions

/-! PROOFS. The own completions (R9, R15, R31 to R33, R71 to R76): COMMIT and DROP, and the SHED's answers. -/

namespace Sys2Proof.LineTransmissions

open Sys2Proof.Machine FramesAndOrders ClaimTimers HoldJoins LineMarks
open EveryStep (enterOwnSlot_rest)

variable {x : Nat} {s t u : State} {h : Queued} {q : List Queued} {a : Attempt}

/-! ### Notices with no slot of their own -/

/-- The fields that every completion leaves as the line's own effects set them. -/
structure LineKept (s t : State) : Prop where
  outer : t.outer = s.outer
  peers : t.peers = s.peers

theorem LineKept.trans (h : LineKept s t) (k : LineKept t u) : LineKept s u := ⟨k.outer.trans h.outer, k.peers.trans h.peers⟩

theorem LineKept.field {α : Type} (h : LineKept s t) (f : State → α) : f t.outer = f s.outer := congrArg f h.outer

theorem inside_lineKept (h : Inside s t) : LineKept s t := ⟨h.outer, h.peers⟩

theorem peers_updateOwn {own bd : Nat} (e : Entry) (is : e.station = own) (book : List Entry) :
    (updateEntry own bd (fun _ => e) book).filter (fun x => x.station != own) = book.filter fun x => x.station != own := by
  unfold updateEntry
  induction book with
  | nil => rfl
  | cons x l ih =>
    rw [List.map_cons, List.filter_cons, List.filter_cons, ih]
    cases named : x.named own bd with
    | false => rfl
    | true =>
      simp only [Entry.named, Bool.and_eq_true, beq_iff_eq] at named
      simp [is, named.1]

theorem lineKept_insertOwn (e : Entry) (own : e.station = s.sl.own) : LineKept s (s.insert e) := by
  unfold State.insert
  split
  · refine ⟨rfl, ?_⟩
    rw [own]
    exact peers_updateOwn e own s.sb.book
  · split
    · refine ⟨rfl, ?_⟩
      change (s.sb.book ++ [e]).filter (fun x => x.station != s.sl.own) = _
      rw [List.filter_append, List.filter_cons_of_neg (by simp [own])]
      exact List.append_nil _
    · exact inside_lineKept ((inside_saturated true s).trans (inside_setPending ..))

theorem lineKept_onLine (n : Notice) (s : State) : LineKept s (s.onLine n) := by
  have over' : LineKept s s.claimOver := by
    unfold State.claimOver
    split
    · exact inside_lineKept (inside_clearClaim s)
    · exact ⟨rfl, rfl⟩
  have claim : LineKept s s.claimOnLine := by
    have placed : LineKept s (s.insert s.claimEntry) := lineKept_insertOwn s.claimEntry rfl
    rw [claimOnLine_eq]
    split
    · exact placed.trans (inside_lineKept (inside_endClaim _))
    · split
      · exact placed.trans (inside_lineKept (inside_dropClaim _))
      · exact placed.trans ⟨rfl, rfl⟩
  cases n <;> first | exact ⟨rfl, rfl⟩ | exact over' | exact claim

theorem onLine_quiet {n : Notice} (quiet : n.essential = false ∨ n.code = 5) (s : State) : s.onLine n = s := by
  cases n <;> first | rfl | simp [Notice.essential, Notice.code] at quiet

theorem onLine_over {n : Notice} (last : n.code = 3 ∨ n.code = 4) (ending : s.sb.claim.phase = .ending) : s.onLine n = s.clearClaim := by
  have over' : s.claimOver = s.clearClaim := if_pos ending
  cases n <;> first | exact over' | simp [Notice.code] at last

/-! ### The SHED (R31 to R33) -/

theorem enterOwnSlot_now (e : Nat) (slot : s.ownSlot = some e) (later : e ≤ x) : max s.enterOwnSlot.now x = max s.now x := by
  unfold State.enterOwnSlot
  rw [slot]
  dsimp only
  split
  · exact (max_assoc ..).trans (congrArg (max s.now) (max_eq_right later))
  · rfl

/-- The line at a SHED's completion, its notice still at the head. -/
theorem complete_shed {st v n : Nat} {b : BedId} {cancelled : Bool} (slot : Option SlotByte) (attempt : s.li.attempt = some a)
    (queue : s.tq.queue = ⟨.shed st v b, n, cancelled⟩ :: q) :
    ∃ l : LineInterface, ∃ o, s.complete a slot = State.shedOnLine ⟨.shed st v b, n, cancelled⟩ st v b slot
      ((sent (max s.now (a.start + 50 * a.bytes.length + 60)) (⟨.shed st v b, n, cancelled⟩ :: q) l s).marked o) := by
  refine ⟨s.enterOwnSlot.li, s.bc.holds.line || s.bc.occasion, ?_⟩
  have known : s.ownSlot = some (a.start + 50 * a.bytes.length) := ownSlot_shed attempt queue rfl
  have now := enterOwnSlot_now _ known (Nat.le_add_right (a.start + 50 * a.bytes.length) 60)
  have completed : State.completed (s.enterOwnSlot.advanceTo (a.start + 50 * a.bytes.length + 60))
      = (sent (max s.now (a.start + 50 * a.bytes.length + 60)) (⟨.shed st v b, n, cancelled⟩ :: q) s.enterOwnSlot.li s).marked
          (s.bc.holds.line || s.bc.occasion) := by
    unfold State.completed State.advanceTo
    rw [leaveHold_line, now, enterOwnSlot_rest, ← queue]
    rfl
  unfold State.complete
  rw [queue]
  exact congrArg (State.shedOnLine _ st v b slot) completed

/-- With a claim in flight nothing is offered: without a book change only the marks end and the ALERTs follow. -/
theorem finish_flight (clean : s.sb.dirty = false) (flight : s.sb.claim.phase ≠ .none) :
    AfterAlerts { s with sb.dirty := false, bc.occasion := false } s.finish := by
  have still : s.settleBook settleLaps = s := by
    unfold State.settleBook settleLaps
    exact if_neg (by rw [clean]; nofun)
  have ends := ends_flight settleLaps (s := s) (by rw [still]; exact flight)
  rwa [still] at ends

/-- How a SHED's claim goes on, on the state without it: a held outcome first; else ACK starts the victim's timer, a cancelled one's
silence leaves the claim, and anything else drops it (R31, R32, R75, R76). -/
def shedEnds (r : Option Reply) (given : Bool) (s : State) : State :=
  if s.sb.claim.outcome.isSome then s.applyHeld
  else if r = some .ack then { s with sb.claim.phase := .awaiting, sb.claim.victimSince := some s.now }
  else if r = some .refuse ∨ given then s.dropClaim
  else s

/-- NOANSWER with its fault, at the fourth attempt without an answer (R32). -/
def shedJudged (h : Queued) (st v : Nat) (b : BedId) (r : Option Reply) (s : State) : State :=
  if r = none ∧ 3 ≤ h.unanswered then s.raise .noanswer v st st 6 4 b.val else s

theorem shedOnLine_leaves {st v : Nat} {b : BedId} {slot : Option SlotByte} {s : State}
    (leaves : answerOf slot ≠ none ∨ 3 ≤ h.unanswered ∨ h.cancelled = true) :
    s.shedOnLine h st v b slot
      = shedEnds (answerOf slot) (decide (3 ≤ h.unanswered)) (shedJudged h st v b (answerOf slot) s.popHead) := by
  unfold State.shedOnLine
  cases answer : answerOf slot with
  | some r =>
    rw [show shedJudged h st v b (some r) s.popHead = s.popHead from if_neg fun c => absurd c.1 nofun]
    unfold State.shedAnswered shedEnds
    cases r <;> rfl
  | none =>
    dsimp only
    by_cases fourth : 3 ≤ h.unanswered
    · rw [if_pos (show shedAttempts ≤ h.unanswered + 1 by unfold shedAttempts; omega),
        show shedJudged h st v b none s.popHead = s.popHead.raise .noanswer v st st 6 4 b.val from if_pos ⟨rfl, fourth⟩]
      unfold State.shedGivenUp shedEnds
      rw [if_neg (show ¬ (none : Option Reply) = some .ack from nofun), if_pos (show none = some Reply.refuse ∨ _ from .inr (decide_eq_true fourth))]
    · have cancelled : h.cancelled = true := (leaves.resolve_left (not_not.2 answer)).resolve_left fourth
      rw [if_neg (show ¬ shedAttempts ≤ h.unanswered + 1 by unfold shedAttempts; omega), if_pos cancelled,
        show shedJudged h st v b none s.popHead = s.popHead from if_neg fun c => fourth c.2]
      unfold shedEnds
      rw [if_neg (show ¬ (none : Option Reply) = some .ack from nofun), if_neg (show ¬ (none = some Reply.refuse ∨ _) by simpa using fourth)]
      cases outcome : s.popHead.sb.claim.outcome with
      | none => exact applyHeld_none outcome
      | some o => rfl

theorem inside_shedEnds (r : Option Reply) (given : Bool) (s : State) : Inside s (shedEnds r given s) := by
  unfold shedEnds
  split
  · exact inside_applyHeld s
  · split
    · exact inside_claim _ s
    · split
      · exact inside_dropClaim s
      · exact .refl s

theorem runStays_shedEnds (r : Option Reply) (given : Bool) (s : State) : RunStays s (shedEnds r given s) :=
  runStays_ite (fun _ => runStays_applyHeld s) fun _ => runStays_ite (fun _ => id) fun _ =>
    runStays_ite (fun _ => runStays_dropClaim s) fun _ => id

theorem worked_shedEnds (asking : s.sb.claim.phase = .asking) {r : Option Reply} (silent : r ≠ some .ack) (given : Bool) :
    Worked s (shedEnds r given s) :=
  worked_ite (fun _ => worked_applyHeld asking) fun _ => by
    rw [if_neg silent]
    exact worked_ite (fun _ => worked_dropClaim s) fun _ => .refl s

theorem shedJudged_rest (h : Queued) (st v : Nat) (b : BedId) (r : Option Reply) (s : State) :
    shedJudged h st v b r s = { s with au := (shedJudged h st v b r s).au } := by
  unfold shedJudged
  split
  · rw [raise_same]
  · rfl

theorem inside_shedJudged (h : Queued) (st v : Nat) (b : BedId) (r : Option Reply) (s : State) : Inside s (shedJudged h st v b r s) := by
  unfold shedJudged
  split
  · exact inside_raise ..
  · exact .refl s

/-- Settles O12: the line's own effects, the producer's, and the end of the event; a SHED's claim by its answer and its held outcome. -/
theorem completedTransmissionsEndTheAttempt : Obligations.CompletedTransmissionsEndTheAttempt := by
  refine ⟨fun slot a h q s settled live attempt queue shed => ?_, fun slot a h q s settled live attempt queue shed silent few stands => ?_,
    fun slot a st v b n cancelled q s settled sound live attempt queue leaves => ?_⟩
  · let ends := max s.now (a.start + 50 * a.bytes.length)
    let y := (sent ends q { s.li with rx := .slot, slotSince := ends } s).marked (s.bc.holds.line || s.bc.occasion)
    have run : exec (.transmissionCompletes slot) s = .next (y.onLine h.notice).finish := by
      rw [completes_run slot live attempt, complete_other slot queue shed]
    have kept : LineKept y (y.onLine h.notice).finish := (lineKept_onLine h.notice y).trans (inside_lineKept (inside_finish _))
    have now : (y.onLine h.notice).finish.now = ends := kept.field fun x => x.now
    have li : (y.onLine h.notice).finish.li = y.li := kept.field fun x => x.li
    refine ⟨_, run, now, ?_, ?_, ?_, ?_, ?_, kept.field fun x => x.pw, kept.field fun x => x.sl, kept.peers, fun quiet => ?_, fun last ending => ?_⟩
    · rw [li]; rfl
    · rw [li]; rfl
    · rw [li, now]; rfl
    · rw [li]; rfl
    · rw [li, now]; rfl
    · rw [onLine_quiet quiet]
      have offered : Offered y y.finish := offered_finish settled.1
      exact ⟨runStays_finish y rfl, by rw [offered.sameHolds]; rfl, offered.waits, offered.book⟩
    · rw [onLine_over (s := y) last ending]
      exact (clearClaim_finish (s := y) settled.1).1
  · obtain ⟨notice, n, cancelled⟩ := h
    cases notice with
    | shed st v b =>
      obtain ⟨l, o, completes⟩ := complete_shed slot attempt queue
      let y := (sent (max s.now (a.start + 50 * a.bytes.length + 60)) (⟨.shed st v b, n + 1, cancelled⟩ :: q) l s).marked o
      have run : exec (.transmissionCompletes slot) s = .next y.finish := by
        rw [completes_run slot live attempt, completes]
        unfold State.shedOnLine
        rw [silent]
        dsimp only
        rw [if_neg (show ¬ shedAttempts ≤ n + 1 by unfold shedAttempts; have := few; dsimp only at this; omega), if_neg (by rw [show cancelled = false from stands]; nofun)]
        rfl
      have offered : Offered y y.finish := offered_finish settled.1
      exact ⟨_, run, offered.now, by rw [offered.li]; rfl, by rw [offered.li]; rfl, offered.waits, offered.book⟩
    | _ => exact absurd shed nofun
  · obtain ⟨l, o, completes⟩ := complete_shed slot attempt queue
    let ends := max s.now (a.start + 50 * a.bytes.length + 60)
    let y := (sent ends q l s).marked o
    let z := shedJudged ⟨.shed st v b, n, cancelled⟩ st v b (answerOf slot) y
    have run : exec (.transmissionCompletes slot) s = .next (shedEnds (answerOf slot) (decide (3 ≤ n)) z).finish := by
      rw [completes_run slot live attempt, completes, shedOnLine_leaves leaves]
      rfl
    have rest : z = { y with au := z.au } := shedJudged_rest ..
    have judged : Inside y z := inside_shedJudged ..
    have inside : Inside y (shedEnds (answerOf slot) (decide (3 ≤ n)) z).finish := (judged.trans (inside_shedEnds ..)).trans (inside_finish _)
    have now : (shedEnds (answerOf slot) (decide (3 ≤ n)) z).finish.now = ends := inside.now
    have asking : s.sb.claim.phase = .asking := sound.asking (by rw [State.holdsNotice, queue]; rfl)
    have idle : (s.bed s.sb.claim.bed).state.cycling = false := by
      have busy := sound.idle (by simp [Claim.underWay, asking])
      simp only [BedState.busy, Bool.or_eq_false_iff] at busy
      exact busy.1
    have claim : z.sb.claim = s.sb.claim := by rw [rest]; rfl
    have open' (free : s.sb.claim.outcome = none) : s.sl.station = .active :=
      active_of_live sound (by rw [Claim.live, asking, free]; rfl)
    refine ⟨_, run, now, by rw [inside.li]; rfl, by rw [inside.li]; rfl, by rw [inside.li, now]; rfl, ?_, fun ack free => ?_, fun refused free => ?_,
      fun silent fourth => ?_, fun drop => ?_, fun again => ?_⟩
    · refine runStays_finish _ (runStays_shedEnds _ _ z ?_)
      rw [rest]
      rfl
    · have same : z = y := if_neg (by simp [ack])
      have goes : shedEnds (answerOf slot) (decide (3 ≤ n)) z = { y with sb.claim.phase := .awaiting, sb.claim.victimSince := some ends } := by
        rw [same, ack]
        unfold shedEnds
        rw [if_neg (by rw [show y.sb.claim.outcome = none from free]; nofun), if_pos rfl]
        rfl
      rw [goes] at now ⊢
      have alerts := finish_flight (s := { y with sb.claim.phase := .awaiting, sb.claim.victimSince := some ends }) settled.1 nofun
      rw [now, alerts.sb]
      exact ⟨alerts.queue, rfl, rfl, rfl, fun d => alerts.bed d⟩
    · have goes : shedEnds (answerOf slot) (decide (3 ≤ n)) z = z.dropClaim := by
        unfold shedEnds
        rw [if_neg (by rw [claim, free]; nofun)]
        rcases refused with e | ⟨e, fourth⟩
        · rw [e, if_neg nofun, if_pos (.inl rfl)]
        · rw [e, if_neg nofun, if_pos (.inr (by simpa using fourth))]
      rw [goes]
      obtain ⟨phase, gone, tail, dropped⟩ := dropClaim_finish (a := y) (s := z)
        (by rw [rest]; exact ⟨rfl, rfl, rfl, rfl, rfl, rfl, rfl, rfl, rfl, rfl, rfl, rfl, rfl⟩) (open' free)
      rw [show z.tq.queue = q by rw [rest]; rfl] at tail
      exact ⟨phase, gone, tail, dropped.waits⟩
    · have raises : z = y.raise .noanswer v st st 6 4 b.val := if_pos ⟨silent, fourth⟩
      have latch := raise_pending .noanswer v st st 6 4 b.val y
      have work := worked_shedEnds (s := z) (by rw [claim, asking]) (r := answerOf slot) (by rw [silent]; nofun) (decide (3 ≤ n))
      obtain ⟨pending, bed, value⟩ := PeerNotices.latch_finish (s := shedEnds (answerOf slot) (decide (3 ≤ n)) z) (c := .noanswer) nofun nofun
      rw [work.latches .noanswer nofun nofun, raises, latch] at pending bed value
      rw [raises]
      refine ⟨pending, bed, value, fun unlocked => ?_⟩
      refine ((inside_shedEnds ..).trans (inside_finish _)).record _ ?_
      have number : word16 b.val = b.val := Nat.min_eq_left (by have := b.isLt; omega)
      refine (raise_record .noanswer v st st 6 4 b.val (s := y) unlocked).trans ?_
      rw [number]
      rfl
    · have goes : shedEnds (answerOf slot) (decide (3 ≤ n)) z = z.endClaim := by
        unfold shedEnds
        rw [if_pos (by rw [claim, drop]; rfl)]
        exact applyHeld_drops (by rw [claim, drop])
      rw [goes]
      have station := held_station sound (by rw [drop]; rfl)
      obtain ⟨phase, -, tail, beds⟩ := endClaim_finish (s := z) (by rw [rest]; exact station)
      rw [claim, show z.tq.queue = q by rw [rest]; rfl] at tail
      have same (d : BedId) : z.bed d = s.bed d := by rw [rest]; rfl
      exact ⟨phase, tail, by rw [beds _ (by rw [same, idle]), same]⟩
    · have goes : shedEnds (answerOf slot) (decide (3 ≤ n)) z = z.applyHeld := by
        unfold shedEnds
        rw [if_pos (by rw [claim, again]; rfl)]
      obtain ⟨-, able, active⟩ := held_live sound again
      rw [goes] at now ⊢
      rw [now]
      have rests : z.noSheds := by
        rw [rest]
        exact noSheds_tail sound.sheds queue rfl
      refine applyHeld_resolves (a := { s with now := ends, li.lossSince := ends, tq.queue := q, bc.holds := s.bc.holds.put .line false }) (u := z)
        (by rw [claim, asking]) (by rw [claim, again]) active ?_ able fun _ => rests
      rw [rest]
      exact ⟨rfl, rfl, rfl, rfl, rfl, rfl, rfl, rfl, rfl, rfl, rfl, rfl, rfl⟩

end Sys2Proof.LineTransmissions

/-! PROOFS. The confirm timers (R115, R149 to R151), and a window with one bed that takes credits. -/

namespace Sys2Proof.Machine

variable {b d : BedId} {s t u : State}

/-! ### Faults of a bed -/

theorem bedwise_faultBed (d : BedId) (c : EndCause) (s : State) : Bedwise d s (s.faultBed d c) := by
  unfold State.faultBed
  split
  · exact bedwise_endCycle d c s
  · exact .refl d s

theorem faultBed_uncredited (d : BedId) (c : EndCause) (s : State) : ((s.faultBed d c).bed d).state.credited = false := by
  unfold State.faultBed
  split
  · exact credited_of_cycling (endCycle_rests d c s).1
  · rename_i out
    simpa using out

/-! ### One bed of a pass -/

/-- A pass that does nothing to the other beds is what it does to this one. -/
theorem foldl_skips {f : State → BedId → State} {l : List BedId} (skips : ∀ d ∈ l, f s d = s) : l.foldl f s = s := by
  induction l with
  | nil => rfl
  | cons d l ih =>
    rw [List.foldl_cons, skips d List.mem_cons_self]
    exact ih fun e m => skips e (List.mem_cons_of_mem _ m)

theorem foldl_only {f : State → BedId → State} {P : State → Prop} (skips : ∀ x d, d ≠ b → P x → f x d = x) {l : List BedId}
    (m : b ∈ l) (once : l.Nodup) (here : P s) (after : P (f s b)) : l.foldl f s = f s b := by
  induction l with
  | nil => cases m
  | cons d l ih =>
    obtain ⟨out, once⟩ := List.nodup_cons.1 once
    rw [List.foldl_cons]
    by_cases same : d = b
    · rw [same] at out ⊢
      exact foldl_skips fun e i => skips _ e (fun eq => out (eq ▸ i)) after
    · rw [skips s d same here]
      exact ih ((List.mem_cons.1 m).resolve_left fun e => same e.symm) once

theorem forBeds_only {f : BedId → State → State} {P : State → Prop} (skips : ∀ x d, d ≠ b → P x → f d x = x) (here : P s) (after : P (f b s)) :
    s.forBeds f = f b s := foldl_only (f := fun s d => f d s) skips (mem_allBeds b) (by decide) here after

/-! ### Credits (R116, R118, R148) -/

/-- A credit after which no end test holds is added, and nothing else. -/
theorem credit_goes_on {v : Nat} {r : Run} (credited : (s.bed b).state.credited = true) (run : (s.bed b).run = some r)
    (untested : endTest (s.setupOf b) ((s.addCredit b v).bed b)
      { r with delivered := r.delivered + v, cycleDelivered := r.cycleDelivered + v } = none) (some' : v ≠ 0) :
    s.credit b v = s.addCredit b v := by
  have now : ((s.addCredit b v).bed b).run = some { r with delivered := r.delivered + v, cycleDelivered := r.cycleDelivered + v } := by
    unfold State.addCredit
    rw [State.bed_modBed_same, run]
    rfl
  unfold State.credit
  rw [if_neg (by simp [some', credited])]
  dsimp only
  rw [now]
  dsimp only
  rw [show (s.addCredit b v).setupOf b = s.setupOf b from rfl, untested]

theorem shares_single (v f : Nat) : shares v f [f] = [v] := by
  have part : v * f / f ≤ v := Nat.div_le_of_le_mul (by rw [Nat.mul_comm])
  simp only [shares, List.map_cons, List.map_nil, List.sum_cons, List.sum_nil, Nat.add_zero]
  rw [Nat.add_sub_cancel' part]

end Sys2Proof.Machine

namespace Sys2Proof.ConfirmTimers

open Sys2Proof.Machine

variable {b d : BedId} {s t u : State}

/-! ### Confirmation (R115, R149) -/

theorem bedConfirmed_confirming (h : (s.bed b).state = .confirming) : s.bedConfirmed b = s.moveBed b .running := if_pos h

theorem bedConfirmed_state (h : (s.bed b).state = .confirming) : ((s.bedConfirmed b).bed b).state = .running := by
  rw [bedConfirmed_confirming h, Overdraw.bed_moveBed, if_pos rfl]

/-! ### A window without a steady flow (R152 to R156) -/

theorem leakCheck_unmet {w : Window} (h : w.leaks = false) : s.leakCheck w = { s with fm.leakRun := 0 } := by
  unfold State.leakCheck countCheck
  rw [h]
  exact if_neg (Nat.not_succ_le_zero 2)

theorem noflowCheck_unmet {w : Window} (h : w.starves = false) : s.noflowCheck w = { s with fm.noflowRun := 0 } := by
  unfold State.noflowCheck countCheck
  rw [h]
  exact if_neg (Nat.not_succ_le_zero 2)

theorem stuckCheck_unmet {w : Window} (h : w.runsOn = false) : s.stuckCheck w = { s with fm.stuckRun := 0 } := by
  unfold State.stuckCheck countCheck
  rw [h]
  exact if_neg (Nat.not_succ_le_zero 2)

/-- The three counts at 0. -/
def uncounted (s : State) : State := { s with fm.leakRun := 0, fm.noflowRun := 0, fm.stuckRun := 0 }

theorem checkBranch_unsteady {w : Window} (steady : w.steady = false) (metered : s.metered = true) (undrawn : s.fm.drawing = false) :
    s.checkBranch w = uncounted s := by
  have leak : w.leaks = false := by simp [Window.leaks, steady]
  have starve : w.starves = false := by simp [Window.starves, steady]
  have stuck : w.runsOn = false := by simp [Window.runsOn, steady]
  unfold State.checkBranch
  rw [leakCheck_unmet leak, noflowCheck_unmet starve, stuckCheck_unmet stuck, if_pos metered, undrawn]
  rfl

/-! ### A window with one bed that takes credits -/

theorem creditedBeds_single (h : s.creditedBeds = [b]) (ne : d ≠ b) : (s.bed d).state.credited = false := by
  refine Bool.eq_false_of_not_eq_true fun credited => ne ?_
  have m : d ∈ s.creditedBeds := List.mem_filter.2 ⟨mem_allBeds d, credited⟩
  rw [h] at m
  exact List.mem_singleton.1 m

/-- No more than a bed's volumes and run differ. -/
structure GoesOn (b : BedId) (s t : State) : Prop where
  rest : t = { s with bc.beds := t.bc.beds }
  others : ∀ d, d ≠ b → t.bed d = s.bed d
  state : (t.bed b).state = (s.bed b).state

theorem goesOn_credit {r : Run} {v : Nat} (run : (s.bed b).run = some r) (need : r.delivered + v < r.need)
    (cycle : r.cycleDelivered + v < 10 * (s.setupOf b).cycle) (cap : (s.bed b).delivered + v < 10 * (s.setupOf b).cap) :
    GoesOn b s (s.credit b v) := by
  by_cases skips : v = 0 ∨ (s.bed b).state.credited = false
  · have same : s.credit b v = s := if_pos (by simpa using skips)
    rw [same]
    exact ⟨rfl, fun _ _ => rfl, rfl⟩
  · obtain ⟨some', credited⟩ := not_or.1 skips
    have volumes : (s.addCredit b v).bed b = { s.bed b with
        delivered := min ((s.bed b).delivered + v) dayLimit, debt := (s.bed b).debt - v
        run := some { r with delivered := r.delivered + v, cycleDelivered := r.cycleDelivered + v } } := by
      unfold State.addCredit
      rw [State.bed_modBed_same, run]
      rfl
    have untested : endTest (s.setupOf b) ((s.addCredit b v).bed b)
        { r with delivered := r.delivered + v, cycleDelivered := r.cycleDelivered + v } = none := by
      have below : ¬ 10 * (s.setupOf b).cap ≤ min ((s.bed b).delivered + v) dayLimit :=
        fun h => absurd (le_trans h (min_le_left _ _)) (by omega)
      rw [volumes]
      unfold endTest
      rw [if_neg (by dsimp only; omega), if_neg (by simp [below]), if_neg (by dsimp only; omega)]
    rw [credit_goes_on (by simpa using credited) run untested some']
    refine ⟨rfl, fun d ne => ?_, ?_⟩
    · unfold State.addCredit
      rw [State.bed_modBed, if_neg ne]
    · rw [volumes]

/-- The state at the end of a window, before its credits. -/
def windowed (s : State) : State := { s with fm.lastWindow := some (s.fm.pulses, s.now), fm.pulses := 0, fm.windowSince := s.now }

theorem creditWindow_single (metered : s.metered = true) (only : s.creditedBeds = [b]) (w : Window) :
    s.creditWindow w = State.credit b ((10 * w.p + s.fm.carry) / w.k) { s with fm.carry := (10 * w.p + s.fm.carry) % w.k } := by
  unfold State.creditWindow State.creditMetered
  have single : shares ((10 * w.p + s.fm.carry) / w.k) (s.nominal [b]) ([b].map fun b => (s.setupOf b).flow)
      = [(10 * w.p + s.fm.carry) / w.k] := shares_single _ _
  rw [if_pos metered, only]
  dsimp only [List.isEmpty_cons]
  rw [if_neg nofun, single]
  rfl

/-- Beds that are not in CONFIRMING are passed by. -/
theorem confirmFlows_single (w : Window) (metered : s.metered = true) (others : ∀ d, d ≠ b → (s.bed d).state ≠ .confirming) :
    s.confirmFlows w = if s.confirmedByFlow w b then s.bedConfirmed b else s := by
  unfold State.confirmFlows
  rw [if_pos metered]
  refine forBeds_only (P := fun x => ∀ d, d ≠ b → (x.bed d).state ≠ .confirming) (fun x d ne out => if_neg ?_) others fun d ne => ?_
  · unfold State.confirmedByFlow
    split
    · simp [out d ne]
    · nofun
  · split
    · unfold State.bedConfirmed
      split
      · rw [Overdraw.bed_moveBed, if_neg ne]
        exact others d ne
      · exact others d ne
    · exact others d ne

theorem confirmedByFlow_iff {w : Window} {opened q e : Nat} (timer : s.fm.confirms.get b = some opened) (before : w.before = some (q, e))
    (state : (s.bed b).state = .confirming) : s.confirmedByFlow w b = true
      ↔ (match (s.setupOf b).confirm with
          | .flowOnly => opened < e ∧ opened < w.ended
          | .settleThenFlow => opened + 5 * 12000 ≤ e ∧ opened + 5 * 12000 ≤ w.ended
          | .immediate | .oneSettle | .twoSettle => False)
        ∧ (10 * (max q w.p - min q w.p) ≤ min q w.p ∧ w.k ≤ 24 * w.p) := by
  unfold State.confirmedByFlow
  rw [timer, before]
  dsimp only
  rw [Bool.and_eq_true, Bool.and_eq_true, Bool.and_eq_true, stableFlow, Bool.and_eq_true, decide_eq_true_iff, decide_eq_true_iff, decide_eq_true_iff]
  refine and_congr_left' ?_
  rw [and_assoc]
  refine (and_iff_right state).trans ?_
  cases (s.setupOf b).confirm with
  | flowOnly => exact and_congr decide_eq_true_iff decide_eq_true_iff
  | settleThenFlow => exact and_congr decide_eq_true_iff decide_eq_true_iff
  | _ => exact iff_of_false (fun h => absurd h.1 nofun) id

theorem steady_of_confirming (state : (s.bed b).state = .confirming) : s.steady = false := by
  refine Bool.eq_false_of_not_eq_true fun steady => ?_
  simp only [State.steady, Bool.and_eq_true, List.all_eq_true] at steady
  have quiet := (steady.1.2 b (mem_allBeds b)).1
  rw [state] at quiet
  cases quiet

/-- Settles O46: the timers' commands through their end, and the window's credit, confirmation and checks one after the other. -/
theorem confirmTimersDecide : Obligations.ConfirmTimersDecide := by
  refine ⟨fun b x s settled live timer state => ⟨fun d delay => ?_, fun mode => ?_⟩,
    fun b r opened q e s settled live meter only state timer before undrawn run need cycle cap => ?_⟩
  · have goes : exec (.confirmTimerExpiry b) s = .next ((s.advanceTo (x + d)).moveBed b .running).finish := by
      have confirmed := bedConfirmed_confirming (s := s.advanceTo (x + d)) (b := b) state
      simp only [exec, execConfirmTimerExpiry, State.take, live, timer, delay, if_true, confirmed]
    have alerts : AfterAlerts ((s.advanceTo (x + d)).moveBed b .running) ((s.advanceTo (x + d)).moveBed b .running).finish := finish_settled _ settled
    have bed (e : BedId) := Overdraw.bed_moveBed b e .running (s.advanceTo (x + d))
    refine ⟨_, goes, alerts.now, ?_, ?_, ?_, fun e ne => ?_, alerts.sb, alerts.vd, alerts.pw⟩
    · rw [alerts.bed, bed, if_pos rfl]
    · rw [alerts.bed, bed, if_pos rfl]
      rfl
    · rw [alerts.fm]
      exact PerBed.get_set_same ..
    · rw [alerts.bed, bed, if_neg ne]
      rfl
  · have goes : exec (.confirmLimit b) s = .next ((s.advanceTo (x + 60 * 12000)).giveUpConfirm b).finish := by
      simp only [exec, execConfirmLimit, State.take, live, timer, mode, state, if_true, decide_true, Bool.and_self]
      rfl
    let u := (s.advanceTo (x + 60 * 12000)).faultBed b .noflow
    have ends : Bedwise b (s.advanceTo (x + 60 * 12000)) u := bedwise_faultBed ..
    have gives : (s.advanceTo (x + 60 * 12000)).giveUpConfirm b = u.raise .noflow b.val s.lastRate 0 0 s.lastRate (s.setupOf b).flow := rfl
    have tail := (inside_raise .noflow b.val s.lastRate 0 0 s.lastRate (s.setupOf b).flow u).trans (inside_finish _)
    have inside := ends.toInside.trans tail
    rw [gives] at goes
    have out : ((u.raise .noflow b.val s.lastRate 0 0 s.lastRate (s.setupOf b).flow).bed b).state.credited = false := by
      rw [raise_same]
      exact faultBed_uncredited b .noflow (s.advanceTo (x + 60 * 12000))
    obtain ⟨pending, bed, value⟩ := PeerNotices.latch_finish (s := u.raise .noflow b.val s.lastRate 0 0 s.lastRate (s.setupOf b).flow) (c := .noflow) nofun nofun
    rw [raise_pending] at pending bed value
    obtain ⟨still, idle⟩ := not_credited (credited_finish _ b out)
    refine ⟨_, goes, inside.now, still, idle, pending, bed, value, fun unlocked => ?_, inside.pw, inside.peers⟩
    refine (inside_finish _).record _ ?_
    rw [raise_record .noflow b.val s.lastRate 0 0 s.lastRate (s.setupOf b).flow (ends.fault.1.trans unlocked)]
    have clock : u.clockMinute = s.clockMinute := by
      unfold State.clockMinute
      rw [ends.pw]
      rfl
    rw [clock]
  · intro ends after stable
    let k := s.sl.setup.pulsesPerLitre
    let p := s.fm.pulses
    let f := windowed (s.advanceTo (s.fm.windowSince + 5 * 12000))
    let w := (s.advanceTo (s.fm.windowSince + 5 * 12000)).window
    have metered : f.metered = true := decide_eq_true meter
    let y := f.creditWindow w
    have credits : GoesOn b { f with fm.carry := (10 * p + s.fm.carry) % k } y := by
      have single : y = _ := creditWindow_single metered only w
      rw [single]
      exact goesOn_credit (s := { f with fm.carry := (10 * p + s.fm.carry) % k }) run need cycle cap
    have here : (y.bed b).state = .confirming := credits.state.trans state
    have others (d : BedId) (ne : d ≠ b) : (y.bed d).state ≠ .confirming := by
      rw [credits.others d ne]
      exact fun confirming => absurd ((creditedBeds_single only ne).symm.trans (congrArg BedState.credited confirming)) nofun
    have fm : y.fm = { f.fm with carry := (10 * p + s.fm.carry) % k } := by rw [credits.rest]
    have still : w.steady = false := steady_of_confirming (s := s.advanceTo (s.fm.windowSince + 5 * 12000)) state
    have flows : y.confirmedByFlow w b = true ↔ after ∧ stable := by
      have mode : y.setupOf b = s.setupOf b := by rw [credits.rest]; rfl
      rw [confirmedByFlow_iff (opened := opened) (q := q) (e := e) (by rw [fm]; exact timer) before here, mode]
      exact Iff.rfl
    have goes : exec .rateWindowEnd s = .next (((y.confirmFlows w).checkBranch w).finish) := by
      simp only [exec, execRateWindowEnd, State.take, live, if_true]
      rfl
    rw [confirmFlows_single w (by rw [credits.rest]; exact metered) others] at goes
    refine ⟨_, goes, fun qualifies steadily => ?_, fun unconfirmed => ?_⟩
    · have moved : (y.moveBed b .running).fm.drawing = false ∧ (y.moveBed b .running).metered = true := by
        rw [show (y.moveBed b .running).metered = y.metered from rfl, show (y.moveBed b .running).fm.drawing = y.fm.drawing from rfl, credits.rest]
        exact ⟨undrawn, metered⟩
      rw [if_pos (flows.2 ⟨qualifies, steadily⟩), bedConfirmed_confirming here, checkBranch_unsteady still moved.2 moved.1]
      have quiet : Settled (uncounted (y.moveBed b .running)) := by
        rw [show Settled (uncounted (y.moveBed b .running)) = Settled y from rfl, credits.rest]
        exact settled
      rw [(finish_settled _ quiet).bed]
      refine (congrArg Bed.state (Overdraw.bed_moveBed b b .running y)).trans ?_
      rw [if_pos rfl]
    · have unmoved : y.fm.drawing = false ∧ y.metered = true := by
        rw [credits.rest]
        exact ⟨undrawn, metered⟩
      rw [if_neg (mt flows.1 unconfirmed), checkBranch_unsteady still unmoved.2 unmoved.1]
      have quiet : Settled (uncounted y) := by
        rw [show Settled (uncounted y) = Settled y from rfl, credits.rest]
        exact settled
      have alerts := finish_settled _ quiet
      rw [alerts.bed, alerts.fm]
      refine ⟨here, ?_⟩
      change y.fm.confirms.get b = some opened
      rw [fm]
      exact timer

end Sys2Proof.ConfirmTimers

/-! PROOFS. Valves and their beds: where a close leads (R124), and the pulses of the generator (R131, R142). -/

namespace Sys2Proof.Machine

variable {b d : BedId} {s t u : State}

/-! ### The resting states, for a bed with no targets pending (R87, R88, R98) -/

theorem bed_setIdle (sensing : s.brokenProbe b = false) : (s.setIdle b).bed b = { s.bed b with
    state := .idle, backoffEnd := none, soakSince := none, fault := none, need := 0, urgency := .normal, ordered := false, waitAge := 0
    ageSince := none, run := none } := by
  unfold State.setIdle
  rw [sensing, Bool.and_false, if_neg nofun, State.bed_modBed_same, Overdraw.bed_moveBed, if_pos rfl]

theorem toIdle_eq (sensing : s.brokenProbe b = false) (targets : (s.bed b).targets = none) : s.toIdle b = s.setIdle b :=
  Overdraw.bringTargets_none (by rw [bed_setIdle sensing]; exact targets)

theorem toWaiting_eq (n : Nat) (targets : (s.bed b).targets = none) : s.toWaiting b n = s.setWaiting b n :=
  Overdraw.bringTargets_none (by rw [Overdraw.bed_setWaiting]; exact targets)

theorem bed_setFaulted (f : BedFault) (s : State) : (s.setFaulted b f).bed b = { s.bed b with
    state := .faulted, backoffEnd := none, soakSince := none, fault := some f, need := 0, urgency := .normal, ordered := false, run := none } := by
  unfold State.setFaulted
  rw [State.bed_modBed_same, Overdraw.bed_moveBed, if_pos rfl]

theorem toFaulted_eq (f : BedFault) (targets : (s.bed b).targets = none) : s.toFaulted b f = s.setFaulted b f :=
  Overdraw.bringTargets_none (by rw [bed_setFaulted]; exact targets)

theorem bed_freeBed (d : BedId) (s : State) : (s.freeBed b).bed d = s.bed d := by
  unfold State.freeBed
  rw [Overdraw.remove_rest, Overdraw.offer_rest]
  rfl

/-- A close of a run that keeps no order, for a bed with no targets pending. -/
theorem bedClosed_eq {r : Run} (closing : (s.bed b).state = .closing) (run : (s.bed b).run = some r) (kept : r.keptOrder = none)
    (targets : (s.bed b).targets = none) : s.bedClosed b
      = (s.freeBed b).enterAfter b ((s.freeBed b).limited r (afterCause r.endCause (s.setupOf b).soak)) := by
  have brings : (s.freeBed b).bringTargets b = s.freeBed b := Overdraw.bringTargets_none (by rw [bed_freeBed]; exact targets)
  have setup : (s.freeBed b).setupOf b = s.setupOf b := (bedwise_freeBed b s).setupOf b
  unfold State.bedClosed
  rw [if_pos closing]
  dsimp only
  rw [brings, bed_freeBed, run]
  dsimp only
  rw [kept, setup]
  rfl

theorem limited_within {r : Run} (cycles : r.cycle < 12) (young : s.runClock - r.startMinute < 1440) (station : s.sl.station ≠ .barred) (a : After) :
    s.limited r a = a := by
  have within : (decide (cycleLimit ≤ r.cycle) || s.dayOld r || decide (s.sl.station = .barred)) = false := by
    simp [State.dayOld, cycleLimit, Nat.not_le.2 cycles, young, station]
  unfold State.limited
  rw [within]
  cases a <;> rfl

end Sys2Proof.Machine

namespace Sys2Proof.PulsesAndCloses

open Sys2Proof.Machine

variable {b d : BedId} {s t u : State}

theorem freeBed_leaves (admits : s.sl.station.admits (.free b.val) = true) :
    (s.freeBed b).hasEntry s.sl.own b.val = false ∧ (s.freeBed b).tq.queue = s.tq.queue ++ [⟨.free b.val, 0, false⟩] := by
  refine ⟨Overdraw.hasEntry_remove s.sl.own b.val (s.offer (.free b.val)), ?_⟩
  unfold State.freeBed
  rw [Overdraw.remove_rest, EdgesAndOffers.offer_essential rfl admits]

/-- Settles O42: the FREE and the entry first, then the one state that the cause chooses. -/
theorem closedBedGoesWhereItsCauseSays : Obligations.ClosedBedGoesWhereItsCauseSays := by
  intro b r c s closing run cause kept targets sensing cycles young active t
  have free := bedwise_freeBed b s
  have limited := limited_within (s := s.freeBed b) cycles (by unfold State.runClock; rw [free.now, free.sl]; exact young)
    (by rw [free.sl, active]; nofun) (afterCause (some c) (s.setupOf b).soak)
  have closes : t = (s.freeBed b).enterAfter b (afterCause (some c) (s.setupOf b).soak) := by
    rw [← limited, ← cause]
    exact bedClosed_eq closing run kept targets
  have bed : (s.freeBed b).bed b = s.bed b := bed_freeBed b s
  have pending : ((s.freeBed b).bed b).targets = none := by rw [bed, targets]
  have working : (s.freeBed b).brokenProbe b = false := by
    unfold State.brokenProbe
    rw [bed, free.setupOf]
    exact sensing
  obtain ⟨gone, queue⟩ := freeBed_leaves (s := s) (b := b) (by rw [active]; rfl)
  have rests := resting_enterAfter b (afterCause (some c) (s.setupOf b).soak) (s.freeBed b)
  rw [← closes] at rests
  have sb := rests.sb (by rw [bed, closing]; nofun)
  refine ⟨by rw [State.hasEntry, sb]; exact gone, by rw [rests.tq, queue], by rw [rests.peers, free.peers], fun d ne => ?_, fun done soak => ?_,
    fun done none => ?_, fun over' => ?_, fun held => ?_, fun leak => ?_, fun dry => ?_⟩
  · rw [rests.others d ne, bed_freeBed]
  · have enters : t = State.modBed b (fun x => { x with soakSince := some (s.freeBed b).now }) ((s.freeBed b).moveBed b .soaking) := by
      rw [closes, done, show afterCause (some .cycleDone) (s.setupOf b).soak = .soak from if_neg (by omega)]
      rfl
    rw [enters, State.bed_modBed_same, Overdraw.bed_moveBed, if_pos rfl, bed]
    exact ⟨rfl, run⟩
  · have enters : t = (s.freeBed b).setWaiting b 0 := by
      rw [closes, done, show afterCause (some .cycleDone) (s.setupOf b).soak = .wait 0 from if_pos none]
      exact toWaiting_eq 0 pending
    rw [enters, Overdraw.bed_setWaiting, bed]
    exact ⟨rfl, rfl, run⟩
  · have idle : afterCause (some c) (s.setupOf b).soak = .idle := by
      rcases over' with e | e | e | e | e <;> rw [e] <;> rfl
    have enters : t = (s.freeBed b).setIdle b := by
      rw [closes, idle]
      exact toIdle_eq working pending
    rw [enters, bed_setIdle working]
    exact ⟨rfl, rfl, rfl, rfl, rfl⟩
  · have wait : afterCause (some c) (s.setupOf b).soak = .wait (30 * 12000) := by
      rcases held with e | e | e | e | e <;> rw [e] <;> rfl
    have enters : t = (s.freeBed b).setWaiting b (30 * 12000) := by
      rw [closes, wait]
      exact toWaiting_eq _ pending
    rw [enters, Overdraw.bed_setWaiting, bed, free.now]
    exact ⟨rfl, rfl, run⟩
  · have enters : t = (s.freeBed b).setFaulted b .leak := by
      rw [closes, leak]
      exact toFaulted_eq .leak pending
    rw [enters, bed_setFaulted]
    exact ⟨rfl, rfl, rfl⟩
  · have enters : t = (s.freeBed b).setFaulted b .noflow := by
      rw [closes, dry]
      exact toFaulted_eq .noflow pending
    rw [enters, bed_setFaulted]
    exact ⟨rfl, rfl, rfl⟩

end Sys2Proof.PulsesAndCloses

/-! PROOFS. The entry to BARRED (R28, R156, R186, R187), and the end of an event after which every bed rests. -/

namespace Sys2Proof.Machine

variable {b d : BedId} {s t u : State}

/-! ### A withdrawal, field by field (R81) -/

theorem endClaim_rest (s : State) : s.endClaim = { s with tq := s.endClaim.tq, sb := s.endClaim.sb, au := s.endClaim.au } := by
  rw [endClaim_eq, Overdraw.remove_rest, Overdraw.offer_rest]

theorem withdraw_rest (s : State) :
    s.withdraw = { s with tq := s.withdraw.tq, sb := s.withdraw.sb, au := s.withdraw.au, bc.occasion := s.withdraw.bc.occasion } := by
  unfold State.withdraw
  split
  · rfl
  · rfl
  · dsimp only
    rw [cancel_rest]
    split <;> rfl
  · rw [endClaim_rest]
  · rw [endClaim_rest]
  · dsimp only
    rw [cancel_rest]
    split
    · rfl
    · rw [endClaim_rest]

/-- No entry leaves by a withdrawal but that of the claim's bed. -/
theorem mem_endClaim_book {e : Entry} (m : e ∈ s.sb.book) (draw : e.bed = 8) : e ∈ s.endClaim.sb.book := by
  have other : e.named s.sl.own s.sb.claim.bed.val = false := by
    have := s.sb.claim.bed.isLt
    simp only [Entry.named, Bool.and_eq_false_iff, beq_eq_false_iff_ne]
    exact .inr (by omega)
  rw [endClaim_eq]
  change e ∈ ((s.offer (.drop s.sb.claim.bed)).remove s.sl.own s.sb.claim.bed.val).sb.book
  unfold State.remove
  split
  · rw [Overdraw.offer_rest]
    exact mem_removeEntry.2 ⟨m, other⟩
  · rw [Overdraw.offer_rest]
    exact m

theorem mem_withdraw_book {e : Entry} (m : e ∈ s.sb.book) (draw : e.bed = 8) : e ∈ s.withdraw.sb.book := by
  unfold State.withdraw
  split
  · exact m
  · exact m
  · dsimp only
    rw [cancel_rest]
    split <;> exact m
  · exact mem_endClaim_book m draw
  · exact mem_endClaim_book m draw
  · dsimp only
    rw [cancel_rest]
    split
    · exact m
    · exact mem_endClaim_book (s := { s with tq := _, sb.claim.outcome := some .drop }) m draw

/-! ### A bed taken to rest in BARRED (R187) -/

/-- No need, no ordered mark, no run: IDLE, or FAULTED where its probe is broken. -/
def Bed.rested (x : Bed) : Prop := (x.state = .idle ∨ x.state = .faulted) ∧ x.need = 0 ∧ x.ordered = false ∧ x.run = none

theorem Bed.rested.calm {x : Bed} (h : x.rested) : x.state.calm := by
  rcases h.1 with e | e <;> rw [e] <;> exact ⟨rfl, nofun⟩

theorem setIdle_rested (d : BedId) (s : State) : ((s.setIdle d).bed d).rested := by
  unfold State.setIdle
  split
  · rw [bed_setFaulted]
    exact ⟨.inr rfl, rfl, rfl, rfl⟩
  · rw [State.bed_modBed_same]
    exact ⟨.inl (by rw [Overdraw.bed_moveBed, if_pos rfl]), rfl, rfl, rfl⟩

theorem setIdle_sb (d : BedId) (s : State) : (s.setIdle d).sb = s.sb := by
  unfold State.setIdle
  split <;> rfl

theorem toIdle_sb (d : BedId) (s : State) : (s.toIdle d).sb = s.sb :=
  ((resting_bringTargets d (s.setIdle d)).sb (setIdle_rested d s).calm.2).trans (setIdle_sb d s)

/-- Targets brought in BARRED lead to no evaluation. -/
theorem bringTargets_barred (barred : s.sl.station = .barred) (h : (s.bed d).rested) : ((s.bringTargets d).bed d).rested := by
  unfold State.bringTargets
  split
  · exact h
  · rename_i start stop _
    have moved : ((s.modBed d fun x => { x with start := start, stop := stop, targets := none }).bed d).rested := by
      rw [State.bed_modBed_same]
      exact h
    dsimp only
    split
    · rw [show State.evaluate d false (s.modBed d fun x => { x with start := start, stop := stop, targets := none })
          = s.modBed d fun x => { x with start := start, stop := stop, targets := none } from if_pos (by rw [State.modBed_sl, barred]; rfl)]
      exact moved
    · exact moved

theorem toIdle_rested (barred : s.sl.station = .barred) (d : BedId) : ((s.toIdle d).bed d).rested :=
  bringTargets_barred (by rw [(inside_setIdle d s).sl, barred]) (setIdle_rested d s)

theorem applyKept_barred (barred : s.sl.station = .barred) (kept : Option Nat) : (s.applyKept d kept).bed d = s.bed d := by
  unfold State.applyKept
  split
  · rfl
  · split
    · rfl
    · rfl

/-- In BARRED a close of a bed whose cycle ended with cause BARRED, or which has no run, takes it to rest. -/
theorem bedClosed_rested (barred : s.sl.station = .barred) (closing : (s.bed d).state = .closing)
    (cause : ∀ r, (s.bed d).run = some r → r.endCause = some .barred) : ((s.bedClosed d).bed d).rested := by
  have free := bedwise_freeBed d s
  have brings := resting_bringTargets d (s.freeBed d)
  have station : ((s.freeBed d).bringTargets d).sl.station = .barred := by rw [brings.sl, free.sl, barred]
  have run : (((s.freeBed d).bringTargets d).bed d).run = (s.bed d).run := by
    have still : ((s.freeBed d).bed d).state = .closing := by rw [bed_freeBed, closing]
    unfold State.bringTargets
    split
    · rw [bed_freeBed]
    · dsimp only
      rw [State.bed_modBed_same, if_neg (by rw [still]; nofun), State.bed_modBed_same, bed_freeBed]
  unfold State.bedClosed
  rw [if_pos closing]
  dsimp only
  split
  · rename_i r found
    rw [cause r (run.symm.trans found)]
    have idle : ((s.freeBed d).bringTargets d).enterAfter d (((s.freeBed d).bringTargets d).limited r
        (afterCause (some .barred) (((s.freeBed d).bringTargets d).setupOf d).soak)) = ((s.freeBed d).bringTargets d).toIdle d := rfl
    rw [idle, applyKept_barred (by rw [(inside_toIdle d _).sl, station])]
    exact toIdle_rested station d
  · exact toIdle_rested station d

/-! ### A cycle that BARRED ends (R113, R187) -/

/-- A CLOSED valve stays so at the end of its bed's cycle, and other valves are aside. -/
theorem shut_endCycle (d : BedId) (c : EndCause) (shut : s.valve b = .closed) : (s.endCycle d c).valve b = .closed := by
  by_cases eq : b = d
  · rw [eq] at shut ⊢
    by_cases supply : c = .supply
    · rw [supply, endCycle_supply]
      exact shut
    · obtain ⟨v, -, closed, ends⟩ := endCycle_shut supply (s := s) (d := d) (.inl shut)
      rw [ends]
      by_cases closing : (v.bed d).state = .closing
      · rw [State.valve, (Overdraw.onlyBed_bedClosed closing).vd]
        exact closed
      · rw [bedClosed_of_ne closing]
        exact closed
  · rw [(aside_endCycle eq c s).valve, shut]

/-- A cycle that ends in BARRED either waits in CLOSING, its need spent, or its bed rests. -/
theorem endCycle_barred (barred : s.sl.station = .barred) (d : BedId) :
    (((s.endCycle d .barred).bed d).state = .closing ∧ ((s.endCycle d .barred).bed d).run
        = (s.bed d).run.map fun r => { r with endCause := some .barred, need := r.delivered })
      ∨ ((s.endCycle d .barred).bed d).rested := by
  have closing := Overdraw.ending_state d .barred s
  have run : ((Overdraw.ending d .barred s).bed d).run = (s.bed d).run.map fun r => { r with endCause := some .barred, need := r.delivered } := by
    cases found : (s.bed d).run with
    | none => simp [Overdraw.ending, Overdraw.bed_moveBed, found]
    | some r => rw [run_ending found]; rfl
  by_cases shuts : s.shutsAtOnce d
  · obtain ⟨v, drive, -, ends⟩ := endCycle_shut (c := .barred) nofun shuts
    rw [ends]
    refine .inr (bedClosed_rested ?_ ?_ fun r found => ?_)
    · rw [drive.sl]
      exact barred
    · rw [drive.bed, closing]
    · rw [drive.bed, run, Option.map_eq_some_iff] at found
      obtain ⟨r', -, rfl⟩ := found
      rfl
  · obtain ⟨drive, -⟩ := Overdraw.closeRequest_of_not_shutsAtOnce (mt (Overdraw.ending_shutsAtOnce d .barred s).mp shuts)
    rw [endCycle_other (c := .barred) nofun, drive.bed]
    exact .inl ⟨closing, run⟩

/-! ### The pass over the beds -/

/-- What taking beds to rest leaves alone: the hold set, the draw entry, the notices that are no CLAIM and no SHED, CLOSED valves, a
pulse under way, the causes. -/
structure Barring (s t : State) : Prop extends Inside s t where
  sameHolds : t.bc.holds = s.bc.holds
  draw : ∀ e ∈ s.sb.book, e.bed = 8 → e ∈ t.sb.book
  notices : ∀ q ∈ s.tq.queue, q.notice.isClaim = false → q.notice.isShed = false → q ∈ t.tq.queue
  shut : ∀ b, s.valve b = .closed → t.valve b = .closed
  pulse : s.vd.generator ≠ .idle → t.vd.generator = s.vd.generator
  latches : ∀ c, c ≠ .line → c ≠ .discard → t.latch c = s.latch c
  headRun : s.tq.headRun = 0 → t.tq.headRun = 0

namespace Barring

theorem refl (s : State) : Barring s s := ⟨.refl s, rfl, fun _ m _ => m, fun _ m _ _ => m, fun _ => id, fun _ => rfl, fun _ _ _ => rfl, id⟩

theorem trans (h : Barring s t) (k : Barring t u) : Barring s u where
  toInside := h.toInside.trans k.toInside
  sameHolds := k.sameHolds.trans h.sameHolds
  draw e m x := k.draw e (h.draw e m x) x
  notices q m x y := k.notices q (h.notices q m x y) x y
  shut b e := k.shut b (h.shut b e)
  pulse busy := (k.pulse (by rwa [h.pulse busy])).trans (h.pulse busy)
  latches c out ne := (k.latches c out ne).trans (h.latches c out ne)
  headRun e := k.headRun (h.headRun e)

end Barring

theorem barring_endCycle (cycling : (s.bed d).state.cycling = true) (c : EndCause) : Barring s (s.endCycle d c) := by
  have ends := bedwise_endCycle d c s
  refine ⟨ends.toInside, ends.sameHolds, fun e m draw => ?_, fun q m _ _ => ?_, fun b => shut_endCycle d c, ends.pulse, fun c _ => ends.latches c,
    fun e => ends.headRun.trans e⟩
  · rcases ends.book (ne_claiming_of_cycling cycling) with ⟨same, -⟩ | ⟨left, -⟩
    · rwa [same]
    · rw [left]
      refine mem_removeEntry.2 ⟨m, ?_⟩
      have := d.isLt
      simp only [Entry.named, Bool.and_eq_false_iff, beq_eq_false_iff_ne]
      exact .inr (by omega)
  · obtain ⟨l, queue, -⟩ := ends.waits
    rw [queue]
    exact List.mem_append_left _ m

theorem barring_resting (h : Resting d s t) (sb : t.sb = s.sb) : Barring s t where
  toInside := h.toInside
  sameHolds := h.sameHolds
  draw e m _ := by rwa [sb]
  notices q m _ _ := by rwa [h.tq]
  shut b e := by rw [State.valve, h.vd]; exact e
  pulse _ := by rw [h.vd]
  latches c _ _ := by rw [State.latch, h.au]; rfl
  headRun e := by rw [h.tq, e]

theorem barring_withdraw (s : State) : Barring s s.withdraw := by
  have work := worked_withdraw s
  have rest := withdraw_rest s
  refine ⟨work.toInside, by rw [rest], fun e m draw => mem_withdraw_book m draw, work.notices, fun b e => ?_, fun _ => by rw [rest],
    fun c out ne => work.latches c (fun e => absurd e out) ne, runStays_withdraw s⟩
  rw [(aside_withdraw b s).valve, e]

/-- What BARRED makes of a bed by its state. -/
theorem barBed_cycling (cycling : (s.bed d).state.cycling = true) : s.barBed d = s.endCycle d .barred := by
  unfold State.barBed
  cases state : (s.bed d).state <;> first | rfl | simp [state, BedState.cycling] at cycling

theorem barBed_waiting (waits : (s.bed d).state = .soaking ∨ (s.bed d).state = .waiting) : s.barBed d = s.toIdle d := by
  unfold State.barBed
  rcases waits with e | e <;> rw [e]

theorem barBed_claiming (claiming : (s.bed d).state = .claiming) : s.barBed d = s.withdraw.toIdle d := by
  unfold State.barBed
  rw [claiming]

theorem barBed_resting (rests : (s.bed d).state = .off ∨ (s.bed d).state = .idle ∨ (s.bed d).state = .closing ∨ (s.bed d).state = .faulted) :
    s.barBed d = s := by
  unfold State.barBed
  rcases rests with e | e | e | e <;> rw [e]

/-- A bed is in a cycle, or waits, or claims, or rests. -/
theorem BedState.kinds (x : BedState) : x.cycling = true ∨ (x = .soaking ∨ x = .waiting) ∨ x = .claiming
    ∨ (x = .off ∨ x = .idle ∨ x = .closing ∨ x = .faulted) := by
  cases x <;> simp [BedState.cycling]

theorem barring_barBed (d : BedId) (s : State) : Barring s (s.barBed d) := by
  rcases (s.bed d).state.kinds with cycling | waits | claiming | rests
  · rw [barBed_cycling cycling]
    exact barring_endCycle cycling .barred
  · rw [barBed_waiting waits]
    exact barring_resting (resting_toIdle d s) (toIdle_sb d s)
  · rw [barBed_claiming claiming]
    exact (barring_withdraw s).trans (barring_resting (resting_toIdle d _) (toIdle_sb d _))
  · rw [barBed_resting rests]
    exact .refl s

theorem aside_barBed (ne : b ≠ d) (s : State) : Aside b s (s.barBed d) := by
  rcases (s.bed d).state.kinds with cycling | waits | claiming | rests
  · rw [barBed_cycling cycling]
    exact aside_endCycle ne .barred s
  · rw [barBed_waiting waits]
    exact aside_toIdle ne s
  · rw [barBed_claiming claiming]
    exact (aside_withdraw b s).trans (aside_toIdle ne _)
  · rw [barBed_resting rests]
    exact .refl b s

theorem claimHeld_barBed (d : BedId) (s : State) (h : ClaimHeld s) : ClaimHeld (s.barBed d) := by
  rcases (s.bed d).state.kinds with cycling | waits | claiming | rests
  · rw [barBed_cycling cycling]
    exact claimHeld_endCycle h cycling .barred
  · rw [barBed_waiting waits]
    intro live
    rw [toIdle_sb] at live ⊢
    have held := h live
    have other : s.sb.claim.bed ≠ d := fun eq => by
      rw [eq] at held
      rw [held] at waits
      rcases waits with e | e <;> cases e
    rw [(aside_toIdle other s).bed, held]
  · rw [barBed_claiming claiming]
    intro live
    rw [toIdle_sb, withdraw_live] at live
    cases live
  · rw [barBed_resting rests]
    exact h

/-- The beds of a station that enters BARRED, taken to rest. -/
def State.barBeds (s : State) : State := State.forBeds State.barBed { s with sl.station := .barred }

theorem barring_barBeds (s : State) : Barring { s with sl.station := .barred } s.barBeds := by
  unfold State.barBeds State.forBeds
  generalize allBeds = l
  generalize State.mk s.now _ _ _ _ _ _ _ _ _ _ _ = u
  induction l generalizing u with
  | nil => exact .refl u
  | cons d l ih => exact (barring_barBed d u).trans (ih _)

theorem barBeds_at (b : BedId) (s : State) : ∃ x, Barring { s with sl.station := .barred } x ∧ Aside b s x ∧ Aside b (x.barBed b) s.barBeds := by
  obtain ⟨x, work, before, -, after⟩ := forBeds_at (f := State.barBed) (R := Barring) .refl (fun _ _ _ => .trans) barring_barBed
    (fun d ne s => aside_barBed (Ne.symm ne) s) { s with sl.station := .barred }
  exact ⟨x, work, Aside.trans (t := { s with sl.station := .barred }) ⟨rfl, rfl, rfl, id, id, rfl⟩ before, after⟩

end Sys2Proof.Machine

namespace Sys2Proof.Machine

variable {b d : BedId} {s t u : State}

theorem barBeds_resting (rests : (s.bed b).state = .off ∨ (s.bed b).state = .idle ∨ (s.bed b).state = .closing ∨ (s.bed b).state = .faulted) :
    s.barBeds.bed b = s.bed b := by
  obtain ⟨x, -, before, after⟩ := barBeds_at b s
  rw [after.bed, barBed_resting (by rwa [before.bed]), before.bed]

theorem barBeds_waiting (waits : (s.bed b).state = .waiting ∨ (s.bed b).state = .soaking ∨ (s.bed b).state = .claiming) :
    (s.barBeds.bed b).rested := by
  obtain ⟨x, work, before, after⟩ := barBeds_at b s
  have barred : x.sl.station = .barred := by rw [work.sl]
  rw [after.bed]
  rcases waits with e | e | e
  · rw [barBed_waiting (.inr (by rw [before.bed, e]))]
    exact toIdle_rested barred b
  · rw [barBed_waiting (.inl (by rw [before.bed, e]))]
    exact toIdle_rested barred b
  · rw [barBed_claiming (by rw [before.bed, e])]
    exact toIdle_rested (by rw [(inside_withdraw x).sl, barred]) b

theorem barBeds_cycling (cycling : (s.bed b).state.cycling = true) :
    ((s.barBeds.bed b).state = .closing
        ∧ (s.barBeds.bed b).run = (s.bed b).run.map fun r => { r with endCause := some .barred, need := r.delivered })
      ∨ (s.barBeds.bed b).rested := by
  obtain ⟨x, work, before, after⟩ := barBeds_at b s
  rw [after.bed, barBed_cycling (by rwa [before.bed])]
  rw [← before.bed]
  exact endCycle_barred (by rw [work.sl]) b

/-- In BARRED no bed has a cycle, a claim, a run that waits, or a soak. -/
theorem barBeds_state (b : BedId) (s : State) : (s.barBeds.bed b).state = .off ∨ (s.barBeds.bed b).state = .idle
    ∨ (s.barBeds.bed b).state = .closing ∨ (s.barBeds.bed b).state = .faulted := by
  have of_rested (h : (s.barBeds.bed b).rested) : (s.barBeds.bed b).state = .off ∨ (s.barBeds.bed b).state = .idle
      ∨ (s.barBeds.bed b).state = .closing ∨ (s.barBeds.bed b).state = .faulted :=
    h.1.elim (fun e => .inr (.inl e)) fun e => .inr (.inr (.inr e))
  rcases (s.bed b).state.kinds with cycling | waits | claiming | rests
  · rcases barBeds_cycling cycling with ⟨closing, -⟩ | rested
    · exact .inr (.inr (.inl closing))
    · exact of_rested rested
  · exact of_rested (barBeds_waiting (waits.symm.imp_right .inl))
  · exact of_rested (barBeds_waiting (.inr (.inr claiming)))
  · rwa [barBeds_resting rests]

theorem barBeds_calm (b : BedId) (s : State) : (s.barBeds.bed b).state.calm := by
  rcases barBeds_state b s with e | e | e | e <;> rw [e] <;> exact ⟨rfl, nofun⟩

/-! ### The queue and the draw entry (R28, R156) -/

theorem purge_unsent (quiet : s.li.attempt = none) : s.purge.tq.queue = s.tq.queue.filter fun q => !q.notice.isPurged := by
  unfold State.purge
  dsimp only
  rw [if_neg (by simp [State.sendingOf, quiet])]
  split <;> rfl

theorem removeDraw_rest (s : State) : s.removeDraw = { s with tq := s.removeDraw.tq, sb := s.removeDraw.sb, au := s.removeDraw.au } := by
  unfold State.removeDraw
  split
  · dsimp only
    rw [Overdraw.remove_rest]
    split
    · rfl
    · rw [Overdraw.offer_rest]
  · rfl

theorem hasEntry_removeDraw (s : State) : s.removeDraw.hasEntry s.sl.own 8 = false := by
  unfold State.removeDraw
  split
  · exact Overdraw.hasEntry_remove s.sl.own drawBed _
  · rename_i out
    exact Bool.eq_false_of_not_eq_true out

theorem removeDraw_queue (s : State) : s.removeDraw.tq.queue = s.tq.queue ∨ s.removeDraw.tq.queue = s.tq.queue ++ [⟨.free 8, 0, false⟩] := by
  unfold State.removeDraw
  split
  · dsimp only
    rw [Overdraw.remove_rest]
    split
    · exact .inl rfl
    · exact (offer_queue (.free drawBed) s).symm
  · exact .inl rfl

/-- The draw entry leaves with its FREE. -/
theorem removeDraw_frees (admits : s.sl.station.admits (.free 8) = true) (has : s.hasEntry s.sl.own 8 = true) :
    ∃ q ∈ s.removeDraw.tq.queue, q.notice = .free 8 := by
  unfold State.removeDraw
  rw [if_pos (show s.hasEntry s.sl.own drawBed = true from has)]
  dsimp only
  rw [Overdraw.remove_rest]
  split
  · rename_i waits
    simp only [State.holdsNotice, List.any_eq_true, decide_eq_true_eq] at waits
    exact waits
  · change ∃ q ∈ (s.offer (.free 8)).tq.queue, q.notice = .free 8
    rw [EdgesAndOffers.offer_essential rfl admits]
    exact ⟨_, List.mem_append_right _ (List.mem_singleton.2 rfl), rfl⟩

theorem removeDraw_claim (s : State) : s.removeDraw.sb.claim = s.sb.claim := by
  unfold State.removeDraw
  split
  · rw [remove_claim]
    split
    · rfl
    · exact congrArg SupplyBook.claim (offer_claim ..)
  · rfl

theorem removeDraw_peers (s : State) : s.removeDraw.peers = s.peers := by
  unfold State.removeDraw
  split
  · dsimp only
    have same : (if (s.holdsNotice fun n => decide (n = .free drawBed)) = true then s else s.offer (.free drawBed)).sl = s.sl := by
      split
      · rfl
      · exact offer_sl ..
    rw [← same, (inside_removeOwn ..).peers]
    split
    · rfl
    · exact (inside_offer _ rfl s).peers
  · rfl

theorem removeDraw_latch {c : Cause} (ne : c ≠ .discard) (s : State) : s.removeDraw.latch c = s.latch c := by
  unfold State.removeDraw
  split
  · dsimp only
    rw [Overdraw.remove_rest]
    split
    · rfl
    · exact offer_latch _ ne s
  · rfl

theorem removeDraw_record (s : State) : s.removeDraw.au.record = s.au.record := by
  unfold State.removeDraw
  split
  · dsimp only
    rw [Overdraw.remove_rest]
    split
    · rfl
    · exact (offer_fault _ s).1
  · rfl

/-! ### BARRED entered -/

theorem enterBarred_eq (s : State) : s.enterBarred = { s.barBeds.purge.removeDraw with fm.drawing := false, fm.quiet := 0 } := by
  unfold State.enterBarred
  rw [show State.forBeds State.barBed { s with sl.station := .barred } = s.barBeds from rfl]

theorem enterBarred_rest (s : State) : s.enterBarred = { s.barBeds with
    tq := s.enterBarred.tq, sb := s.enterBarred.sb, au := s.enterBarred.au, fm.drawing := false, fm.quiet := 0 } := by
  obtain ⟨q, book, alerts, draws⟩ : ∃ q b a, s.barBeds.purge.removeDraw = { s.barBeds.purge with tq := q, sb := b, au := a } :=
    ⟨_, _, _, removeDraw_rest s.barBeds.purge⟩
  obtain ⟨q', purges⟩ : ∃ q, s.barBeds.purge = { s.barBeds with tq := q } := ⟨_, PeerNotices.purge_rest s.barBeds⟩
  rw [enterBarred_eq, draws, purges]

/-! ### An event after which every bed rests -/

/-- A state with its marks, its saturated flag and its senior set set so. -/
def State.lapsed (m x : Bool) (l : List (Nat × Nat)) (o : Bool) (s : State) : State :=
  { s with sb := { s.sb with dirty := m, saturated := x, claim := { s.sb.claim with seniors := l } }, bc.occasion := o }

/-- A claim that may not commit hears of nothing. -/
theorem report_dead (dead : s.sb.claim.live = false) : s.report = s.relisted := by
  cases phase : s.sb.claim.phase with
  | none => exact report_idle (.inl phase)
  | sending => exact report_idle (.inr (.inl phase))
  | ending => exact report_idle (.inr (.inr phase))
  | resolving => simp [Claim.live, phase] at dead
  | awaiting => simp [Claim.live, phase] at dead
  | asking =>
    have drop : s.sb.claim.outcome = some .drop := by simpa [Claim.live, phase] using dead
    have leaves : s.relisted.victimLeaves = s.relisted := by
      unfold State.victimLeaves
      rw [show s.relisted.sb.claim.phase = .asking from phase, show s.relisted.sb.claim.outcome = some .drop from drop]
    rw [report_eq, phase, leaves]
    dsimp only
    exact ite_self _

/-- A lap that finds no cycle to cut and no claim to resolve clears its marks and judges the senior set. -/
theorem bookSteps_still (still : ∀ b, (s.bed b).state.cycling = false) (dead : s.sb.claim.live = false) :
    ∃ x l, s.bookSteps = s.lapsed false x l true := by
  obtain ⟨x, checked⟩ := checked_nothing (s := s) fun _ b _ => still b
  have claim : s.checked.sb.claim = s.sb.claim := by rw [checked]
  refine ⟨x, s.checked.liveSeniors, ?_⟩
  rw [bookSteps_eq, report_dead (by rw [claim, dead])]
  unfold State.relisted
  generalize s.checked.liveSeniors = l
  rw [checked]
  rfl

theorem settleBook_still (n : Nat) (still : ∀ b, (s.bed b).state.cycling = false) (dead : s.sb.claim.live = false) :
    ∃ m x l o, s.settleBook n = s.lapsed m x l o := by
  induction n generalizing s with
  | zero => exact ⟨_, _, _, _, rfl⟩
  | succ n ih =>
    unfold State.settleBook
    split
    · obtain ⟨x, l, lap⟩ := bookSteps_still still dead
      rw [lap]
      obtain ⟨m, y, k, o, rest⟩ := ih (s := s.lapsed false x l true) still dead
      exact ⟨m, y, k, o, rest⟩
    · exact ⟨_, _, _, _, rfl⟩

/-- No ALERT is offered in BARRED (R174). -/
theorem offerAlerts_silent (silent : s.sl.station.alerts = false) : s.offerAlerts = s := by
  have skips (c : Cause) (u : State) (h : u.sl.station.alerts = false) : u.offerAlert c = u := by
    unfold State.offerAlert
    dsimp only
    rw [if_neg (by simp [h])]
  unfold State.offerAlerts
  generalize Cause.all ++ [Cause.discard] = l
  induction l with
  | nil => rfl
  | cons c l ih => rw [List.foldl_cons, skips c s silent, ih]

/-- The end of an event in BARRED, with every bed at rest and no claim that may commit. -/
theorem finish_barred (barred : s.sl.station = .barred) (still : ∀ b, (s.bed b).state.cycling = false) (dead : s.sb.claim.live = false) :
    ∃ x l, s.finish = s.lapsed false x l false := by
  obtain ⟨m, x, l, o, laps⟩ := settleBook_still settleLaps still dead
  have quiet : (s.lapsed false x l false).weighOccasion = s.lapsed false x l false :=
    weighOccasion_of_mute (.inl (by rw [show (s.lapsed false x l false).sl = s.sl from rfl, barred]; nofun))
  have settles : s.settle = s.lapsed false x l false := by
    unfold State.settle
    rw [laps]
    change (if o then (s.lapsed false x l false).weighOccasion else s.lapsed false x l false) = _
    rw [quiet]
    exact ite_self _
  refine ⟨x, l, ?_⟩
  unfold State.finish
  rw [settles]
  exact offerAlerts_silent (by rw [show (s.lapsed false x l false).sl = s.sl from rfl, barred]; rfl)

end Sys2Proof.Machine

/-! PROOFS. The duplicate number (R186, R187). -/

namespace Sys2Proof.DuplicateNumber

open Sys2Proof.Machine

variable {b d : BedId} {s t u : State} {kind : Nat}

/-! ### What the entry to BARRED leaves -/

/-- The draw entry gone, no SKY or ALERT waiting, the beds at rest; the rest as it was. -/
structure Entered (s t : State) : Prop where
  now : t.now = s.now
  sl : t.sl = { s.sl with station := .barred }
  li : t.li = s.li
  pw : t.pw = s.pw
  peers : t.peers = s.peers
  holds : t.bc.holds = s.bc.holds
  bed : ∀ b, t.bed b = s.barBeds.bed b
  valve : ∀ b, t.valve b = s.barBeds.valve b
  check : t.vd.check = s.vd.check
  generator : s.vd.generator ≠ .idle → t.vd.generator = s.vd.generator
  tallySince : t.tq.tallySince = s.tq.tallySince
  latches : ∀ c, c ≠ .line → c ≠ .discard → t.latch c = s.latch c
  record : ∀ f, s.au.record = some f → t.au.record = some f
  claim : t.sb.claim = s.barBeds.sb.claim
  undrawn : t.hasEntry s.sl.own 8 = false
  meter : t.fm.drawing = false ∧ t.fm.quiet = 0

theorem removeDraw_tallySince (s : State) : s.removeDraw.tq.tallySince = s.tq.tallySince := by
  unfold State.removeDraw
  split
  · dsimp only
    rw [Overdraw.remove_rest]
    split
    · rfl
    · exact (inside_offer (.free drawBed) rfl s).tallySince
  · rfl

theorem purge_tallySince (s : State) : s.purge.tq.tallySince = s.tq.tallySince := by
  unfold State.purge
  dsimp only
  split
  · rfl
  · split <;> rfl

theorem entered (s : State) : Entered s s.enterBarred := by
  have pass := barring_barBeds s
  have rest := enterBarred_rest s
  have purged := PeerNotices.purge_rest s.barBeds
  have own : s.barBeds.purge.sl.own = s.sl.own := by rw [purged, pass.sl]
  have au (c : Cause) : s.enterBarred.latch c = s.barBeds.purge.removeDraw.latch c := by rw [enterBarred_eq]; rfl
  refine ⟨?_, ?_, ?_, ?_, ?_, ?_, fun b => ?_, fun b => ?_, ?_, fun busy => ?_, ?_, fun c line discard => ?_, fun f locked => ?_, ?_, ?_, ?_⟩
  · rw [rest]; exact pass.now
  · rw [rest]; exact pass.sl
  · rw [rest]; exact pass.li
  · rw [rest]; exact pass.pw
  · have same : s.enterBarred.peers = s.barBeds.purge.removeDraw.peers := by rw [enterBarred_eq]; rfl
    rw [same, removeDraw_peers]
    exact (show s.barBeds.purge.peers = s.barBeds.peers by rw [purged]; rfl).trans pass.peers
  · rw [rest]; exact pass.sameHolds
  · rw [rest]; rfl
  · rw [rest]; rfl
  · rw [rest]; exact pass.checkPhase
  · rw [rest]; exact pass.pulse busy
  · have same : s.enterBarred.tq.tallySince = s.barBeds.purge.removeDraw.tq.tallySince := by rw [enterBarred_eq]
    rw [same, removeDraw_tallySince, purge_tallySince]
    exact pass.tallySince
  · rw [au, removeDraw_latch discard]
    exact (show s.barBeds.purge.latch c = s.barBeds.latch c by rw [purged]; rfl).trans (pass.latches c line discard)
  · have same : s.enterBarred.au.record = s.barBeds.purge.removeDraw.au.record := by rw [enterBarred_eq]
    rw [same, removeDraw_record, show s.barBeds.purge.au.record = s.barBeds.au.record by rw [purged]]
    exact pass.record f locked
  · have same : s.enterBarred.sb.claim = s.barBeds.purge.removeDraw.sb.claim := by rw [enterBarred_eq]
    rw [same, removeDraw_claim, show s.barBeds.purge.sb = s.barBeds.sb by rw [purged]]
  · have out := hasEntry_removeDraw s.barBeds.purge
    rw [own] at out
    have same : s.enterBarred.hasEntry s.sl.own 8 = s.barBeds.purge.removeDraw.hasEntry s.sl.own 8 := by rw [enterBarred_eq]; rfl
    rw [same, out]
  · rw [rest]; exact ⟨rfl, rfl⟩

theorem entered_queue (quiet : s.li.attempt = none) : ∀ q ∈ s.enterBarred.tq.queue, q.notice.isPurged = false := by
  intro q m
  have same : s.enterBarred.tq.queue = s.barBeds.purge.removeDraw.tq.queue := by rw [enterBarred_eq]
  have kept := purge_unsent (s := s.barBeds) (by rw [(barring_barBeds s).li]; exact quiet)
  have of_purge (i : q ∈ s.barBeds.purge.tq.queue) : q.notice.isPurged = false := by
    rw [kept] at i
    simpa using (List.mem_filter.1 i).2
  rw [same] at m
  rcases removeDraw_queue s.barBeds.purge with e | e
  · exact of_purge (e ▸ m)
  · rw [e] at m
    rcases List.mem_append.1 m with i | i
    · exact of_purge i
    · rw [List.mem_singleton.1 i]
      rfl

theorem entered_frees (has : s.hasEntry s.sl.own 8 = true) : ∃ q ∈ s.enterBarred.tq.queue, q.notice = .free 8 := by
  have pass := barring_barBeds s
  have purged := PeerNotices.purge_rest s.barBeds
  have sl : s.barBeds.purge.sl = { s.sl with station := .barred } := by rw [purged]; exact pass.sl
  have here : s.barBeds.purge.hasEntry s.barBeds.purge.sl.own 8 = true := by
    obtain ⟨e, m, named⟩ := List.any_eq_true.1 has
    have bed : e.bed = 8 := by simp only [Entry.named, Bool.and_eq_true, beq_iff_eq] at named; exact named.2
    refine List.any_eq_true.2 ⟨e, ?_, by rw [sl]; exact named⟩
    rw [purged]
    exact pass.draw e m bed
  obtain ⟨q, m, free⟩ := removeDraw_frees (by rw [sl]; rfl) here
  exact ⟨q, by rw [enterBarred_eq]; exact m, free⟩

theorem entered_dead (held : ClaimHeld s) : s.enterBarred.sb.claim.live = false := by
  refine Bool.eq_false_of_not_eq_true fun live => ?_
  rw [(entered s).claim] at live
  have claims : ClaimHeld s.barBeds := claimHeld_forBeds claimHeld_barBed (s := { s with sl.station := .barred }) held
  exact (barBeds_calm s.barBeds.sb.claim.bed s).2 (claims live)

theorem rested_open {x : Bed} (h : x.rested) : x.state ≠ .closing := by
  rcases h.1 with e | e <;> rw [e] <;> nofun

/-! ### The event (R186) -/

/-- SETUP with its fault, wherever the number is found twice. -/
structure Clashed (kind : Nat) (s t : State) : Prop where
  latch : ∃ armed, t.latch .setup = ⟨true, armed, 15, word16 kind⟩
  pw : t.pw = s.pw
  peers : t.peers = s.peers
  station : t.sl.station = match s.sl.station with
    | .listening | .active => .barred
    | x => x
  noted : s.sl.station = .checking → t.sl.clashNoted = true
  record : s.sl.station ≠ .barred → s.au.record = none → t.au.record = some ⟨.setup, 15, 0, kind, word16 s.sl.own, 0, s.clockMinute⟩

theorem clashed_raise (kind : Nat) (s : State) : (∃ armed, (s.raiseClash kind).latch .setup = ⟨true, armed, 15, word16 kind⟩)
    ∧ (s.au.record = none → (s.raiseClash kind).au.record = some ⟨.setup, 15, 0, kind, word16 s.sl.own, 0, s.clockMinute⟩) :=
  ⟨⟨_, raise_pending ..⟩, fun h => raise_record .setup 15 kind 0 kind s.sl.own 0 h⟩

theorem clashed_barred (kind : Nat) (station : s.sl.station = .listening ∨ s.sl.station = .active) : Clashed kind s (s.raiseClash kind).enterBarred := by
  have same : s.raiseClash kind = { s with au := (s.raiseClash kind).au } := raise_same ..
  have barred := entered (s.raiseClash kind)
  obtain ⟨⟨armed, latch⟩, record⟩ := clashed_raise kind s
  refine ⟨⟨armed, by rw [barred.latches .setup nofun nofun, latch]⟩, by rw [barred.pw, same], ?_, ?_, fun e => ?_, fun _ none => ?_⟩
  · rw [barred.peers, same]; rfl
  · rw [barred.sl]
    rcases station with e | e <;> rw [e]
  · rcases station with e' | e' <;> rw [e'] at e <;> cases e
  · exact barred.record _ (record none)

theorem clashed_duplicate (kind : Nat) (live : s.live = true) : Clashed kind s (s.duplicate kind) := by
  have same : s.raiseClash kind = { s with au := (s.raiseClash kind).au } := raise_same ..
  obtain ⟨⟨armed, latch⟩, record⟩ := clashed_raise kind s
  unfold State.duplicate
  cases station : s.sl.station with
  | loading => simp [State.live, station] at live
  | checking =>
    refine ⟨⟨armed, latch⟩, ?_, ?_, ?_, fun _ => rfl, fun _ => record⟩
    · rw [same]
    · rw [same]; rfl
    · rw [same, station]
  | listening => exact clashed_barred kind (.inl station)
  | active => exact clashed_barred kind (.inr station)
  | unconfigured =>
    refine ⟨⟨armed, latch⟩, ?_, ?_, ?_, fun e => ?_, fun _ => record⟩
    · dsimp only
      rw [same]
    · dsimp only
      rw [same]; rfl
    · dsimp only
      rw [same, station]
    · rw [station] at e; cases e
  | barred =>
    have rest := State.setPending_rest .setup 15 kind s
    refine ⟨⟨_, State.latch_setPending_same ..⟩, ?_, ?_, ?_, fun e => ?_, fun e => absurd station e⟩
    · dsimp only
      rw [rest]
    · dsimp only
      rw [rest]; rfl
    · dsimp only
      rw [rest, station]
    · rw [station] at e; cases e

/-- Settles O16: SETUP and its fault by the station state, and the entry to BARRED through the end of its event. -/
theorem duplicateNumberByStationState : Obligations.DuplicateNumberByStationState := by
  intro kind len s receiving
  have live : s.live = true := by
    simp only [State.receiving, Bool.and_eq_true] at receiving
    exact receiving.1.1
  have quiet : s.li.attempt = none := by
    simp only [State.receiving, Bool.and_eq_true, Option.isNone_iff_eq_none] at receiving
    exact receiving.1.2
  have run : exec (.duplicateNumberEvent kind len) s = .next ((s.frameOver len).duplicate kind).finish := by
    simp only [exec, execDuplicateNumberEvent, State.receive, receiving, if_true]
    rw [if_pos (show s.sl.own = (s.frameOver len).sl.own from rfl)]
  have clash : Clashed kind (s.frameOver len) ((s.frameOver len).duplicate kind) := clashed_duplicate kind live
  have inside := inside_finish ((s.frameOver len).duplicate kind)
  obtain ⟨pending, bed, value⟩ := PeerNotices.latch_finish (s := (s.frameOver len).duplicate kind) (c := .setup) nofun nofun
  obtain ⟨armed, latch⟩ := clash.latch
  rw [latch] at pending bed value
  have station := (congrArg SetupLoader.station inside.sl).trans clash.station
  refine ⟨_, run, pending, value, bed, fun e => ⟨?_, ?_⟩, fun e => ?_, fun e => ?_, fun e => ?_, fun open' none => ?_, fun e settled sound => ?_,
    inside.peers.trans clash.peers, inside.pw.trans clash.pw⟩
  · rw [station, show (s.frameOver len).sl.station = _ from e]
  · rw [inside.sl]
    exact clash.noted e
  · rw [station]
    rcases e with e | e <;> rw [show (s.frameOver len).sl.station = _ from e]
  · rw [station, show (s.frameOver len).sl.station = _ from e]
  · rw [station, show (s.frameOver len).sl.station = _ from e]
  · exact inside.record _ (clash.record open' none)
  · obtain ⟨r, eq⟩ : ∃ r, (s.frameOver len).raiseClash kind = r := ⟨_, rfl⟩
    have same : r = { s.frameOver len with au := r.au } := by rw [← eq]; exact raise_same ..
    have enters : (s.frameOver len).duplicate kind = r.enterBarred := by
      unfold State.duplicate
      rw [eq]
      rcases e with e | e <;> rw [show (s.frameOver len).sl.station = _ from e]
    have held : ClaimHeld r := by
      rw [same]
      exact sound.holds
    have beds (b : BedId) : r.bed b = s.bed b := by rw [same]; rfl
    have own : r.sl.own = s.sl.own := by rw [same]; rfl
    have holds : r.bc.holds = s.bc.holds := by rw [same]; rfl
    have barred := entered r
    have dead := entered_dead held
    have gone := entered_queue (s := r) (by rw [same]; exact quiet)
    have frees := entered_frees (s := r)
    rw [enters]
    clear run clash inside pending bed value latch station enters
    generalize r.enterBarred = E at barred dead gone frees ⊢
    have still (b : BedId) : (E.bed b).state.cycling = false := by
      rw [barred.bed]
      exact (barBeds_calm b r).1
    obtain ⟨x, l, ends⟩ := finish_barred (by rw [barred.sl]) still dead
    rw [ends]
    refine ⟨fun b => ?_, fun b waits => ?_, fun b run cycling found => ?_, fun b rests => ?_, dead, fun q m => ?_, own ▸ barred.undrawn,
      barred.meter.1, barred.meter.2, fun has => ?_, barred.holds.trans holds⟩
    · rw [show (E.lapsed false x l false).bed b = E.bed b from rfl, barred.bed]
      exact barBeds_state b r
    · rw [show (E.lapsed false x l false).bed b = E.bed b from rfl, barred.bed]
      have rested := barBeds_waiting (s := r) (by rwa [beds])
      exact ⟨rested_open rested, rested.2.1, rested.2.2.1, rested.2.2.2⟩
    · rw [show (E.lapsed false x l false).bed b = E.bed b from rfl, barred.bed]
      rcases barBeds_cycling (s := r) (b := b) (by rwa [beds]) with ⟨closing, left⟩ | rested
      · exact .inl ⟨closing, by rw [left, beds, found]; rfl⟩
      · exact .inr ⟨rested_open rested, rested.2.2.2, rested.2.1⟩
    · rw [show (E.lapsed false x l false).bed b = E.bed b from rfl, barred.bed, barBeds_resting (by rwa [beds]), beds]
    · have kept := gone q m
      constructor <;> intro code <;> cases kind : q.notice <;> simp [kind, Notice.code, Notice.isPurged] at code kept
    · refine frees ?_
      rw [same]
      exact has

end Sys2Proof.DuplicateNumber

/-! PROOFS. The pulses of the generator (R131, R132, R142). -/

namespace Sys2Proof.Machine

variable {b d : BedId} {s t u : State}

/-! ### The moment of the last transient does not reach a close (R152) -/

/-- The state with another moment of the last transient. -/
def State.retimed (n : Nat) (s : State) : State := { s with fm.lastTransient := n }

theorem setPending_retimed (n : Nat) (c : Cause) (bed value : Nat) (s : State) :
    (s.retimed n).setPending c bed value = (s.setPending c bed value).retimed n := by
  unfold State.setPending
  dsimp only
  rw [apply_ite (State.retimed n)]
  exact if_congr Iff.rfl rfl rfl

theorem offer_retimed (n : Nat) (x : Notice) (s : State) : (s.retimed n).offer x = (s.offer x).retimed n := by
  unfold State.offer
  rw [apply_ite (State.retimed n), apply_ite (State.retimed n), setPending_retimed]
  exact if_congr Iff.rfl rfl (if_congr Iff.rfl rfl rfl)

theorem remove_retimed (n st bd : Nat) (s : State) : (s.retimed n).remove st bd = (s.remove st bd).retimed n := by
  unfold State.remove
  rw [apply_ite (State.retimed n)]
  exact if_congr Iff.rfl rfl rfl

theorem freeBed_retimed (n : Nat) (b : BedId) (s : State) : (s.retimed n).freeBed b = (s.freeBed b).retimed n := by
  unfold State.freeBed
  rw [offer_retimed]
  exact remove_retimed n s.sl.own b.val (s.offer (.free b.val))

/-- In CLOSING pending targets become the bed's, and nothing restarts. -/
theorem bringTargets_closing_eq (closing : (s.bed b).state = .closing) :
    s.bringTargets b = match (s.bed b).targets with
      | none => s
      | some p => s.modBed b fun x => { x with start := p.1, stop := p.2, targets := none } := by
  unfold State.bringTargets
  cases (s.bed b).targets with
  | none => rfl
  | some p =>
    dsimp only
    have still : ((s.modBed b fun x => { x with start := p.1, stop := p.2, targets := none }).bed b).state = .closing := by
      rw [State.bed_modBed_same, closing]
    exact if_neg (by rw [still]; nofun)

theorem bringTargets_retimed (n : Nat) (closing : (s.bed b).state = .closing) :
    (s.retimed n).bringTargets b = (s.bringTargets b).retimed n := by
  rw [bringTargets_closing_eq closing, bringTargets_closing_eq (s := s.retimed n) closing]
  have bed : (s.retimed n).bed b = s.bed b := rfl
  rw [bed]
  split <;> rfl

/-- Leaving CLOSING is a transient of its own moment. -/
theorem moveBed_retimed (n : Nat) (st : BedState) (closing : (s.bed b).state = .closing) : (s.retimed n).moveBed b st = s.moveBed b st := by
  unfold State.moveBed
  dsimp only
  rw [closing, show ((s.retimed n).bed b).state = .closing from closing]
  rfl

theorem setFaulted_retimed (n : Nat) (f : BedFault) (closing : (s.bed b).state = .closing) : (s.retimed n).setFaulted b f = s.setFaulted b f := by
  unfold State.setFaulted
  rw [moveBed_retimed n .faulted closing]

theorem setIdle_retimed (n : Nat) (closing : (s.bed b).state = .closing) : (s.retimed n).setIdle b = s.setIdle b := by
  unfold State.setIdle
  rw [moveBed_retimed n .idle closing, setFaulted_retimed n .probe closing]
  rfl

theorem setWaiting_retimed (n m : Nat) (closing : (s.bed b).state = .closing) : (s.retimed n).setWaiting b m = s.setWaiting b m := by
  unfold State.setWaiting
  rw [moveBed_retimed n .waiting closing]
  rfl

theorem toIdle_retimed (n : Nat) (closing : (s.bed b).state = .closing) : (s.retimed n).toIdle b = s.toIdle b := by
  unfold State.toIdle
  rw [setIdle_retimed n closing]

theorem enterAfter_retimed (n : Nat) (a : After) (closing : (s.bed b).state = .closing) : (s.retimed n).enterAfter b a = s.enterAfter b a := by
  cases a with
  | soak =>
    unfold State.enterAfter
    dsimp only
    rw [moveBed_retimed n .soaking closing]
    rfl
  | wait m => exact congrArg (State.bringTargets b) (setWaiting_retimed n m closing)
  | idle => exact toIdle_retimed n closing
  | fault f => exact congrArg (State.bringTargets b) (setFaulted_retimed n f closing)

theorem bringTargets_closing (closing : (s.bed b).state = .closing) : ((s.bringTargets b).bed b).state = .closing := by
  rw [bringTargets_closing_eq closing]
  split
  · exact closing
  · rw [State.bed_modBed_same, closing]

theorem bedClosed_retimed (n : Nat) (closing : (s.bed b).state = .closing) : (s.retimed n).bedClosed b = s.bedClosed b := by
  have freed : ((s.freeBed b).bed b).state = .closing := by rw [bed_freeBed, closing]
  have brings := bringTargets_retimed n freed
  have still := bringTargets_closing freed
  have bed : (((s.freeBed b).bringTargets b).retimed n).bed b = ((s.freeBed b).bringTargets b).bed b := rfl
  unfold State.bedClosed
  rw [if_pos closing, if_pos (show ((s.retimed n).bed b).state = .closing from closing), freeBed_retimed, brings]
  dsimp only
  rw [bed]
  cases (((s.freeBed b).bringTargets b).bed b).run with
  | none => exact toIdle_retimed n still
  | some r =>
    dsimp only
    rw [enterAfter_retimed n _ still]
    rfl

/-! ### The end of the start-up closure (R142, R184) -/

/-- Entry to LISTENING, with its timer, the tally timer and a TALLY. -/
def State.listens (s : State) : State :=
  State.tallyDue { s with vd.check := .done, sl.station := .listening, sl.listenSince := s.now, tq.tallySince := some s.now }

theorem tallyDue_rest (s : State) : ∃ q a, s.tallyDue = { s with tq.queue := q, au := a } := by
  unfold State.tallyDue
  split
  · exact ⟨s.tq.queue, s.au, rfl⟩
  · unfold State.offer
    split
    · exact ⟨_, s.au, rfl⟩
    · split
      · exact ⟨s.tq.queue, _, State.setPending_rest ..⟩
      · exact ⟨s.tq.queue, s.au, rfl⟩

theorem listens_rest (s : State) : ∃ q a, s.listens = { s with
    vd.check := .done, sl.station := .listening, sl.listenSince := s.now, tq.tallySince := some s.now, tq.queue := q, au := a } :=
  tallyDue_rest _

theorem startUpDone_unnoted (unnoted : s.sl.clashNoted = false) : s.startUpDone = s.listens := by
  obtain ⟨q, a, rest⟩ := listens_rest s
  have clash : s.listens.sl.clashNoted = false := by rw [rest]; exact unnoted
  exact if_neg (ne_true_of_eq_false clash)

theorem startUpDone_noted (noted : s.sl.clashNoted = true) : s.startUpDone = s.listens.enterBarred := by
  obtain ⟨q, a, rest⟩ := listens_rest s
  have clash : s.listens.sl.clashNoted = true := by rw [rest]; exact noted
  exact if_pos clash

theorem tallyDue_waits (room : s.tq.queue.length < 6) (admits : s.sl.station.admits .tally = true) :
    ∃ q ∈ s.tallyDue.tq.queue, q.notice = .tally := by
  unfold State.tallyDue
  split
  · next waits =>
    obtain ⟨q, m, tally⟩ := List.any_eq_true.1 waits
    refine ⟨q, m, ?_⟩
    cases kind : q.notice <;> simp [kind, Notice.isTally] at tally
    rfl
  · refine ⟨⟨.tally, 0, false⟩, ?_, rfl⟩
    unfold State.offer
    rw [if_pos]
    · exact List.mem_append_right _ (List.mem_singleton.2 rfl)
    · simp only [State.admits, admits, Bool.true_and, Bool.or_eq_true, decide_eq_true_eq]
      exact .inr room

theorem listens_tally (room : s.tq.queue.length < 6) : ∃ q ∈ s.listens.tq.queue, q.notice = .tally := tallyDue_waits room rfl

theorem settled_listens (settled : Settled s) : Settled s.listens := by
  obtain ⟨q, a, rest⟩ := listens_rest s
  rw [rest]
  exact settled

/-- What the purge does not remove stays. -/
theorem mem_purge {q : Queued} (m : q ∈ s.tq.queue) (kept : q.notice.isPurged = false) : q ∈ s.purge.tq.queue := by
  have filtered {l : List Queued} (i : q ∈ l) : q ∈ l.filter fun q => !q.notice.isPurged := List.mem_filter.2 ⟨i, by rw [kept]; rfl⟩
  unfold State.purge
  dsimp only
  split
  · next sending =>
    cases queue : s.tq.queue with
    | nil => rw [queue] at m; cases m
    | cons h l =>
      rw [queue] at m
      rcases List.mem_cons.1 m with e | i
      · simp [State.sendingOf, queue, ← e, kept] at sending
      · exact List.mem_append_right _ (filtered i)
  · split
    · exact filtered m
    · exact filtered m

theorem mem_removeDraw {q : Queued} (m : q ∈ s.tq.queue) : q ∈ s.removeDraw.tq.queue := by
  rcases removeDraw_queue s with e | e <;> rw [e]
  · exact m
  · exact List.mem_append_left _ m

/-- The entry to BARRED leaves the notices that are neither purged nor a claim's. -/
theorem mem_enterBarred {q : Queued} (m : q ∈ s.tq.queue) (kept : q.notice.isPurged = false) (claim : q.notice.isClaim = false)
    (shed : q.notice.isShed = false) : q ∈ s.enterBarred.tq.queue := by
  have waits := mem_removeDraw (mem_purge ((barring_barBeds s).notices q m claim shed) kept)
  rw [enterBarred_eq]
  exact waits

theorem barBed_dead (d : BedId) (h : s.sb.claim.live = false) : (s.barBed d).sb.claim.live = false := by
  rcases BedState.kinds (s.bed d).state with cycling | waits | claiming | rests
  · rw [barBed_cycling cycling]
    exact (worked_endCycle cycling .barred).claim.live h
  · rw [barBed_waiting waits, toIdle_sb]
    exact h
  · rw [barBed_claiming claiming, toIdle_sb]
    exact withdraw_live s
  · rw [barBed_resting rests]
    exact h

theorem barBeds_dead (h : s.sb.claim.live = false) : s.barBeds.sb.claim.live = false := by
  have keeps (l : List BedId) : ∀ u : State, u.sb.claim.live = false → (l.foldl (fun s b => s.barBed b) u).sb.claim.live = false := by
    induction l with
    | nil => exact fun _ => id
    | cons d l ih => exact fun u dead => ih (u.barBed d) (barBed_dead d dead)
  exact keeps allBeds { s with sl.station := .barred } h

end Sys2Proof.Machine

namespace Sys2Proof.PulsesAndCloses

open Sys2Proof.Machine

variable {b d : BedId} {s t u : State}

/-! ### The end of a pulse -/

/-- The generator at rest after a pulse. -/
def rested (n : Nat) (s : State) : State := { s with now := n, vd.generator := .recovery n }

theorem pulseEnd_run {r : Request} {rsv : Bool} {x : Nat} (live : s.live = true) (pulse : s.vd.generator = .pulse r rsv x) :
    exec .pulseEnd s = .next (((s.advanceTo (x + s.sl.setup.pulseWidth * 120)).endPulse r).checkStartUp).finish := by
  simp only [exec, execPulseEnd, State.take, live, pulse, if_true]
  rfl

theorem checkStartUp_other (other : s.vd.check ≠ .closure) : s.checkStartUp = s := if_neg fun h => other h.2.1

/-- The end of an event leaves a CLOSED valve whose bed rests, and a pulse's recovery, where the claim is not of that bed. -/
theorem finish_shut (spares : s.sb.claim.spares b) (calm : (s.bed b).state.calm) (busy : s.vd.generator ≠ .idle) :
    s.finish.valve b = s.valve b ∧ s.finish.vd.generator = s.vd.generator ∧ MayClaim (s.bed b) (s.finish.bed b) := by
  obtain ⟨w, worked, ends⟩ := finish_work s
  have aside := worked.calm b spares calm
  have pulse := worked.pulse busy
  rcases ends with alerts | alerts
  · exact ⟨by rw [alerts.valve, aside.valve], by rw [alerts.vd, pulse], .inl (by rw [alerts.bed, aside.bed])⟩
  · have offered := offered_weighOccasion w
    refine ⟨by rw [alerts.valve, State.valve, offered.vd]; exact aside.valve, by rw [alerts.vd, offered.vd, pulse], ?_⟩
    rw [alerts.bed, ← aside.bed]
    exact offered.beds b

/-- The moment of a pulse's end (R131). -/
def pulseEnds (x : Nat) (s : State) : Nat := max s.now (x + s.sl.setup.pulseWidth * 120)

/-- The state in which an open pulse ends. -/
def openEnded (b : BedId) (n : Nat) (s : State) : State := ((rested n s).setValve b .opened).bedOpened b

theorem openEnded_rest (b : BedId) (n : Nat) (s : State) : openEnded b n s = { (rested n s).setValve b .opened with
    bc.beds := (openEnded b n s).bc.beds, fm := (openEnded b n s).fm } := EdgesAndOffers.bedOpened_rest b _

theorem open_ends {rsv : Bool} {x : Nat} (live : s.live = true) (other : s.vd.check ≠ .closure)
    (pulse : s.vd.generator = .pulse ⟨b, .opens⟩ rsv x) (single : s.queued b = false) :
    exec .pulseEnd s = .next (openEnded b (pulseEnds x s) s).finish := by
  have rest := openEnded_rest b (pulseEnds x s) s
  have waits : (openEnded b (pulseEnds x s) s).queued b = false := by rw [State.queued, rest]; exact single
  have ended : (s.advanceTo (x + s.sl.setup.pulseWidth * 120)).endPulse ⟨b, .opens⟩ = openEnded b (pulseEnds x s) s :=
    if_neg (ne_true_of_eq_false waits)
  rw [pulseEnd_run live pulse, ended, checkStartUp_other (by rw [rest]; exact other)]

/-- An open pulse leaves its valve OPEN and its bed beyond OPENING (R114, R131, R149). -/
theorem open_pulse {rsv : Bool} {x : Nat} (settled : Settled s) (live : s.live = true) (other : s.vd.check ≠ .closure)
    (pulse : s.vd.generator = .pulse ⟨b, .opens⟩ rsv x) (opening : (s.bed b).state = .opening) (single : s.queued b = false) :
    ∃ t, exec .pulseEnd s = .next t ∧ t.now = pulseEnds x s ∧ t.valve b = .opened ∧ t.vd.generator = .recovery (pulseEnds x s)
      ∧ (t.bed b).state = (if (s.setupOf b).confirm = .immediate then .running else .confirming)
      ∧ (t.bed b).run = (s.bed b).run ∧ ((s.setupOf b).confirm ≠ .immediate → t.fm.confirms.get b = some (pulseEnds x s))
      ∧ (∀ d, d ≠ b → t.bed d = s.bed d ∧ t.valve d = s.valve d) ∧ t.sb = s.sb ∧ t.pw = s.pw ∧ t.bc.holds = s.bc.holds := by
  set ends := pulseEnds x s
  have rest := openEnded_rest b ends s
  have beds (d : BedId) : (openEnded b ends s).bed d = if d = b then { s.bed b with
      state := if (s.setupOf b).confirm = .immediate then .running else .confirming, backoffEnd := none, soakSince := none }
      else s.bed d := EdgesAndOffers.bed_bedOpened (s := (rested ends s).setValve b .opened) opening d
  have holds : (openEnded b ends s).bc.holds = s.bc.holds := by
    unfold openEnded State.bedOpened State.bedConfirmed
    dsimp only
    split
    · split
      · split <;> rfl
      · rfl
    · rfl
  have occasion : (openEnded b ends s).bc.occasion = s.bc.occasion := by rw [rest]; rfl
  have h := finish_settled (openEnded b ends s) ⟨by rw [rest]; exact settled.1, by rw [occasion]; exact settled.2⟩
  refine ⟨_, open_ends live other pulse single, by rw [h.now, rest]; rfl, ?_, by rw [h.vd, rest]; rfl, by rw [h.bed, beds, if_pos rfl],
    by rw [h.bed, beds, if_pos rfl], fun slow => ?_, fun d ne => ⟨by rw [h.bed, beds, if_neg ne], ?_⟩, by rw [h.sb, rest]; rfl,
    by rw [h.pw, rest]; rfl, by rw [h.bc, holds]⟩
  · rw [h.valve, State.valve, rest]
    exact PerBed.get_set_same ..
  · rw [h.fm]
    exact EdgesAndOffers.confirms_bedOpened (s := (rested ends s).setValve b .opened) opening slow
  · rw [h.valve, State.valve, rest]
    exact PerBed.get_set_ne _ _ ne

/-! ### The end of a close pulse -/

/-- The state in which a close pulse ends, before its report. -/
def closeEnded (b : BedId) (n : Nat) (s : State) : State := (rested n s).setValve b .closed

theorem close_ends {rsv : Bool} {x : Nat} (live : s.live = true) (pulse : s.vd.generator = .pulse ⟨b, .closes⟩ rsv x) :
    exec .pulseEnd s = .next ((closeEnded b (pulseEnds x s) s).bedClosed b).checkStartUp.finish := by
  have ended : (s.advanceTo (x + s.sl.setup.pulseWidth * 120)).endPulse ⟨b, .closes⟩ = (closeEnded b (pulseEnds x s) s).bedClosed b :=
    congrArg (State.bedClosed b) rfl
  rw [pulseEnd_run live pulse, ended]

theorem valve_closeEnded (b : BedId) (n : Nat) (s : State) : (closeEnded b n s).valve b = .closed := PerBed.get_set_same ..

/-- A close of no bed in CLOSING moves its valve alone (R133). -/
theorem close_pulse {rsv : Bool} {x : Nat} (settled : Settled s) (live : s.live = true) (other : s.vd.check ≠ .closure)
    (pulse : s.vd.generator = .pulse ⟨b, .closes⟩ rsv x) (open' : (s.bed b).state ≠ .closing) :
    ∃ t, exec .pulseEnd s = .next t ∧ t.now = pulseEnds x s ∧ t.valve b = .closed ∧ t.vd.generator = .recovery (pulseEnds x s)
      ∧ t.bc = s.bc ∧ t.sb = s.sb ∧ t.pw = s.pw ∧ ∀ d, d ≠ b → t.valve d = s.valve d := by
  have same : (closeEnded b (pulseEnds x s) s).bedClosed b = closeEnded b (pulseEnds x s) s := bedClosed_of_ne open'
  have run := close_ends live pulse
  rw [same, checkStartUp_other (s := closeEnded b (pulseEnds x s) s) other] at run
  have h := finish_settled (closeEnded b (pulseEnds x s) s) settled
  refine ⟨_, run, h.now, by rw [h.valve, valve_closeEnded], by rw [h.vd]; rfl, h.bc, h.sb, h.pw, fun d ne => ?_⟩
  rw [h.valve]
  exact valve_setValve_ne ne .closed (rested (pulseEnds x s) s)

theorem admits_free {b : Nat} (live : s.live = true) (configured : s.sl.station ≠ .unconfigured) : s.sl.station.admits (.free b) = true := by
  cases station : s.sl.station with
  | loading => simp [State.live, station] at live
  | unconfigured => exact absurd station configured
  | checking | listening | active | barred => rfl

/-- The close of a bed in CLOSING frees it, and it goes where its run leads (R56, R124). -/
theorem closing_pulse {rsv : Bool} {x : Nat} (live : s.live = true) (other : s.vd.check ≠ .closure)
    (pulse : s.vd.generator = .pulse ⟨b, .closes⟩ rsv x) (closing : (s.bed b).state = .closing) (configured : s.sl.station ≠ .unconfigured)
    (spared : s.sb.claim.phase = .none ∨ s.sb.claim.bed ≠ b) :
    let u := State.bedClosed b { s with
      now := pulseEnds x s, vd.generator := .recovery (pulseEnds x s), vd.valves := s.vd.valves.set b .closed }
    ∃ t, exec .pulseEnd s = .next t ∧ FurtherWork u t ∧ t.now = pulseEnds x s ∧ t.valve b = .closed
      ∧ t.vd.generator = .recovery (pulseEnds x s) ∧ t.hasEntry s.sl.own b.val = false
      ∧ (∃ q ∈ t.tq.queue, q.notice = .free b.val)
      ∧ ((u.bed b).state ≠ .waiting → t.bed b = u.bed b)
      ∧ ((u.bed b).state = .waiting → ((t.bed b).state = .waiting ∨ (t.bed b).state = .claiming) ∧ (t.bed b).run = (u.bed b).run) := by
  intro u
  set v := closeEnded b (pulseEnds x s) s with hv
  have shuts : v.bedClosed b = u := bedClosed_retimed (s := { s with
    now := pulseEnds x s, vd.generator := .recovery (pulseEnds x s), vd.valves := s.vd.valves.set b .closed }) v.fm.lastTransient closing
  have closing' : (v.bed b).state = .closing := closing
  have rests : Resting b (v.freeBed b) u := shuts ▸ resting_bedClosed closing'
  have free := bedwise_freeBed b v
  have bed : (v.freeBed b).bed b = s.bed b := bed_freeBed b v
  have vd : u.vd = v.vd := by
    rw [rests.vd]
    unfold State.freeBed
    rw [Overdraw.remove_rest, Overdraw.offer_rest]
  have sb : u.sb = (v.freeBed b).sb := rests.sb (by rw [bed, closing]; nofun)
  have claim : u.sb.claim = s.sb.claim := by
    rw [sb]
    exact free.claim (by rw [closing']; nofun)
  have run : exec .pulseEnd s = .next u.finish := by
    rw [close_ends live pulse, ← hv, shuts, checkStartUp_other]
    rw [vd]
    exact other
  obtain ⟨gone, queue⟩ := freeBed_leaves (s := v) (b := b) (admits_free (s := s) live configured)
  have spares : u.sb.claim.spares b := by
    rw [claim]
    rcases spared with e | e
    · exact .inr (.inl (by rw [Claim.live, e]))
    · exact .inl e
  have calm : (u.bed b).state.calm :=
    ⟨rests.rests (by rw [bed, closing]; rfl), rests.unclaimed (by rw [bed, closing]; nofun)⟩
  have generator : u.vd.generator = .recovery (pulseEnds x s) := by rw [vd]; rfl
  obtain ⟨valve, rec, may⟩ := finish_shut spares calm (by rw [generator]; nofun)
  have inside := inside_finish u
  refine ⟨_, run, inside.further, ?_, ?_, rec.trans generator, ?_, ⟨⟨.free b.val, 0, false⟩, SkyAndClock.notices_finish ?_ rfl rfl, rfl⟩,
    may.of_not_waiting, fun w => ⟨may.waiting w, may.kept.1⟩⟩
  · rw [inside.now, rests.now, free.now]
    rfl
  · rw [valve, State.valve, vd]
    exact valve_closeEnded b (pulseEnds x s) s
  · refine Overdraw.hasEntry_of_inside inside ?_
    rw [State.hasEntry, sb]
    exact gone
  · rw [rests.tq, queue]
    exact List.mem_append_right _ (List.mem_singleton.2 rfl)

/-! ### The last pulse of the start-up closure (R142) -/

theorem closure_run {rsv : Bool} {x : Nat} (live : s.live = true) (pulse : s.vd.generator = .pulse ⟨b, .closes⟩ rsv x)
    (open' : (s.bed b).state ≠ .closing) : exec .pulseEnd s = .next (closeEnded b (pulseEnds x s) s).checkStartUp.finish := by
  rw [close_ends live pulse, bedClosed_of_ne (s := closeEnded b (pulseEnds x s) s) open']

/-- The closure is done where its other latching valves have arrived and no close waits. -/
theorem shut_iff (b : BedId) (n : Nat) (s : State) : (closeEnded b n s).startUpShut = true ↔
    (s.latching b = true → s.queued b = false) ∧ ∀ d, d ≠ b → s.latching d = true → s.valve d ≠ .unknown ∧ s.queued d = false := by
  have each (d : BedId) : (!(closeEnded b n s).latching d || (decide ((closeEnded b n s).valve d ≠ .unknown)
      && !(closeEnded b n s).queued d && !(closeEnded b n s).pulsing d)) = true
      ↔ (s.latching d = true → (closeEnded b n s).valve d ≠ .unknown ∧ s.queued d = false) := by
    rw [show (closeEnded b n s).pulsing d = false from rfl, show (closeEnded b n s).latching d = s.latching d from rfl,
      show (closeEnded b n s).queued d = s.queued d from rfl]
    cases s.latching d <;> cases s.queued d <;> simp
  unfold State.startUpShut
  rw [List.all_eq_true]
  constructor
  · intro all
    refine ⟨fun latching => ((each b).1 (all b (List.mem_finRange b)) latching).2, fun d ne latching => ?_⟩
    obtain ⟨known, free⟩ := (each d).1 (all d (List.mem_finRange d)) latching
    rw [closeEnded, valve_setValve_ne ne] at known
    exact ⟨known, free⟩
  · rintro ⟨own, others⟩ d -
    rw [each]
    intro latching
    by_cases e : d = b
    · rw [e, valve_closeEnded]
      exact ⟨nofun, own (e ▸ latching)⟩
    · obtain ⟨known, free⟩ := others d e latching
      rw [closeEnded, valve_setValve_ne e]
      exact ⟨known, free⟩

/-- How the start-up closure ends: LISTENING, or BARRED where a clash was noted (R186). -/
structure Started (b : BedId) (s t : State) : Prop where
  now : t.now = s.now
  valve : t.valve b = s.valve b
  pw : t.pw = s.pw
  bc : s.sl.clashNoted = false → t.bc = s.bc
  check : t.vd.check = .done
  listenSince : t.sl.listenSince = s.now
  tallySince : t.tq.tallySince = some s.now
  station : t.sl.station = if s.sl.clashNoted = true then .barred else .listening
  tally : s.tq.queue.length < 6 → ∃ q ∈ t.tq.queue, q.notice = .tally

theorem started (settled : Settled s) (dead : s.sb.claim.live = false) (shut : s.valve b = .closed) : Started b s s.startUpDone.finish := by
  obtain ⟨q, a, rest⟩ := listens_rest s
  have waits := listens_tally (s := s)
  by_cases noted : s.sl.clashNoted = true
  · rw [startUpDone_noted noted]
    have barred := DuplicateNumber.entered s.listens
    have kept (q : Queued) (m : q ∈ s.listens.tq.queue) := mem_enterBarred m
    have calm := barBeds_calm (s := s.listens)
    have none := barBeds_dead (s := s.listens) (by rw [rest]; exact dead)
    have closed := (barring_barBeds s.listens).shut b (by rw [State.valve, rest]; exact shut)
    generalize s.listens.enterBarred = E at barred kept ⊢
    obtain ⟨x, l, ends⟩ := finish_barred (s := E) (by rw [barred.sl]) (fun d => by rw [barred.bed]; exact (calm d).1)
      (by rw [barred.claim]; exact none)
    rw [ends]
    have valve : E.valve b = s.valve b := by rw [barred.valve, closed, shut]
    exact ⟨barred.now.trans (by rw [rest]), valve, barred.pw.trans (by rw [rest]), fun e => absurd noted (ne_true_of_eq_false e),
      barred.check.trans (by rw [rest]), by rw [show (E.lapsed false x l false).sl = E.sl from rfl, barred.sl, rest],
      barred.tallySince.trans (by rw [rest]),
      by rw [show (E.lapsed false x l false).sl = E.sl from rfl, barred.sl, if_pos noted],
      fun room => (waits room).imp fun q ⟨m, tally⟩ => ⟨kept q m (by rw [tally]; rfl) (by rw [tally]; rfl) (by rw [tally]; rfl), tally⟩⟩
  · rw [startUpDone_unnoted (Bool.eq_false_of_not_eq_true noted)]
    have h := finish_settled s.listens (settled_listens settled)
    refine ⟨by rw [h.now, rest], by rw [h.valve, State.valve, rest]; rfl, by rw [h.pw, rest], fun _ => by rw [h.bc, rest], by rw [h.vd, rest],
      by rw [h.sl, rest], by rw [h.tallySince, rest], by rw [h.sl, rest, if_neg noted], fun room => ?_⟩
    exact (waits room).imp fun q ⟨m, tally⟩ => ⟨h.mem_queue m, tally⟩

theorem closure_pulse {rsv : Bool} {x : Nat} (settled : Settled s) (station : s.sl.station = .checking) (closure : s.vd.check = .closure)
    (pulse : s.vd.generator = .pulse ⟨b, .closes⟩ rsv x) (open' : (s.bed b).state ≠ .closing) (idle : s.sb.claim.phase = .none) :
    let last := s.queued b = false ∧ ∀ d, d ≠ b → s.latching d = true → s.valve d ≠ .unknown ∧ s.queued d = false
    ∃ t, exec .pulseEnd s = .next t ∧ t.now = pulseEnds x s ∧ t.valve b = .closed ∧ t.pw = s.pw
      ∧ (s.sl.clashNoted = false → t.bc = s.bc)
      ∧ (s.latching b = true → ¬ last → t.sl = s.sl ∧ t.vd.check = .closure ∧ t.tq.tallySince = s.tq.tallySince)
      ∧ (last → t.vd.check = .done ∧ t.sl.listenSince = pulseEnds x s ∧ t.tq.tallySince = some (pulseEnds x s)
          ∧ t.sl.station = (if s.sl.clashNoted = true then .barred else .listening)
          ∧ (s.tq.queue.length < 6 → ∃ q ∈ t.tq.queue, q.notice = .tally)) := by
  intro last
  have live : s.live = true := by rw [State.live, station]; rfl
  have run := closure_run live pulse open'
  have shuts := shut_iff b (pulseEnds x s) s
  have closed := valve_closeEnded b (pulseEnds x s) s
  by_cases shut : (closeEnded b (pulseEnds x s) s).startUpShut = true
  · rw [State.checkStartUp, if_pos ⟨station, closure, shut⟩] at run
    have h := started (s := closeEnded b (pulseEnds x s) s) settled (by
      rw [show (closeEnded b (pulseEnds x s) s).sb = s.sb from rfl, Claim.live, idle]) closed
    exact ⟨_, run, h.now, h.valve.trans closed, h.pw, h.bc, fun latching other => absurd ⟨(shuts.1 shut).1 latching, (shuts.1 shut).2⟩ other,
      fun _ => ⟨h.check, h.listenSince, h.tallySince, h.station, h.tally⟩⟩
  · rw [State.checkStartUp, if_neg fun h => shut h.2.2] at run
    have h := finish_settled (closeEnded b (pulseEnds x s) s) settled
    exact ⟨_, run, h.now, h.valve b |>.trans closed, h.pw, fun _ => h.bc, fun _ _ => ⟨h.sl, by rw [h.vd]; exact closure, h.tallySince⟩,
      fun is => absurd (shuts.2 ⟨fun _ => is.1, is.2⟩) shut⟩

/-! ### The generator's next work (R131, R139) -/

/-- The generator free again. -/
def recovered (n : Nat) (s : State) : State := { s with now := n, vd.generator := .idle }

theorem recovery_run {x : Nat} (live : s.live = true) (recovery : s.vd.generator = .recovery x) :
    exec .recoveryEnd s = .next (recovered (max s.now (x + 100 * 12)) s).kick.finish := by
  simp only [exec, execRecoveryEnd, State.take, live, recovery, if_true]
  rfl

theorem settled_kick (settled : Settled s) : Settled s.kick := by
  unfold State.kick
  split
  · split
    · exact settled
    · split
      · split <;> exact settled
      · exact settled
  · exact settled
  · exact settled

theorem kick_closure {l : List BedId} (idle : s.vd.generator = .idle) (closures : s.vd.closures = b :: l) :
    s.kick = { s with vd.closures := l, vd.generator := .pulse ⟨b, .closes⟩ true s.now } := by
  unfold State.kick
  rw [idle, closures]

theorem kick_request {r : Request} {l : List Request} (idle : s.vd.generator = .idle) (closures : s.vd.closures = [])
    (good : s.vd.supply = .good) (queue : s.vd.queue = r :: l) :
    s.kick = { s with vd.queue := l, vd.generator := .pulse r false s.now } := by
  unfold State.kick
  rw [idle, closures, queue]
  exact if_pos good

theorem kick_nothing (closures : s.vd.closures = []) (nothing : s.vd.supply ≠ .good ∨ s.vd.queue = []) : s.kick = s := by
  unfold State.kick
  rw [closures]
  split
  · dsimp only
    split
    · next good => rw [nothing.resolve_left fun h => h good]
    · rfl
  · rfl
  · rfl

/-- Settles O40: the pulses by their direction, the last one of the start-up closure, and the recovery. -/
theorem pulsesMoveTheirValve : Obligations.PulsesMoveTheirValve := by
  refine ⟨fun b rsv x s settled live other => ⟨?_, ?_, ?_⟩, fun b rsv x s settled station closure pulse open' idle => ?_,
    fun x s settled live recovery => ?_⟩
  · exact fun pulse opening single => open_pulse settled live other pulse opening single
  · exact fun pulse open' => close_pulse settled live other pulse open'
  · exact fun pulse closing configured spared => closing_pulse live other pulse closing configured spared
  · exact closure_pulse settled station closure pulse open' idle
  · have h {u : State} (kicks : (recovered (max s.now (x + 100 * 12)) s).kick = u) : AfterAlerts u (recovered (max s.now (x + 100 * 12)) s).kick.finish :=
      kicks ▸ finish_settled _ (settled_kick (s := recovered (max s.now (x + 100 * 12)) s) settled)
    exact ⟨_, recovery_run live recovery, fun b l closures => h (kick_closure rfl closures),
      fun r l closures good queue => h (kick_request rfl closures good queue), fun closures nothing => h (kick_nothing closures nothing)⟩

end Sys2Proof.PulsesAndCloses

/-! PROOFS. The bed timers that run out (R97, R125, R126). -/

namespace Sys2Proof.Machine

variable {b d : BedId} {s t u : State} {x y z : Bed}

/-! ### What an evaluation keeps of its bed (R89, R107) -/

/-- Thresholds, pending targets and the skip mark stay; no run record is made. -/
structure Bed.Judged (x y : Bed) : Prop where
  start : y.start = x.start
  stop : y.stop = x.stop
  targets : y.targets = x.targets
  skip : y.skip = x.skip
  run : x.run = none → y.run = none

namespace Bed.Judged

theorem refl (x : Bed) : x.Judged x := ⟨rfl, rfl, rfl, rfl, id⟩

theorem trans (h : x.Judged y) (k : y.Judged z) : x.Judged z :=
  ⟨k.start.trans h.start, k.stop.trans h.stop, k.targets.trans h.targets, k.skip.trans h.skip, fun e => k.run (h.run e)⟩

end Bed.Judged

theorem judged_setFaulted (f : BedFault) (s : State) : (s.bed b).Judged ((s.setFaulted b f).bed b) := by
  rw [bed_setFaulted]
  exact ⟨rfl, rfl, rfl, rfl, fun _ => rfl⟩

theorem judged_setIdle (s : State) : (s.bed b).Judged ((s.setIdle b).bed b) := by
  unfold State.setIdle
  split
  · exact judged_setFaulted .probe s
  · rw [State.bed_modBed_same, Overdraw.bed_moveBed, if_pos rfl]
    exact ⟨rfl, rfl, rfl, rfl, fun _ => rfl⟩

theorem run_setIdle (b : BedId) (s : State) : ((s.setIdle b).bed b).run = none := by
  unfold State.setIdle
  split
  · rw [bed_setFaulted]
  · rw [State.bed_modBed_same]

theorem judged_setWaiting (n : Nat) (s : State) : (s.bed b).Judged ((s.setWaiting b n).bed b) := by
  rw [Overdraw.bed_setWaiting]
  exact ⟨rfl, rfl, rfl, rfl, id⟩

theorem setUrgency_bed (r : Urgency) (s : State) : (s.setUrgency b r).bed b = { s.bed b with urgency := r } := by
  have bed : (s.modBed b fun x => { x with urgency := r }).bed b = { s.bed b with urgency := r } := State.bed_modBed_same ..
  unfold State.setUrgency
  dsimp only
  split
  · next same => rw [← same]
  · split
    · exact bed
    · split
      · exact bed
      · exact bed
    · exact bed

theorem judged_setUrgency (r : Urgency) (s : State) : (s.bed b).Judged ((s.setUrgency b r).bed b) := by
  rw [setUrgency_bed]
  exact ⟨rfl, rfl, rfl, rfl, id⟩

theorem judged_takeUrgency (r : Option (Nat × Urgency)) (s : State) : (s.bed b).Judged ((s.takeUrgency b r).bed b) := by
  unfold State.takeUrgency
  split
  · exact judged_setUrgency ..
  · split
    · exact judged_setUrgency ..
    · exact .refl _

theorem judged_takeNeed (r : Option (Nat × Urgency)) (s : State) : (s.bed b).Judged ((s.takeNeed b r).bed b) := by
  unfold State.takeNeed
  split
  · split
    · exact .refl _
    · rw [State.bed_modBed_same]
      exact ⟨rfl, rfl, rfl, rfl, id⟩
  · exact .refl _

theorem judged_evaluate (fresh : Bool) (s : State) : (s.bed b).Judged ((s.evaluate b fresh).bed b) := by
  unfold State.evaluate
  dsimp only
  split
  · exact .refl _
  · split
    · split
      · exact judged_setFaulted ..
      · split
        · refine (judged_setWaiting 0 s).trans ?_
          rw [State.bed_modBed_same]
          exact ⟨rfl, rfl, rfl, rfl, id⟩
        · exact .refl _
    · split
      · exact judged_setIdle s
      · split
        · exact judged_setIdle s
        · split
          · exact judged_takeUrgency ..
          · exact (judged_takeNeed ..).trans (judged_takeUrgency ..)
    · split
      · exact judged_takeUrgency ..
      · exact (judged_takeNeed ..).trans (judged_takeUrgency ..)
    · exact .refl _

/-- The record with its pending targets in force. -/
def Bed.brought (x : Bed) : Bed :=
  match x.targets with
  | none => x
  | some p => { x with start := p.1, stop := p.2, targets := none }

theorem Bed.brought_run (x : Bed) : x.brought.run = x.run := by
  unfold Bed.brought
  split <;> rfl

theorem judged_bringTargets (s : State) : (s.bed b).brought.Judged ((s.bringTargets b).bed b) := by
  unfold State.bringTargets Bed.brought
  cases (s.bed b).targets with
  | none => exact .refl _
  | some p =>
    dsimp only
    have bed : (s.modBed b fun x => { x with start := p.1, stop := p.2, targets := none }).bed b
        = { s.bed b with start := p.1, stop := p.2, targets := none } := State.bed_modBed_same ..
    split
    · exact bed ▸ judged_evaluate false _
    · exact bed ▸ .refl _

/-- The targets of a bed in a run come into force without an evaluation. -/
theorem bringTargets_running {r : Run} (run : (s.bed b).run = some r) : (s.bringTargets b).bed b = (s.bed b).brought := by
  unfold State.bringTargets Bed.brought
  cases (s.bed b).targets with
  | none => rfl
  | some p =>
    dsimp only
    have bed : (s.modBed b fun x => { x with start := p.1, stop := p.2, targets := none }).bed b
        = { s.bed b with start := p.1, stop := p.2, targets := none } := State.bed_modBed_same ..
    rw [if_neg (by rw [bed, run]; simp), bed]

theorem run_toIdle (b : BedId) (s : State) : ((s.toIdle b).bed b).run = none :=
  (judged_bringTargets (s.setIdle b)).run (by rw [Bed.brought_run, run_setIdle])

end Sys2Proof.Machine

namespace Sys2Proof.BedTimers

open Sys2Proof.Machine

variable {b d : BedId} {s t u v : State}

/-- An event on a resting bed that leaves the book as it was: the bed may be offered after it. -/
theorem resting_finish (settled : Settled s) (rests : Resting b s u) (calm : (s.bed b).state ≠ .claiming) :
    Offered u u.finish ∧ Inside s u.finish :=
  ⟨offered_finish (by rw [rests.sb calm]; exact settled.1), rests.toInside.trans (inside_finish u)⟩

theorem toIdle_finish (settled : Settled s) (calm : (s.bed b).state ≠ .claiming) :
    Inside s (s.toIdle b).finish ∧ ((s.toIdle b).finish.bed b).run = none := by
  obtain ⟨offered, inside⟩ := resting_finish settled (resting_toIdle b s) calm
  exact ⟨inside, (offered.beds b).kept.1.trans (run_toIdle b s)⟩

theorem toWaiting_finish {r : Run} (settled : Settled s) (calm : (s.bed b).state ≠ .claiming) (run : (s.bed b).run = some r) :
    let t := (s.toWaiting b 0).finish
    Inside s t ∧ (t.bed b).run = some r ∧ (t.bed b).soakSince = none ∧ ((t.bed b).state = .waiting ∨ (t.bed b).state = .claiming)
      ∧ (t.bed b).backoffEnd = none := by
  intro t
  obtain ⟨offered, inside⟩ := resting_finish settled (resting_toWaiting b 0 s) calm
  have set : (s.setWaiting b 0).bed b = _ := Overdraw.bed_setWaiting b 0 s
  have bed : (s.toWaiting b 0).bed b = ((s.setWaiting b 0).bed b).brought := bringTargets_running (by rw [set]; exact run)
  have keeps (x : Bed) : x.brought.run = x.run ∧ x.brought.soakSince = x.soakSince ∧ x.brought.state = x.state
      ∧ x.brought.backoffEnd = x.backoffEnd := by
    unfold Bed.brought
    split <;> exact ⟨rfl, rfl, rfl, rfl⟩
  obtain ⟨ran, soak, waits, backoff⟩ := keeps ((s.setWaiting b 0).bed b)
  rw [set] at ran soak waits backoff
  rw [set] at bed
  rcases offered.beds b with same | ⟨-, claims⟩
  · rw [show t.bed b = _ from same, bed]
    exact ⟨inside, ran.trans run, soak, .inl waits, backoff⟩
  · rw [show t.bed b = _ from claims, bed]
    exact ⟨inside, ran.trans run, rfl, .inr rfl, rfl⟩

/-- Settles O35: the tick, the soak's end by the run's age, and the limit of a day. -/
theorem bedTimersRunOut : Obligations.BedTimersRunOut := by
  intro b x s settled live
  refine ⟨fun since => ⟨_, rfl, take_settled live ?_ settled⟩, fun r soaking since run => ?_, fun r waiting run => ?_⟩
  · dsimp only
    rw [since]
    rfl
  · set v := s.advanceTo (x + (s.setupOf b).soak * 720000) with hv
    have ends : exec (.soakEnd b) s = .next (v.endSoak b).finish := by
      simp only [exec, execSoakEnd, State.take, live, soaking, since, if_true]
      rfl
    have calm : (v.bed b).state ≠ .claiming := by rw [show (v.bed b).state = .soaking from soaking]; nofun
    by_cases old : v.dayOld r = true
    · have idles : v.endSoak b = v.toIdle b := by
        unfold State.endSoak
        rw [show (v.bed b).run = some r from run]
        exact if_pos old
      obtain ⟨inside, gone⟩ := toIdle_finish (s := v) settled calm
      rw [idles] at ends
      refine ⟨_, ends, inside.now, fun young => ?_, fun _ => gone, inside.core, inside.pw, inside.peers⟩
      have clock : (v.toIdle b).finish.runClock = v.runClock := by unfold State.runClock; rw [inside.now, inside.sl]
      rw [clock] at young
      exact absurd (of_decide_eq_true old) (Nat.not_le.2 young)
    · have waits : v.endSoak b = v.toWaiting b 0 := by
        unfold State.endSoak
        rw [show (v.bed b).run = some r from run]
        exact if_neg old
      obtain ⟨inside, ran, soak, state, backoff⟩ := toWaiting_finish (s := v) settled calm run
      rw [waits] at ends
      refine ⟨_, ends, inside.now, fun _ => ⟨ran, soak, state, backoff⟩, fun aged => ?_, inside.core, inside.pw, inside.peers⟩
      have clock : (v.toWaiting b 0).finish.runClock = v.runClock := by unfold State.runClock; rw [inside.now, inside.sl]
      rw [clock] at aged
      exact absurd (decide_eq_true aged) old
  · set v := s.advanceTo (s.sl.loadingEnd + (r.startMinute + 1440) * 720000)
    have ends : exec (.runDayLimit b) s = .next (v.toIdle b).finish := by
      simp only [exec, execRunDayLimit, State.take, live, waiting, run, if_true]
      rfl
    obtain ⟨inside, gone⟩ := toIdle_finish (s := v) settled (by rw [show (v.bed b).state = .waiting from waiting]; nofun)
    exact ⟨_, ends, inside.now, gone, inside.core, inside.pw, inside.peers⟩

end Sys2Proof.BedTimers

/-! PROOFS. Orders that act on beds, one by one or by group (R107, R180). -/

namespace Sys2Proof.Machine

open FramesAndOrders

variable {b d : BedId} {s t u x : State} {k : OrderKind} {takes : BedId → State → Bool} {act : BedId → State → State} {l : List BedId}
  {src sel len : Nat}

/-! ### The gate's way to the beds -/

theorem order_bed (hears : s.hearsOrder src) (passes : s.sl.station.passes k = true) (present : s.presentBed sel = some b)
    (taken : takes b (s.frameTaken src len) = true) :
    s.order src s.sl.own len (State.bedOrder s.sl.own sel k true takes act)
      = ((act b (s.frameTaken src len)).answer s.sl.own .ack).finish := by
  rw [order_hears src len hears, bedOrder_taken hears.2.2.2 (by rw [frameTaken_own, passes]) (by rw [frameTaken_presentBed, present]) taken]

theorem order_beds (hears : s.hearsOrder src) (passes : s.sl.station.passes k = true) (group : s.groupBeds sel = some l) :
    s.order src 0 len (State.bedOrder 0 sel k true takes act)
      = (l.foldl (fun s b => s.groupBed k takes act b) (s.frameTaken src len)).finish := by
  rw [order_group src len hears, bedOrder_group (by rw [frameTaken_own, passes]) ((frameTaken_groupBeds ..).trans group)]

/-- Each bed of a group is reached once. -/
theorem groupBeds_nodup (group : s.groupBeds sel = some l) : l.Nodup := by
  unfold State.groupBeds at group
  split at group
  · cases group
  · obtain rfl := Option.some.inj group
    exact List.Nodup.filter _ (List.nodup_finRange 8)

theorem groupBed_absent (absent : (s.setupOf b).present = false) : s.groupBed k takes act b = s.noteRefusal k .bedRange := by
  unfold State.groupBed
  rw [absent]
  rfl

theorem groupBed_taken (present : (s.setupOf b).present = true) (taken : takes b s = true) : s.groupBed k takes act b = act b s := by
  unfold State.groupBed
  rw [present, taken]
  rfl

theorem groupBed_refused (present : (s.setupOf b).present = true) (off : takes b s = false) : s.groupBed k takes act b = s.noteRefusal k .bedOff := by
  unfold State.groupBed
  rw [present, off]
  rfl

/-- What an order and a refusal both keep, a bed of the group keeps. -/
theorem groupBed_keeps {R : State → State → Prop} (refuses : ∀ r, R s (s.noteRefusal k r)) (acts : R s (act b s)) :
    R s (s.groupBed k takes act b) := by
  unfold State.groupBed
  split
  · exact refuses _
  · split
    · exact refuses _
    · exact acts

theorem foldl_keeps {f : State → BedId → State} {R : State → State → Prop} (refl : ∀ s, R s s) (trans : ∀ s t u, R s t → R t u → R s u)
    (keeps : ∀ s d, R s (f s d)) (l : List BedId) (s : State) : R s (l.foldl f s) := by
  induction l generalizing s with
  | nil => exact refl s
  | cons d l ih => exact trans _ _ _ (keeps s d) (ih _)

/-! ### TARGET on one bed -/

theorem targetBed_now (a z : Nat) (now : (s.bed b).state = .idle ∨ (s.bed b).state = .waiting ∨ (s.bed b).state = .off
    ∨ (s.bed b).state = .faulted) :
    s.targetBed a z b = (s.modBed b fun x => { x with targets := some (a, z) }).bringTargets b := by
  have state : ((s.modBed b fun x => { x with targets := some (a, z) }).bed b).state = (s.bed b).state := by rw [State.bed_modBed_same]
  unfold State.targetBed
  dsimp only
  rw [state]
  rcases now with e | e | e | e <;> rw [e]

theorem targetBed_later (a z : Nat) (later : (s.bed b).state = .claiming ∨ (s.bed b).state.cycling = true ∨ (s.bed b).state = .closing
    ∨ (s.bed b).state = .soaking) : s.targetBed a z b = s.modBed b fun x => { x with targets := some (a, z) } := by
  have state : ((s.modBed b fun x => { x with targets := some (a, z) }).bed b).state = (s.bed b).state := by rw [State.bed_modBed_same]
  unfold State.targetBed
  dsimp only
  rw [state]
  cases e : (s.bed b).state <;> simp [e, BedState.cycling] at later <;> rfl

theorem BedState.now_or_later (x : BedState) : (x = .idle ∨ x = .waiting ∨ x = .off ∨ x = .faulted)
    ∨ (x = .claiming ∨ x.cycling = true ∨ x = .closing ∨ x = .soaking) := by cases x <;> simp [BedState.cycling]

theorem resting_targets (p : Option (Nat × Nat)) (s : State) : Resting d s (s.modBed d fun x => { x with targets := p }) :=
  resting_modBed _ s rfl le_rfl rfl

theorem resting_targetBed (a z : Nat) (d : BedId) (s : State) : Resting d s (s.targetBed a z d) := by
  rcases BedState.now_or_later (s.bed d).state with now | later
  · rw [targetBed_now a z now]
    exact (resting_targets _ s).trans (resting_bringTargets d _)
  · rw [targetBed_later a z later]
    exact resting_targets _ s

theorem targetBed_sb (a z : Nat) (d : BedId) (s : State) : (s.targetBed a z d).sb = s.sb := by
  by_cases claiming : (s.bed d).state = .claiming
  · rw [targetBed_later a z (.inl claiming)]
    rfl
  · exact (resting_targetBed a z d s).sb claiming

end Sys2Proof.Machine

namespace Sys2Proof.TargetOrders

open Sys2Proof.Machine FramesAndOrders

variable {b d : BedId} {s t u x : State} {a z : Nat}

/-- A bed's thresholds after a TARGET: in force, or pending. -/
structure Targeted (a z : Nat) (x y : Bed) : Prop where
  now : x.state = .idle ∨ x.state = .waiting ∨ x.state = .off ∨ x.state = .faulted → y.start = a ∧ y.stop = z ∧ y.targets = none
  later : x.state = .claiming ∨ x.state.cycling = true ∨ x.state = .closing ∨ x.state = .soaking → y = { x with targets := some (a, z) }

theorem targeted_targetBed (a z : Nat) (b : BedId) (s : State) : Targeted a z (s.bed b) ((s.targetBed a z b).bed b) := by
  refine ⟨fun now => ?_, fun later => by rw [targetBed_later a z later, State.bed_modBed_same]⟩
  rw [targetBed_now a z now]
  have h := judged_bringTargets (b := b) (s.modBed b fun x => { x with targets := some (a, z) })
  rw [State.bed_modBed_same] at h
  exact ⟨h.start, h.stop, h.targets⟩

/-- An offer after it changes no thresholds. -/
theorem Targeted.offered {x y w : Bed} (h : Targeted a z x y) (may : MayClaim y w) : Targeted a z x w := by
  obtain ⟨-, -, -, -, -, -, targets, start, stop, -⟩ := may.kept
  refine ⟨fun now => by rw [start, stop, targets]; exact h.now now, fun later => ?_⟩
  have same := h.later later
  rw [← same]
  refine may.of_not_waiting fun waits => ?_
  rw [same] at waits
  rcases later with e | e | e | e <;> simp [show x.state = _ from waits, BedState.cycling] at e

/-- The pass leaves the book, the setup and the other beds' thresholds. -/
structure Aims (s t : State) : Prop extends Inside s t where
  sb : t.sb = s.sb

namespace Aims

theorem refl (s : State) : Aims s s := ⟨.refl s, rfl⟩

theorem trans (h : Aims s t) (k : Aims t u) : Aims s u := ⟨h.toInside.trans k.toInside, k.sb.trans h.sb⟩

end Aims

theorem aims_targetBed (a z : Nat) (d : BedId) (s : State) : Aims s (s.targetBed a z d) := ⟨(resting_targetBed a z d s).toInside, targetBed_sb a z d s⟩

theorem aims_groupBed (k : OrderKind) (takes : BedId → State → Bool) (d : BedId) (s : State) :
    Aims s (s.groupBed k takes (State.targetBed a z) d) :=
  groupBed_keeps (fun _ => ⟨inside_noteRefusal .., rfl⟩) (aims_targetBed a z d s)

theorem aside_groupBed (k : OrderKind) (takes : BedId → State → Bool) (ne : d ≠ b) (s : State) :
    Aside b s (s.groupBed k takes (State.targetBed a z) d) :=
  groupBed_keeps (R := Aside b) (fun _ => aside_same rfl rfl rfl)
    (aside_onlyBed (resting_targetBed a z d s).toOnlyBed (Ne.symm ne))

/-- Settles O29: by number, and by group bed by bed. -/
theorem targetSetsTheThresholds : Obligations.TargetSetsTheThresholds := by
  intro src sel a z s settled hears passes ha hz lt targeted
  have args : targetArgs a z = true := by simp [targetArgs, ha, hz, lt]
  have frame := frameTaken_settled src 4 settled
  have of_targeted {b : BedId} {t : State} (h : Targeted a z (s.bed b) (t.bed b)) : targeted b t := ⟨h.now, h.later⟩
  refine ⟨fun b present => ?_, fun l group => ?_⟩
  · have run : exec (.target src s.sl.own sel a z) s
        = .next (((s.frameTaken src 4).targetBed a z b).answer s.sl.own .ack).finish := by
      rw [← order_bed (act := State.targetBed a z) (takes := fun _ _ => true) hears passes present rfl]
      change Host.Outcome.next (s.order src s.sl.own 4 (State.bedOrder s.sl.own sel .target (targetArgs a z) _ _)) = _
      rw [args]
    have rests := resting_targetBed a z b (s.frameTaken src 4)
    have own : ((s.frameTaken src 4).targetBed a z b).sl.own = s.sl.own := by rw [rests.sl, frameTaken_own]
    have answered := PeerNotices.aside_answer s.sl.own .ack ((s.frameTaken src 4).targetBed a z b)
    have clean : (((s.frameTaken src 4).targetBed a z b).answer s.sl.own .ack).sb.dirty = false := by
      rw [answer_rest, targetBed_sb]
      exact frame.1
    have offered := offered_finish clean
    have aimed := targeted_targetBed a z b (s.frameTaken src 4)
    rw [frameTaken_bed, ← (answered b).bed] at aimed
    refine ⟨_, run, ?_, fun d ne => ?_, of_targeted (aimed.offered (offered.beds b))⟩
    · rw [(inside_finish _).li, answer_answer .ack own]
    · obtain ⟨-, -, -, -, -, -, targets, -⟩ := (offered.beds d).kept
      rw [targets, (answered d).bed, rests.others d ne, frameTaken_bed]
  · let pass := fun (s : State) (d : BedId) => s.groupBed .target (fun _ _ => true) (State.targetBed a z) d
    have run : exec (.target src 0 sel a z) s = .next (l.foldl pass (s.frameTaken src 4)).finish := by
      rw [← order_beds hears passes group]
      change Host.Outcome.next (s.order src 0 4 (State.bedOrder 0 sel .target (targetArgs a z) _ _)) = _
      rw [args]
    have keeps (s : State) (d : BedId) : Aims s (pass s d) := aims_groupBed .target _ d s
    have whole : Aims (s.frameTaken src 4) (l.foldl pass (s.frameTaken src 4)) :=
      foldl_keeps Aims.refl (fun _ _ _ => Aims.trans) keeps l _
    have offered := offered_finish (s := l.foldl pass (s.frameTaken src 4)) (by rw [whole.sb]; exact frame.1)
    have once := groupBeds_nodup group
    have others (b d : BedId) (ne : d ≠ b) (s : State) : Aside b s (pass s d) := aside_groupBed .target _ ne s
    refine ⟨_, run, ?_, fun b m present => of_targeted ?_, fun b out => ?_⟩
    · rw [(inside_finish _).li, whole.li, frameTaken_answer]
    · obtain ⟨x, before, aside, -, after⟩ := foldl_at Aims.refl (fun _ _ _ => Aims.trans) keeps once m (others b) (s.frameTaken src 4)
      have reached : pass x b = x.targetBed a z b :=
        groupBed_taken (by rw [State.setupOf, before.sl, frameTaken_own]; exact present) rfl
      have aimed := targeted_targetBed a z b x
      rw [← reached, ← after.bed, aside.bed, frameTaken_bed] at aimed
      exact aimed.offered (offered.beds b)
    · have same : (l.foldl pass (s.frameTaken src 4)).bed b = s.bed b := by
        by_cases m : b ∈ l
        · obtain ⟨x, before, aside, -, after⟩ := foldl_at Aims.refl (fun _ _ _ => Aims.trans) keeps once m (others b) (s.frameTaken src 4)
          have refused : pass x b = x.noteRefusal .target .bedRange :=
            groupBed_absent (by rw [State.setupOf, before.sl, frameTaken_own]; exact out.resolve_left fun e => e m)
          rw [after.bed, refused, show (x.noteRefusal .target .bedRange).bed b = x.bed b from rfl, aside.bed, frameTaken_bed]
        · rw [(foldl_aside m (others b) _).bed, frameTaken_bed]
      obtain ⟨-, -, -, -, -, -, targets, start, stop, -⟩ := (offered.beds b).kept
      rw [same] at targets start stop
      exact ⟨targets, start, stop⟩

end Sys2Proof.TargetOrders

/-! PROOFS. The setup image and the end of LOADING (R88, R141, R183 to R185). -/

namespace Sys2Proof.SetupImage

open Sys2Proof.Machine

variable {b d : BedId} {s t u : State} {x y : Bed}

/-! ### Beds that no cycle and no claim touch -/

/-- No run, and a state in which nothing is under way. -/
def Dormant (x : Bed) : Prop := (x.state = .off ∨ x.state = .idle ∨ x.state = .waiting ∨ x.state = .faulted) ∧ x.run = none

theorem Dormant.calm (h : Dormant x) : x.state ≠ .claiming ∧ x.state.cycling = false := by
  rcases h.1 with e | e | e | e <;> rw [e] <;> exact ⟨nofun, rfl⟩

/-- A dormant bed stays one, and stays in or out of OFF. -/
def Dormant.Onto (x y : Bed) : Prop := Dormant x → Dormant y ∧ (y.state = .off ↔ x.state = .off)

namespace Dormant.Onto

theorem refl (x : Bed) : Onto x x := fun h => ⟨h, Iff.rfl⟩

theorem trans {z : Bed} (h : Onto x y) (k : Onto y z) : Onto x z := fun e =>
  have first := h e
  have second := k first.1
  ⟨second.1, second.2.trans first.2⟩

theorem same (state : y.state = x.state) (run : y.run = x.run) : Onto x y := fun h =>
  ⟨⟨by rw [state]; exact h.1, by rw [run]; exact h.2⟩, by rw [state]⟩

theorem entering (on : x.state ≠ .off) (state : y.state = .idle ∨ y.state = .waiting ∨ y.state = .faulted) (run : x.run = none → y.run = none) :
    Onto x y := fun h =>
  ⟨⟨.inr state, run h.2⟩, fun off => absurd off (by rcases state with e | e | e <;> rw [e] <;> nofun), fun off => absurd off on⟩

end Dormant.Onto

/-! ### What the kept clock and record can bring (R92, R99, R169) -/

/-- With all beds dormant: the drive, the book, the queue and the record as they were, the beds dormant. -/
structure Quiet (s t : State) : Prop where
  now : t.now = s.now
  sl : t.sl = s.sl
  li : t.li = s.li
  vd : t.vd = s.vd
  sb : t.sb = s.sb
  tq : t.tq = s.tq
  record : t.au.record = s.au.record
  latched : ∀ c, (s.latch c).pending = true → (t.latch c).pending = true
  beds : ∀ b, Dormant.Onto (s.bed b) (t.bed b)

structure Quietens (s t : State) : Prop where
  quiet : (∀ b, Dormant (s.bed b)) → Quiet s t

namespace Quietens

theorem refl (s : State) : Quietens s s := ⟨fun _ => ⟨rfl, rfl, rfl, rfl, rfl, rfl, rfl, fun _ => id, fun _ => .refl _⟩⟩

theorem trans (h : Quietens s t) (k : Quietens t u) : Quietens s u where
  quiet dormant :=
    have a := h.quiet dormant
    have b := k.quiet fun d => (a.beds d (dormant d)).1
    ⟨b.now.trans a.now, b.sl.trans a.sl, b.li.trans a.li, b.vd.trans a.vd, b.sb.trans a.sb, b.tq.trans a.tq, b.record.trans a.record,
      fun c e => b.latched c (a.latched c e), fun d => (a.beds d).trans (b.beds d)⟩

theorem ite {p : Prop} [Decidable p] (ht : p → Quietens s t) (hu : ¬ p → Quietens s u) : Quietens s (if p then t else u) := by
  split
  · next h => exact ht h
  · next h => exact hu h

theorem foldl {α : Type} {f : State → α → State} (keeps : ∀ s a, Quietens s (f s a)) (l : List α) (s : State) : Quietens s (l.foldl f s) := by
  induction l generalizing s with
  | nil => exact .refl s
  | cons a l ih => exact (keeps s a).trans (ih _)

theorem forBeds {f : BedId → State → State} (keeps : ∀ b s, Quietens s (f b s)) (s : State) : Quietens s (s.forBeds f) :=
  foldl (fun s b => keeps b s) allBeds s

/-- A change of what the closing work does not read. -/
theorem aside (now : t.now = s.now) (sl : t.sl = s.sl) (li : t.li = s.li) (vd : t.vd = s.vd) (sb : t.sb = s.sb) (tq : t.tq = s.tq)
    (au : t.au = s.au) (beds : t.bc.beds = s.bc.beds) : Quietens s t where
  quiet _ := ⟨now, sl, li, vd, sb, tq, by rw [au], fun c e => by rwa [State.latch, au], fun b => by
    rw [show t.bed b = s.bed b by rw [State.bed, beds]; rfl]
    exact .refl _⟩

theorem resting (h : Resting d s t) (onto : Dormant.Onto (s.bed d) (t.bed d)) : Quietens s t where
  quiet dormant := ⟨h.now, h.sl, h.li, h.vd, h.sb (dormant d).calm.1, h.tq, by rw [h.au], h.latched, fun b => by
    by_cases e : b = d
    · rw [e]; exact onto
    · rw [h.others b e]; exact .refl _⟩

end Quietens

theorem onto_setFaulted (f : BedFault) (on : (s.bed d).state ≠ .off) : Dormant.Onto (s.bed d) ((s.setFaulted d f).bed d) :=
  .entering on (by rw [bed_setFaulted]; exact .inr (.inr rfl)) (judged_setFaulted f s).run

theorem onto_setIdle (on : (s.bed d).state ≠ .off) : Dormant.Onto (s.bed d) ((s.setIdle d).bed d) := by
  refine .entering on ?_ (judged_setIdle s).run
  unfold State.setIdle
  split
  · rw [bed_setFaulted]
    exact .inr (.inr rfl)
  · rw [State.bed_modBed_same, Overdraw.bed_moveBed, if_pos rfl]
    exact .inl rfl

theorem onto_takeUrgency (r : Option (Nat × Urgency)) (s : State) : Dormant.Onto (s.bed d) ((s.takeUrgency d r).bed d) := by
  unfold State.takeUrgency
  split
  · rw [setUrgency_bed]
    exact .same rfl rfl
  · split
    · rw [setUrgency_bed]
      exact .same rfl rfl
    · exact .refl _

theorem onto_takeNeed (r : Option (Nat × Urgency)) (s : State) : Dormant.Onto (s.bed d) ((s.takeNeed d r).bed d) := by
  unfold State.takeNeed
  split
  · split
    · exact .refl _
    · rw [State.bed_modBed_same]
      exact .same rfl rfl
  · exact .refl _

theorem onto_evaluate (d : BedId) (fresh : Bool) (s : State) : Dormant.Onto (s.bed d) ((s.evaluate d fresh).bed d) := by
  unfold State.evaluate
  dsimp only
  split
  · exact .refl _
  · split
    · next idle =>
      split
      · exact onto_setFaulted .probe (by rw [idle]; nofun)
      · split
        · refine .entering (by rw [idle]; nofun) ?_ ?_ <;> rw [State.bed_modBed_same, Overdraw.bed_setWaiting]
          · exact .inr (.inl rfl)
          · exact id
        · exact .refl _
    · next waiting =>
      split
      · exact onto_setIdle (by rw [waiting]; nofun)
      · split
        · exact onto_setIdle (by rw [waiting]; nofun)
        · split
          · exact onto_takeUrgency _ s
          · exact (onto_takeNeed _ s).trans (onto_takeUrgency _ _)
    · split
      · exact onto_takeUrgency _ s
      · exact (onto_takeNeed _ s).trans (onto_takeUrgency _ _)
    · exact .refl _

theorem quietens_evaluate (d : BedId) (fresh : Bool) (s : State) : Quietens s (s.evaluate d fresh) :=
  .resting (resting_evaluate d fresh s) (onto_evaluate d fresh s)

/-- A bed's volumes change. -/
theorem quietens_volumes {f : Bed → Bed} (keeps : ∀ x, (f x).state = x.state ∧ (f x).run = x.run) (d : BedId) (s : State) :
    Quietens s (s.modBed d f) where
  quiet _ := ⟨rfl, rfl, rfl, rfl, rfl, rfl, rfl, fun _ => id, fun b => by
    rw [State.bed_modBed]
    split
    · next e => rw [e]; exact .same (keeps _).1 (keeps _).2
    · exact .refl _⟩

theorem quietens_updateDebts (s : State) : Quietens s s.updateDebts := by
  unfold State.updateDebts
  extract_lets cls rain applied u
  have pass : Quietens s u := by
    refine Quietens.forBeds (fun b s => ?_) s
    split
    · refine quietens_volumes ?_ b s
      exact fun _ => ⟨rfl, rfl⟩
    · exact Quietens.refl s
  exact pass.trans (Quietens.aside rfl rfl rfl rfl rfl rfl rfl rfl)

theorem quietens_rotateBuckets (m : Nat) (s : State) : Quietens s (s.rotateBuckets m) := by
  unfold State.rotateBuckets
  exact Quietens.ite (fun _ => Quietens.aside rfl rfl rfl rfl rfl rfl rfl rfl) fun _ => Quietens.refl s

theorem quietens_applyHour (m : Nat) (s : State) : Quietens s (s.applyHour m) := by
  have pass (s : State) : Quietens s (State.forBeds (fun b s => if s.probeRules b then s else s.evaluate b false) s) :=
    Quietens.forBeds (fun b s => Quietens.ite (fun _ => Quietens.refl s) fun _ => quietens_evaluate b false s) s
  exact ((quietens_updateDebts s).trans (pass _)).trans (quietens_rotateBuckets m _)

theorem quietens_applyDay (s : State) : Quietens s s.applyDay := by
  unfold State.applyDay
  extract_lets u
  have rolls : Quietens s u := by
    refine Quietens.forBeds (fun b s => ?_) s
    split
    · refine quietens_volumes ?_ b s
      exact fun _ => ⟨rfl, rfl⟩
    · exact Quietens.refl s
  refine rolls.trans (Quietens.forBeds (fun b s => ?_) u)
  split
  · exact quietens_evaluate b false s
  · exact Quietens.refl s

theorem quietens_takeDue (s : State) : Quietens s s.takeDue := by
  unfold State.takeDue
  refine .trans (t := { s with bc.due := [] }) (.aside rfl rfl rfl rfl rfl rfl rfl rfl) (Quietens.foldl (fun s d => ?_) _ _)
  cases d with
  | day => exact quietens_applyDay s
  | hour m => exact quietens_applyHour _ s

theorem quietens_holdBed (r : HoldReason) (d : BedId) (s : State) : Quietens s (s.holdBed r d) := ⟨fun dormant => by
  have still : s.holdBed r d = s := by
    unfold State.holdBed
    rcases (dormant d).1 with e | e | e | e <;> rw [e]
  rw [still]
  exact (Quietens.refl s).quiet dormant⟩

theorem quietens_setHold (r : HoldReason) (v : Bool) (s : State) : Quietens s (s.setHold r v) := by
  unfold State.setHold State.joinHold State.leaveHold
  refine .ite (fun _ => .ite (fun _ => .refl s) fun _ => ?_) fun _ => .ite (fun _ => .aside rfl rfl rfl rfl rfl rfl rfl rfl) fun _ => .refl s
  refine .trans (t := State.forBeds (State.holdBed r) { s with bc.holds := s.bc.holds.put r true }) ?_ (.aside rfl rfl rfl rfl rfl rfl rfl rfl)
  exact .trans (t := { s with bc.holds := s.bc.holds.put r true }) (.aside rfl rfl rfl rfl rfl rfl rfl rfl)
    (Quietens.forBeds (quietens_holdBed r) _)

theorem quietens_weighWeather (s : State) : Quietens s s.weighWeather := by
  unfold State.weighWeather
  split <;> exact ((quietens_setHold ..).trans (quietens_setHold ..)).trans (quietens_setHold ..)

theorem quietens_setPending (c : Cause) (bed value : Nat) (s : State) : Quietens s (s.setPending c bed value) := ⟨fun _ => by
  have rest := State.setPending_rest c bed value s
  have inside := inside_setPending c bed value s
  exact ⟨inside.now, inside.sl, inside.li, by rw [rest], by rw [rest], by rw [rest], State.setPending_record c bed value s, inside.latched, fun b => by
    rw [show (s.setPending c bed value).bed b = s.bed b by rw [rest]; rfl]
    exact .refl _⟩⟩

theorem quietens_takeKept (s : State) : Quietens s s.takeKept := by
  unfold State.takeKept State.goStale State.evaluateCause
  refine ((quietens_takeDue s).trans (quietens_weighWeather _)).trans (.ite (fun _ => ?_) fun _ => .refl _)
  refine .trans (.trans (t := { s.takeDue.weighWeather with pw.staleNoted := true }) (.aside rfl rfl rfl rfl rfl rfl rfl rfl)
    (quietens_weighWeather _)) (.ite (fun _ => quietens_setPending ..) fun _ => .refl _)

/-! ### What the image makes of each block (R183 to R185) -/

theorem image_run (image : List Byte) (f r : Bool) (loading : s.sl.station = .loading) (high : s.sl.rstnLow = false) :
    exec (.setupImageRead image f r) s = .next (s.loadImage image f r).finish := by
  have dead : s.live = false := by rw [State.live, loading]; rfl
  simp only [exec, execSetupImageRead, dead, high, Bool.or_self]
  rfl

/-- The faults of bed blocks write the alert unit alone. -/
theorem bedFaults_rest (image : List Byte) (s : State) : ∃ a, s.bedFaults image = { s with au := a } := by
  have each (l : List BedId) : ∀ u : State, ∃ a, l.foldl (fun s b => match bedError image b with
      | some o => s.raise .setup b.val 0 0 0 o 0
      | none => s) u = { u with au := a } := by
    induction l with
    | nil => exact fun u => ⟨u.au, rfl⟩
    | cons b l ih =>
      intro u
      rw [List.foldl_cons]
      split
      · next o _ =>
        obtain ⟨a, rest⟩ := ih (u.raise .setup b.val 0 0 0 o 0)
        exact ⟨a, rest.trans (by rw [raise_same])⟩
      · exact ih u
  exact each allBeds s

/-- The end of the event, for dormant beds outside ACTIVE. -/
theorem dormant_finish (settled : s.sb.dirty = false) (dormant : ∀ b, Dormant (s.bed b)) (b : BedId) :
    (((s.finish.bed b).state = .off ↔ (s.bed b).state = .off) ∧ (s.finish.bed b).run = none) ∧ s.finish.vd = s.vd ∧ Inside s s.finish := by
  have offered := offered_finish settled
  refine ⟨?_, offered.vd, offered.toInside⟩
  rcases offered.beds b with same | ⟨waits, claims⟩
  · rw [same]
    exact ⟨Iff.rfl, (dormant b).2⟩
  · rw [claims, waits]
    exact ⟨⟨nofun, nofun⟩, (dormant b).2⟩

theorem dormant_first (u : BedSetup) (x : Bed) : Dormant (x.first u) ∧ ((x.first u).state = .off ↔ u.valid = false) := by
  unfold Bed.first
  cases u.valid
  · exact ⟨⟨.inl rfl, rfl⟩, fun _ => rfl, fun _ => rfl⟩
  · exact ⟨⟨.inr (.inl rfl), rfl⟩, nofun, nofun⟩

/-- The blocks as a valid image leaves them. -/
structure Taken (image : List Byte) (s t : State) : Prop where
  sl : t.sl = { s.sl with station := .checking, setup := readSetup image, own := readStation image, loadingEnd := s.now }
  now : t.now = s.now
  rx : t.li.rx = .discard
  dirty : t.sb.dirty = s.sb.dirty
  budget : t.sb.budget = effectiveBudget (readSetup image).budget s.sb.presence
  check : t.vd.check = .reserveWait s.now
  marks : ∀ b, t.vd.marks.get b = ((readSetup image).beds.get b).valid
  beds : ∀ b, t.bed b = (s.bed b).first ((readSetup image).beds.get b)

theorem taken (image : List Byte) (f r : Bool) (s : State) : Taken image s ((s.endLoading f r).takeSetup image) := by
  obtain ⟨a, faults⟩ := bedFaults_rest image (s.endLoading f r)
  unfold State.takeSetup
  dsimp only
  rw [faults]
  exact ⟨rfl, rfl, rfl, rfl, rfl, rfl, fun b => PerBed.get_map .., fun b => PerBed.get_map ..⟩

theorem image_valid {image : List Byte} {f r : Bool} (settled : Settled s) (loading : s.sl.station = .loading) (high : s.sl.rstnLow = false)
    (valid : imageError image = none) : ∃ t, exec (.setupImageRead image f r) s = .next t
      ∧ t.sl.station = .checking ∧ t.sl.setup = readSetup image ∧ t.sl.own = readStation image ∧ t.sl.loadingEnd = s.now
      ∧ t.now = s.now ∧ t.li.rx = .discard ∧ t.vd.check = .reserveWait s.now
      ∧ t.sb.budget = effectiveBudget (readSetup image).budget s.sb.presence
      ∧ ∀ b, ((t.bed b).state = .off ↔ ((readSetup image).beds.get b).valid = false) ∧ (t.bed b).run = none
          ∧ t.vd.marks.get b = ((readSetup image).beds.get b).valid := by
  set u := (s.endLoading f r).takeSetup image
  have blocks : Taken image s u := taken image f r s
  have first (b : BedId) := dormant_first ((readSetup image).beds.get b) (s.bed b)
  have dormant (b : BedId) : Dormant (u.bed b) := by rw [blocks.beds]; exact (first b).1
  have kept := (quietens_takeKept u).quiet dormant
  have loads : s.loadImage image f r = u.takeKept := by
    unfold State.loadImage State.firstTally
    rw [valid]
    exact if_neg (by rw [show u.takeKept.sl = u.sl from kept.sl, blocks.sl]; nofun)
  have ends (b : BedId) := dormant_finish (s := u.takeKept) (by rw [kept.sb, blocks.dirty, settled.1]) (fun d => (kept.beds d (dormant d)).1) b
  have inside := inside_finish u.takeKept
  have sl : u.takeKept.finish.sl = _ := (inside.sl.trans kept.sl).trans blocks.sl
  have vd : u.takeKept.finish.vd = u.vd := (ends 0).2.1.trans kept.vd
  refine ⟨_, (image_run image f r loading high).trans (by rw [loads]), by rw [sl], by rw [sl], by rw [sl], by rw [sl],
    by rw [inside.now, kept.now, blocks.now], by rw [inside.li, kept.li, blocks.rx], by rw [vd, blocks.check], ?_, fun b => ⟨?_, (ends b).1.2, ?_⟩⟩
  · exact (inside.field fun x => x.sb.budget).trans ((congrArg SupplyBook.budget kept.sb).trans blocks.budget)
  · rw [(ends b).1.1, (kept.beds b (dormant b)).2, blocks.beds, (first b).2]
  · rw [vd, blocks.marks]

/-- The tally timer started, with this queue. -/
def tallying (l : List Queued) (s : State) : State := { s with tq.tallySince := some s.now, tq.queue := l }

theorem firstTally_waits (station : s.sl.station = .unconfigured) (empty : s.tq.queue = []) :
    ∃ l, s.firstTally = tallying l s ∧ ∃ q ∈ l, q.notice = .tally := by
  refine ⟨[⟨.tally, 0, false⟩], ?_, _, List.mem_singleton.2 rfl, rfl⟩
  have offers : (tallying [] s).offer .tally = tallying [⟨.tally, 0, false⟩] s := by
    unfold State.offer
    rw [if_pos]
    · rfl
    · simp [State.admits, tallying, station, StationState.admits, Notice.isTally]
      exact .inr (decide_eq_true (Nat.succ_pos 5))
  have timed : { s with tq.tallySince := some s.now } = tallying [] s := by
    unfold tallying
    rw [← empty]
  unfold State.firstTally
  rw [if_pos station, timed]
  exact offers

/-- The blocks as an invalid image leaves them. -/
structure NotTaken (image : List Byte) (o : Nat) (s t : State) : Prop where
  sl : t.sl = { s.sl with station := .unconfigured, setup := .blank, own := readStation image, loadingEnd := s.now }
  dirty : t.sb.dirty = s.sb.dirty
  tq : t.tq = s.tq
  beds : ∀ b, t.bed b = (s.bed b).first .absent
  pending : (t.latch .setup).pending = true
  record : s.au.record = none → t.au.record = some ⟨.setup, 15, 0, 0, word16 o, 0, s.clockMinute⟩

theorem notTaken (image : List Byte) (f r : Bool) (o : Nat) (s : State) : NotTaken image o s ((s.endLoading f r).takeNoSetup image o) := by
  have raised : (s.endLoading f r).raise .setup 15 0 0 0 o 0 = { s.endLoading f r with au := ((s.endLoading f r).raise .setup 15 0 0 0 o 0).au } :=
    raise_same ..
  refine ⟨?_, ?_, ?_, fun b => ?_, ?_, fun none => raise_record .setup 15 0 0 0 o 0 (s := s.endLoading f r) none⟩
  · unfold State.takeNoSetup
    rw [raised]
    rfl
  · unfold State.takeNoSetup
    rw [raised]
    rfl
  · unfold State.takeNoSetup
    rw [raised]
    rfl
  · unfold State.takeNoSetup
    rw [raised]
    exact PerBed.get_map ..
  · exact congrArg Latch.pending (raise_pending .setup 15 0 0 0 o 0 (s.endLoading f r))

theorem image_invalid {image : List Byte} {f r : Bool} {o : Nat} (settled : Settled s) (loading : s.sl.station = .loading)
    (high : s.sl.rstnLow = false) (empty : s.tq.queue = []) (invalid : imageError image = some o) :
    ∃ t, exec (.setupImageRead image f r) s = .next t
      ∧ t.sl.station = .unconfigured ∧ t.sl.setup = Setup.blank ∧ t.sl.own = readStation image
      ∧ (∀ b, (t.bed b).state = .off) ∧ (t.latch .setup).pending = true
      ∧ (s.au.record = none → t.au.record = some ⟨.setup, 15, 0, 0, word16 o, 0, s.clockMinute⟩)
      ∧ ∃ q ∈ t.tq.queue, q.notice = .tally := by
  set u := (s.endLoading f r).takeNoSetup image o
  have blocks : NotTaken image o s u := notTaken image f r o s
  have first (b : BedId) := dormant_first .absent (s.bed b)
  have dormant (b : BedId) : Dormant (u.bed b) := by rw [blocks.beds]; exact (first b).1
  have kept := (quietens_takeKept u).quiet dormant
  have sl : u.takeKept.sl = u.sl := kept.sl
  have loads : s.loadImage image f r = u.takeKept.firstTally := by
    unfold State.loadImage
    rw [invalid]
  obtain ⟨l, tallied, waits⟩ := firstTally_waits (s := u.takeKept) (by rw [sl, blocks.sl]) (by rw [kept.tq, blocks.tq, empty])
  have run := image_run image f r loading high
  rw [loads, tallied] at run
  clear loads tallied
  generalize u.takeKept = v at kept sl run
  have off (b : BedId) : (v.bed b).state = .off := by rw [(kept.beds b (dormant b)).2, blocks.beds, (first b).2]; rfl
  have ends (b : BedId) := dormant_finish (s := tallying l v) (by
    rw [show (tallying l v).sb = v.sb from rfl, kept.sb, blocks.dirty, settled.1]) (fun d => (kept.beds d (dormant d)).1) b
  have inside := inside_finish (tallying l v)
  refine ⟨_, run, ?_, ?_, ?_, fun b => (ends b).1.1.2 (off b), inside.latched _ (kept.latched _ blocks.pending), fun none => ?_, ?_⟩
  · rw [inside.sl, show (tallying l v).sl = v.sl from rfl, sl, blocks.sl]
  · rw [inside.sl, show (tallying l v).sl = v.sl from rfl, sl, blocks.sl]
  · rw [inside.sl, show (tallying l v).sl = v.sl from rfl, sl, blocks.sl]
  · exact inside.record _ (kept.record.trans (blocks.record none))
  · obtain ⟨q, m, tally⟩ := waits
    exact ⟨q, SkyAndClock.notices_finish (s := tallying l v) m (by rw [tally]; rfl) (by rw [tally]; rfl), tally⟩

/-- Settles O5: by the image's validity. -/
theorem imageEndsLoading : Obligations.ImageEndsLoading :=
  ⟨fun _ _ _ _ settled loading high valid => image_valid settled loading high valid,
    fun _ _ _ _ _ settled loading high empty invalid => image_invalid settled loading high empty invalid⟩

end Sys2Proof.SetupImage

/-! PROOFS. The coil check and the start-up closure (R141, R142). -/

namespace Sys2Proof.Machine

variable {b d : BedId} {s t u : State}

/-! ### The entry to LISTENING through the end of its event -/

theorem listens_finish (settled : Settled s) (unnoted : s.sl.clashNoted = false) : AfterAlerts s.listens s.startUpDone.finish := by
  rw [startUpDone_unnoted unnoted]
  exact finish_settled s.listens (settled_listens settled)

theorem startUpDone_check (s : State) : s.startUpDone.vd.check = .done := by
  obtain ⟨q, a, rest⟩ := listens_rest s
  by_cases noted : s.sl.clashNoted = true
  · rw [startUpDone_noted noted, (DuplicateNumber.entered s.listens).check, rest]
  · rw [startUpDone_unnoted (Bool.eq_false_of_not_eq_true noted), rest]

theorem checkStartUp_check (closure : s.vd.check = .closure) : s.checkStartUp.vd.check = .closure ∨ s.checkStartUp.vd.check = .done := by
  unfold State.checkStartUp
  split
  · exact .inr (startUpDone_check s)
  · exact .inl closure

/-! ### The closes of the start-up closure -/

/-- The bed's close waits or is under way; without a GOOD supply it waits. -/
def State.toClose (b : BedId) (s : State) : Prop :=
  (s.queued b = true ∨ s.pulsing b = true) ∧ (s.vd.supply ≠ .good → s.queued b = true)

theorem queued_iff (b : BedId) (s : State) : s.queued b = true ↔ ∃ r ∈ s.vd.queue, r.bed = b := by simp [State.queued]

/-- Where the generator's start takes a bed's request, its pulse runs. -/
theorem toClose_kick (queued : s.queued b = true) : s.kick.toClose b := by
  unfold State.kick
  split
  · split
    · exact ⟨.inl queued, fun _ => queued⟩
    · split
      · next good =>
        cases queue : s.vd.queue with
        | nil => simp [State.queued, queue] at queued
        | cons r l =>
          obtain ⟨q, m, bed⟩ := (queued_iff b s).1 queued
          rw [queue] at m
          refine ⟨?_, fun ne => absurd good ne⟩
          rcases List.mem_cons.1 m with e | i
          · exact .inr (decide_eq_true (by rw [← e]; exact bed))
          · exact .inl ((queued_iff b _).2 ⟨q, i, bed⟩)
      · exact ⟨.inl queued, fun _ => queued⟩
  · exact ⟨.inl queued, fun _ => queued⟩
  · exact ⟨.inl queued, fun _ => queued⟩

/-- A pulse under way goes on. -/
theorem pulsing_kick (pulsing : s.pulsing b = true) : s.kick = s := by
  refine kick_busy ?_
  intro idle
  simp [State.pulsing, idle] at pulsing

theorem toClose_queueRequest (b : BedId) (x : Direction) (s : State) : (s.queueRequest b x).toClose b := by
  unfold State.queueRequest
  split
  · next waits => exact ⟨.inl waits, fun _ => waits⟩
  · exact toClose_kick ((queued_iff b _).2 ⟨⟨b, x⟩, List.mem_append_right _ (List.mem_singleton.2 rfl), rfl⟩)

theorem toClose_keeps (d : BedId) (x : Direction) (h : s.toClose b) : (s.queueRequest d x).toClose b := by
  unfold State.queueRequest
  split
  · exact h
  · obtain ⟨one, waits⟩ := h
    have longer (queued : s.queued b = true) : State.queued b { s with vd.queue := s.vd.queue ++ [Request.mk d x] } = true := by
      obtain ⟨r, m, bed⟩ := (queued_iff b s).1 queued
      exact (queued_iff b _).2 ⟨r, List.mem_append_left _ m, bed⟩
    by_cases pulsing : s.pulsing b = true
    · rw [pulsing_kick (b := b) (s := { s with vd.queue := s.vd.queue ++ [Request.mk d x] }) pulsing]
      exact ⟨.inr pulsing, fun ne => longer (waits ne)⟩
    · exact toClose_kick (longer (one.resolve_right pulsing))

/-- The close of one bed, and the pass over the beds. -/
def State.queueClose (b : BedId) (s : State) : State := if s.latching b then s.queueRequest b .closes else s

def State.queueCloses (s : State) : State := State.forBeds State.queueClose s

/-- A pass of requests moves queue, generator and closure list alone. -/
def Requested (s t : State) : Prop :=
  t = { s with vd.queue := t.vd.queue, vd.generator := t.vd.generator, vd.closures := t.vd.closures }

theorem Requested.refl (s : State) : Requested s s := rfl

theorem Requested.trans (h : Requested s t) (k : Requested t u) : Requested s u := by rw [Requested, k, h]

theorem requested_queueCloses (s : State) : Requested s s.queueCloses := by
  refine foldl_keeps (f := fun s b => s.queueClose b) (R := Requested) Requested.refl (fun _ _ _ => Requested.trans) (fun s b => ?_) allBeds s
  unfold State.queueClose
  split
  · exact Overdraw.queueRequest_rest b .closes s
  · exact .refl s

theorem latching_requested (h : Requested s t) (b : BedId) : t.latching b = s.latching b := by rw [h]; rfl

theorem queueCloses_toClose (b : BedId) (s : State) (latching : s.queueCloses.latching b = true) : s.queueCloses.toClose b := by
  have pass : s.queueCloses.latching b = true → s.queueCloses.toClose b := by
    refine forBeds_reaches (P := fun b s => s.latching b = true → s.toClose b) (fun b s => ?_) (fun b d s h => ?_) b s <;>
      unfold State.queueClose
    · split
      · exact fun _ => toClose_queueRequest b .closes s
      · next out => exact fun is => absurd is out
    · split
      · intro is
        rw [latching_requested (Overdraw.queueRequest_rest d .closes s)] at is
        exact toClose_keeps d .closes (h is)
      · exact h
  exact pass latching

theorem queueCloses_none (none : ∀ b, s.latching b = false) : s.queueCloses = s :=
  foldl_skips fun d _ => if_neg (by rw [none d]; nofun)

theorem startUpShut_none (none : ∀ b, s.latching b = false) : s.startUpShut = true :=
  List.all_eq_true.2 fun d _ => by rw [none d]; rfl

theorem startUpShut_toClose (latching : s.latching b = true) (closes : s.toClose b) : s.startUpShut = false := by
  refine Bool.eq_false_of_not_eq_true fun shut => ?_
  have one := List.all_eq_true.1 shut b (List.mem_finRange b)
  simp only [latching, Bool.not_true, Bool.false_or, Bool.and_eq_true, Bool.not_eq_true', decide_eq_true_eq] at one
  rcases closes.1 with e | e
  · rw [one.1.2] at e; cases e
  · rw [one.2] at e; cases e

theorem startUpClosure_eq (s : State) : s.startUpClosure = if s.vd.supply = .good
    then (State.queueCloses { s with vd.check := .closure }).checkStartUp
    else (State.queueCloses { s with vd.check := .closure }).startUpDone := by
  have supply : (State.queueCloses { s with vd.check := .closure }).vd.supply = s.vd.supply := by
    rw [requested_queueCloses { s with vd.check := .closure }]
  rw [← supply]
  rfl

theorem startUpClosure_check (s : State) : s.startUpClosure.vd.check = .closure ∨ s.startUpClosure.vd.check = .done := by
  have check : (State.queueCloses { s with vd.check := .closure }).vd.check = .closure := by
    rw [requested_queueCloses { s with vd.check := .closure }]
  rw [startUpClosure_eq]
  split
  · exact checkStartUp_check check
  · exact .inr (startUpDone_check _)

/-- What follows the coil check: closes to wait for, or LISTENING. -/
structure Closing (s t : State) : Prop where
  now : t.now = s.now
  marks : t.vd.marks = s.vd.marks
  setup : t.sl.setup = s.sl.setup
  bed : ∀ b, t.bed b = s.bed b
  latch : ∀ c, c ≠ .discard → (t.latch c).pending = (s.latch c).pending ∧ (t.latch c).bed = (s.latch c).bed ∧ (t.latch c).value = (s.latch c).value
  record : t.au.record = s.au.record
  waits : ∀ d, t.latching d = true → s.vd.supply = .good →
    t.sl.station = .checking ∧ t.vd.check = .closure ∧ ∀ e, t.latching e = true → t.queued e = true ∨ t.pulsing e = true
  done : s.vd.supply ≠ .good ∨ (∀ d, t.latching d = false) →
    t.sl.station = .listening ∧ t.vd.check = .done ∧ t.sl.listenSince = t.now ∧ t.tq.tallySince = some t.now
      ∧ (s.tq.queue.length < 6 → ∃ q ∈ t.tq.queue, q.notice = .tally) ∧ ∀ e, t.latching e = true → t.queued e = true

theorem tallyDue_au (s : State) : (∀ c, c ≠ .discard → s.tallyDue.latch c = s.latch c) ∧ s.tallyDue.au.record = s.au.record := by
  unfold State.tallyDue
  split
  · exact ⟨fun _ _ => rfl, rfl⟩
  · exact ⟨fun c ne => offer_latch .tally ne s, (offer_fault .tally s).1⟩

theorem closing_finish (settled : Settled s) (station : s.sl.station = .checking) (unnoted : s.sl.clashNoted = false) :
    Closing s s.startUpClosure.finish := by
  rw [startUpClosure_eq]
  have rest := requested_queueCloses { s with vd.check := .closure }
  have closes (b : BedId) := queueCloses_toClose b { s with vd.check := .closure }
  have none := queueCloses_none (s := { s with vd.check := .closure })
  generalize State.queueCloses { s with vd.check := .closure } = w at rest closes none
  have same : w.now = s.now ∧ w.vd.marks = s.vd.marks ∧ w.sl = s.sl ∧ w.bc = s.bc ∧ w.au = s.au ∧ w.vd.supply = s.vd.supply
      ∧ w.vd.check = .closure ∧ w.tq = s.tq ∧ w.sb = s.sb := by
    rw [rest]; exact ⟨rfl, rfl, rfl, rfl, rfl, rfl, rfl, rfl, rfl⟩
  obtain ⟨now, marks, sl, bc, au, supply, check, tq, sb⟩ := same
  have still : Settled w := ⟨by rw [sb]; exact settled.1, by rw [bc]; exact settled.2⟩
  have listening (ends : s.vd.supply ≠ .good ∨ ∀ d, w.latching d = false) : Closing s w.startUpDone.finish := by
    have h := listens_finish still (by rw [sl]; exact unnoted)
    obtain ⟨q, a, eq⟩ := listens_rest w
    obtain ⟨latch, record⟩ := tallyDue_au { w with
      vd.check := .done, sl.station := .listening, sl.listenSince := w.now, tq.tallySince := some w.now }
    have latching (d : BedId) : w.startUpDone.finish.latching d = w.latching d := by
      unfold State.latching State.setupOf
      rw [h.bed, h.sl, eq]
      rfl
    refine ⟨by rw [h.now, eq, now], by rw [h.vd, eq, marks], by rw [h.sl, eq, sl], fun b => by rw [h.bed, eq, State.bed, bc]; rfl, fun c ne => ?_,
      ?_, fun d is good => ?_, fun _ => ⟨by rw [h.sl, eq], by rw [h.vd, eq], by rw [h.sl, h.now, eq], by rw [h.tallySince, h.now, eq], fun room => ?_, fun e is => ?_⟩⟩
    · obtain ⟨pending, bed, value⟩ := h.2.2 c ne
      rw [pending, bed, value, show w.listens.latch c = w.latch c from latch c ne, State.latch, au]
      exact ⟨rfl, rfl, rfl⟩
    · rw [h.record, show w.listens.au.record = w.au.record from record, au]
    · rw [latching] at is
      exact absurd is (by rw [ends.resolve_left (fun ne => ne good) d]; nofun)
    · exact (listens_tally (s := w) (by rw [tq]; exact room)).imp fun q ⟨m, tally⟩ => ⟨h.mem_queue m, tally⟩
    · rw [latching] at is
      have poor := ends.resolve_right fun out => by rw [out e] at is; cases is
      rw [State.queued, h.vd, eq]
      exact (closes e is).2 (by rw [supply]; exact poor)
  split
  · next good =>
    unfold State.checkStartUp
    split
    · next shut =>
      refine listening (.inr fun d => Bool.eq_false_of_not_eq_true fun is => ?_)
      rw [startUpShut_toClose is (closes d is)] at shut
      cases shut.2.2
    · next open' =>
      have h := finish_settled w still
      have latching (d : BedId) : w.finish.latching d = w.latching d := by
        unfold State.latching State.setupOf
        rw [h.bed, h.sl]
      refine ⟨by rw [h.now, now], by rw [h.vd, marks], by rw [h.sl, sl], fun b => by rw [h.bed, State.bed, bc]; rfl, fun c ne => ?_, by rw [h.record, au],
        fun d is _ => ⟨by rw [h.sl, sl, station], by rw [h.vd, check], fun e at' => ?_⟩, fun ends => ?_⟩
      · obtain ⟨pending, bed, value⟩ := h.2.2 c ne
        rw [pending, bed, value, State.latch, au]
        exact ⟨rfl, rfl, rfl⟩
      · rw [latching] at at'
        rw [State.queued, State.pulsing, h.vd]
        exact (closes e at').1
      · have out := ends.resolve_left fun ne => ne good
        exact absurd ⟨by rw [sl, station], check, startUpShut_none fun d => by rw [← latching]; exact out d⟩ open'
  · next poor => exact listening (.inl poor)

end Sys2Proof.Machine

/-! PROOFS. The coil check judges the resistance (R141, R142). -/

namespace Sys2Proof.CoilCheck

open Sys2Proof.Machine

variable {b c d : BedId} {s t u : State} {ohms since : Nat}

/-! ### A valve that is driven no more -/

/-- A pulse under way ends with its valve UNKNOWN; nothing else moves but the moment of the transient. -/
theorem cutPulse_rest (s : State) : Overdraw.DriveOnly s s.cutPulse ∧ s.cutPulse.vd = { s.vd with
    valves := s.cutPulse.vd.valves, generator := s.cutPulse.vd.generator } := by
  unfold State.cutPulse
  split <;> exact ⟨rfl, rfl⟩

theorem cutPulse_pulsing (b : BedId) (s : State) : s.cutPulse.pulsing b = false := by
  unfold State.cutPulse
  split
  · rfl
  · next idle => rw [State.pulsing, idle]
  · next rests => rw [State.pulsing, rests]

/-- What a bed that is driven no more leaves of the drive. -/
structure Undriven (b : BedId) (s t : State) : Prop where
  rest : Overdraw.DriveOnly s t
  marks : t.vd.marks = s.vd.marks
  supply : t.vd.supply = s.vd.supply
  check : t.vd.check = s.vd.check
  queued : t.queued b = false
  pulsing : t.pulsing b = false
  closures : ∀ d ∈ t.vd.closures, d ≠ b
  valves : s.pulsing b = false → t.vd.valves = s.vd.valves

/-- The bed's request and its place in the closure list gone. -/
def unlisted (b : BedId) (s : State) : State := { s with
  vd.queue := s.vd.queue.filter fun r => decide (r.bed ≠ b), vd.closures := s.vd.closures.filter fun d => decide (d ≠ b) }

theorem undriven_unlisted (b : BedId) (s : State) (quiet : s.pulsing b = false) : Undriven b s (unlisted b s) := by
  refine ⟨rfl, rfl, rfl, rfl, ?_, quiet, fun d m => of_decide_eq_true (List.mem_filter.1 m).2, fun _ => rfl⟩
  simp [State.queued, unlisted]

theorem undriven (b : BedId) (s : State) : Undriven b s (s.stopDriving b) := by
  have stops : s.stopDriving b = if s.pulsing b then (unlisted b s).cutPulse else unlisted b s := rfl
  rw [stops]
  split
  · next pulsing =>
    obtain ⟨rest, vd⟩ := cutPulse_rest (unlisted b s)
    refine ⟨Overdraw.DriveOnly.trans (t := unlisted b s) rfl rest, by rw [vd]; rfl, by rw [vd]; rfl, by rw [vd]; rfl, ?_, cutPulse_pulsing b _, ?_,
      fun quiet => by rw [pulsing] at quiet; cases quiet⟩
    · rw [State.queued, vd]
      simp [unlisted]
    · rw [vd]
      exact fun d m => of_decide_eq_true (List.mem_filter.1 m).2
  · next quiet => exact undriven_unlisted b s (Bool.eq_false_of_not_eq_true quiet)

/-! ### The result of one test -/

theorem coilLimit_none (low : 4 ≤ ohms) (high : ohms ≤ 200) : coilLimit ohms = none := by
  unfold coilLimit
  rw [if_neg (Nat.not_lt.2 high), if_neg (Nat.not_lt.2 low)]

theorem coilLimit_some (out : ohms < 4 ∨ 200 < ohms) : coilLimit ohms = some (if 200 < ohms then 200 else 4) := by
  unfold coilLimit
  split
  · rfl
  · next high => rw [if_pos (out.resolve_right high)]

/-- A bed whose coil fails: OFF, with its fault, and driven no more. -/
structure Failed (b : BedId) (ohms : Nat) (s t : State) : Prop where
  rest : t = { s with vd := t.vd, fm := t.fm, bc.beds := t.bc.beds, au := t.au }
  marks : t.vd.marks = s.vd.marks
  supply : t.vd.supply = s.vd.supply
  check : t.vd.check = s.vd.check
  queued : t.queued b = false
  pulsing : t.pulsing b = false
  closures : ∀ d ∈ t.vd.closures, d ≠ b
  valves : s.pulsing b = false → t.vd.valves = s.vd.valves
  off : (t.bed b).state = .off
  others : ∀ d, d ≠ b → t.bed d = s.bed d
  latch : ∃ armed, t.latch .coil = ⟨true, armed, b.val, word16 ohms⟩
  record : s.au.record = none → t.au.record = some ⟨.coil, b.val, 0, 0, word16 ohms, if 200 < ohms then 200 else 4, s.clockMinute⟩

theorem failed (out : ohms < 4 ∨ 200 < ohms) : Failed b ohms s (s.coilResult b ohms) := by
  have result : s.coilResult b ohms = ((s.stopDriving b).setOff b).raise .coil b.val ohms 0 0 ohms (if 200 < ohms then 200 else 4) := by
    unfold State.coilResult
    rw [coilLimit_some out]
  have raised := raise_same .coil b.val ohms 0 0 ohms (if 200 < ohms then 200 else 4) ((s.stopDriving b).setOff b)
  have pending := raise_pending .coil b.val ohms 0 0 ohms (if 200 < ohms then 200 else 4) ((s.stopDriving b).setOff b)
  have handed := raise_record .coil b.val ohms 0 0 ohms (if 200 < ohms then 200 else 4) (s := (s.stopDriving b).setOff b)
  rw [← result] at raised pending handed
  have drive := undriven b s
  have off : ((s.stopDriving b).setOff b) = { s.stopDriving b with
      fm := ((s.stopDriving b).setOff b).fm, bc.beds := ((s.stopDriving b).setOff b).bc.beds } := rfl
  have vd : (s.coilResult b ohms).vd = (s.stopDriving b).vd := by rw [raised]; rfl
  have bed (d : BedId) : (s.coilResult b ohms).bed d = ((s.stopDriving b).setOff b).bed d := by rw [raised]; rfl
  refine ⟨?_, by rw [vd, drive.marks], by rw [vd, drive.supply], by rw [vd, drive.check], by rw [State.queued, vd]; exact drive.queued,
    by rw [State.pulsing, vd]; exact drive.pulsing, by rw [vd]; exact drive.closures, fun quiet => by rw [vd, drive.valves quiet], ?_,
    fun d ne => ?_, ⟨_, pending⟩, fun none => ?_⟩
  · rw [raised, off, drive.rest]
  · rw [bed, State.setOff, State.bed_modBed_same, Overdraw.bed_moveBed, if_pos rfl]
  · rw [bed, State.setOff, State.bed_modBed, if_neg ne, Overdraw.bed_moveBed, if_neg ne, drive.rest.bed]
  · have clock : ((s.stopDriving b).setOff b).clockMinute = s.clockMinute := by rw [off, drive.rest]; rfl
    have record : ((s.stopDriving b).setOff b).au.record = s.au.record := by rw [off, drive.rest]
    have limit : word16 (if 200 < ohms then 200 else 4) = if 200 < ohms then 200 else 4 := by split <;> rfl
    rw [handed (record.trans none), clock, limit]

/-- A bed whose coil passes loses its mark alone. -/
theorem passed (low : 4 ≤ ohms) (high : ohms ≤ 200) : s.coilResult b ohms = { s with vd.marks := s.vd.marks.set b false } := by
  unfold State.coilResult
  rw [coilLimit_none low high]

/-! ### The check of a bed that is not the last -/

/-- The moment of a test's end. -/
def tested (since : Nat) (s : State) : State := s.advanceTo (since + 60)

theorem coil_run {rest : List BedId} (station : s.sl.station = .checking) (check : s.vd.check = .coils (b :: rest) since) :
    exec (.coilCheck ohms) s = .next (if rest.isEmpty then ((tested since s).coilResult b ohms).startUpClosure
      else { (tested since s).coilResult b ohms with vd.check := .coils rest ((tested since s).coilResult b ohms).now }).finish := by
  have live : s.live = true := by rw [State.live, station]; rfl
  simp only [exec, execCoilCheck, State.take, live, station, State.testCoil, check, if_true]
  rfl

theorem coil_more {rest : List BedId} (settled : Settled s) (station : s.sl.station = .checking)
    (check : s.vd.check = .coils (b :: c :: rest) since) :
    (4 ≤ ohms → ohms ≤ 200 → ∃ t, exec (.coilCheck ohms) s = .next t
      ∧ AfterAlerts { s with
          now := max s.now (since + 60)
          vd.marks := s.vd.marks.set b false
          vd.check := .coils (c :: rest) (max s.now (since + 60)) } t)
    ∧ (ohms < 4 ∨ 200 < ohms → ∃ t, exec (.coilCheck ohms) s = .next t
      ∧ (t.bed b).state = .off ∧ (∀ d, d ≠ b → t.bed d = s.bed d)
      ∧ (t.latch .coil).pending = true ∧ (t.latch .coil).bed = b.val ∧ (t.latch .coil).value = word16 ohms
      ∧ (s.au.record = none → t.au.record
          = some ⟨.coil, b.val, 0, 0, word16 ohms, if 200 < ohms then 200 else 4, s.clockMinute⟩)
      ∧ t.queued b = false ∧ t.pulsing b = false ∧ (∀ d ∈ t.vd.closures, d ≠ b)
      ∧ (s.pulsing b = false → t.vd.valves = s.vd.valves)
      ∧ t.vd.check = .coils (c :: rest) t.now ∧ t.vd.marks = s.vd.marks ∧ t.sb = s.sb ∧ t.pw = s.pw ∧ t.sl = s.sl) := by
  have run := coil_run (ohms := ohms) station check
  rw [show (c :: rest).isEmpty = false from rfl, if_neg nofun] at run
  refine ⟨fun low high => ⟨_, run, ?_⟩, fun out => ⟨_, run, ?_⟩⟩
  · rw [passed low high]
    exact finish_settled _ settled
  · have result : Failed b ohms (tested since s) ((tested since s).coilResult b ohms) := failed out
    generalize (tested since s).coilResult b ohms = v at result ⊢
    have rest' := result.rest
    have still : Settled { v with vd.check := .coils (c :: rest) v.now } := by rw [rest']; exact settled
    have h := finish_settled _ still
    obtain ⟨armed, latch⟩ := result.latch
    obtain ⟨pending, bed, value⟩ := h.2.2 .coil nofun
    have same : ({ v with vd.check := .coils (c :: rest) v.now } : State).latch .coil = ⟨true, armed, b.val, word16 ohms⟩ := latch
    rw [same] at pending bed value
    refine ⟨(congrArg Bed.state (h.bed b)).trans result.off, fun d ne => (h.bed d).trans (result.others d ne), pending, bed, value,
      fun none => h.record.trans (result.record none), ?_, ?_, by rw [h.vd]; exact result.closures, fun quiet => by rw [h.vd]; exact result.valves quiet,
      by rw [h.vd, h.now], by rw [h.vd]; exact result.marks, ?_, ?_, ?_⟩
    · rw [State.queued, h.vd]; exact result.queued
    · rw [State.pulsing, h.vd]; exact result.pulsing
    · exact h.sb.trans (congrArg State.sb rest' : v.sb = _)
    · exact h.pw.trans (congrArg State.pw rest' : v.pw = _)
    · exact h.sl.trans (congrArg State.sl rest' : v.sl = _)

/-! ### The last check -/

theorem coil_last (station : s.sl.station = .checking) (check : s.vd.check = .coils [b] since) :
    ∃ t, exec (.coilCheck ohms) s = .next t ∧ (t.vd.check = .closure ∨ t.vd.check = .done)
      ∧ (Settled s → s.sl.clashNoted = false →
          t.now = max s.now (since + 60)
          ∧ (4 ≤ ohms → ohms ≤ 200 → t.vd.marks = s.vd.marks.set b false ∧ ∀ d, t.bed d = s.bed d)
          ∧ (ohms < 4 ∨ 200 < ohms → (t.bed b).state = .off ∧ (∀ d, d ≠ b → t.bed d = s.bed d) ∧ t.vd.marks = s.vd.marks
              ∧ (t.latch .coil).pending = true ∧ (t.latch .coil).bed = b.val ∧ (t.latch .coil).value = word16 ohms
              ∧ (s.au.record = none → t.au.record
                  = some ⟨.coil, b.val, 0, 0, word16 ohms, if 200 < ohms then 200 else 4, s.clockMinute⟩))
          ∧ (∀ d, t.latching d = true → s.vd.supply = .good →
              t.sl.station = .checking ∧ t.vd.check = .closure ∧ ∀ e, t.latching e = true → t.queued e = true ∨ t.pulsing e = true)
          ∧ (s.vd.supply ≠ .good ∨ (∀ d, t.latching d = false) →
              t.sl.station = .listening ∧ t.vd.check = .done ∧ t.sl.listenSince = t.now ∧ t.tq.tallySince = some t.now
                ∧ (s.tq.queue.length < 6 → ∃ q ∈ t.tq.queue, q.notice = .tally)
                ∧ ∀ e, t.latching e = true → t.queued e = true)) := by
  have run := coil_run (ohms := ohms) station check
  rw [show ([] : List BedId).isEmpty = true from rfl, if_pos rfl] at run
  refine ⟨_, run, ?_, fun settled unnoted => ?_⟩
  · rw [(inside_finish _).checkPhase]
    exact startUpClosure_check _
  · have good : 4 ≤ ohms → ohms ≤ 200 → (tested since s).coilResult b ohms = { tested since s with vd.marks := s.vd.marks.set b false } := passed
    have bad : ohms < 4 ∨ 200 < ohms → Failed b ohms (tested since s) ((tested since s).coilResult b ohms) := failed
    have same : ∃ vd fm beds au, (tested since s).coilResult b ohms = { tested since s with vd := vd, fm := fm, bc.beds := beds, au := au }
        ∧ vd.supply = s.vd.supply := by
      by_cases in' : 4 ≤ ohms ∧ ohms ≤ 200
      · exact ⟨_, _, _, _, good in'.1 in'.2, rfl⟩
      · have h := bad (by omega)
        exact ⟨_, _, _, _, h.rest, h.supply⟩
    generalize (tested since s).coilResult b ohms = v at good bad same ⊢
    obtain ⟨vd, fm, beds, au, rest, supply⟩ := same
    have h : Closing v v.startUpClosure.finish := closing_finish (by rw [rest]; exact settled) (by rw [rest]; exact station) (by rw [rest]; exact unnoted)
    have now : v.now = max s.now (since + 60) := by rw [rest]; rfl
    have drive : v.vd.supply = s.vd.supply := by rw [rest]; exact supply
    have tq : v.tq = s.tq := by rw [rest]; rfl
    refine ⟨h.now.trans now, fun low high => ⟨by rw [h.marks, good low high], fun d => by rw [h.bed, good low high]; rfl⟩, fun out => ?_,
      fun d is poor => h.waits d is (drive.trans poor), fun ends => ?_⟩
    · have result := bad out
      obtain ⟨armed, latch⟩ := result.latch
      obtain ⟨pending, bed, value⟩ := h.latch .coil nofun
      rw [latch] at pending bed value
      exact ⟨by rw [h.bed, result.off], fun d ne => by rw [h.bed, result.others d ne]; rfl, by rw [h.marks, result.marks]; rfl, pending, bed, value,
        fun none => by rw [h.record, result.record none]; rfl⟩
    · rw [← tq]
      exact h.done (by rwa [drive])

/-- Settles O7: the check of a bed before the last, and the last one with the start-up closure. -/
theorem coilCheckJudgesTheResistance : Obligations.CoilCheckJudgesTheResistance :=
  ⟨fun _ _ _ _ _ _ settled station check => coil_more settled station check, fun _ _ _ _ station check => coil_last station check⟩

end Sys2Proof.CoilCheck

/-! PROOFS. What leaves the drive as it was, and the passes that close valves (R129, R138). -/

namespace Sys2Proof.Machine

variable {b d : BedId} {s t u : State} {x y : Bed}

/-! ### The end of an event with every bed at rest and no claim that may commit -/

theorem finish_still (still : ∀ b, (s.bed b).state.cycling = false) (dead : s.sb.claim.live = false) :
    ∃ x l, AfterAlerts (s.lapsed false x l false) s.finish ∨ AfterAlerts (s.lapsed false x l false).weighOccasion s.finish := by
  obtain ⟨m, x, l, o, laps⟩ := settleBook_still settleLaps still dead
  have settles : s.settle = if o then (s.lapsed false x l false).weighOccasion else s.lapsed false x l false := by
    unfold State.settle
    rw [laps]
    rfl
  refine ⟨x, l, ?_⟩
  unfold State.finish
  rw [settles]
  split
  · exact .inr (afterAlerts_offerAlerts _)
  · exact .inl (afterAlerts_offerAlerts _)

/-- Nothing of the drive moves then, and a bed is at most offered. -/
theorem finish_still_drive (still : ∀ b, (s.bed b).state.cycling = false) (dead : s.sb.claim.live = false) :
    s.finish.vd = s.vd ∧ ∀ b, MayClaim (s.bed b) (s.finish.bed b) := by
  obtain ⟨x, l, alerts | alerts⟩ := finish_still still dead
  · exact ⟨alerts.vd, fun b => .inl (alerts.bed b)⟩
  · have offered := offered_weighOccasion (s.lapsed false x l false)
    exact ⟨alerts.vd.trans offered.vd, fun b => by rw [alerts.bed]; exact offered.beds b⟩

/-! ### No close and no evaluation turns a bed OFF (R88, R124) -/

theorem setFaulted_on (f : BedFault) (s : State) : ((s.setFaulted b f).bed b).state ≠ .off := by rw [bed_setFaulted]; nofun

theorem setIdle_on (b : BedId) (s : State) : ((s.setIdle b).bed b).state ≠ .off := by
  rcases (setIdle_rested b s).1 with e | e <;> rw [e] <;> nofun

theorem setWaiting_on (n : Nat) (s : State) : ((s.setWaiting b n).bed b).state ≠ .off := by rw [Overdraw.bed_setWaiting]; nofun

theorem setUrgency_state (r : Urgency) (s : State) : ((s.setUrgency b r).bed b).state = (s.bed b).state := by rw [setUrgency_bed]

theorem takeUrgency_state (r : Option (Nat × Urgency)) (s : State) : ((s.takeUrgency b r).bed b).state = (s.bed b).state := by
  unfold State.takeUrgency
  split
  · exact setUrgency_state ..
  · split
    · exact setUrgency_state ..
    · rfl

theorem takeNeed_state (r : Option (Nat × Urgency)) (s : State) : ((s.takeNeed b r).bed b).state = (s.bed b).state := by
  unfold State.takeNeed
  split
  · split
    · rfl
    · rw [State.bed_modBed_same]
  · rfl

theorem evaluate_on (fresh : Bool) (on : (s.bed b).state ≠ .off) : ((s.evaluate b fresh).bed b).state ≠ .off := by
  unfold State.evaluate
  dsimp only
  split
  · exact on
  · split
    · split
      · exact setFaulted_on .probe s
      · split
        · rw [State.bed_modBed_same]
          exact setWaiting_on 0 s
        · exact on
    · split
      · exact setIdle_on b s
      · split
        · exact setIdle_on b s
        · split
          · rwa [takeUrgency_state]
          · rwa [takeUrgency_state, takeNeed_state]
    · split
      · rwa [takeUrgency_state]
      · rwa [takeUrgency_state, takeNeed_state]
    · exact on

theorem bringTargets_on (on : (s.bed b).state ≠ .off) : ((s.bringTargets b).bed b).state ≠ .off := by
  unfold State.bringTargets
  split
  · exact on
  · next p q _ =>
    have still : ((s.modBed b fun x => { x with start := p, stop := q, targets := none }).bed b).state ≠ .off := by
      rw [State.bed_modBed_same]; exact on
    dsimp only
    split
    · exact evaluate_on false still
    · exact still

theorem toIdle_on (b : BedId) (s : State) : ((s.toIdle b).bed b).state ≠ .off := bringTargets_on (setIdle_on b s)

theorem toWaiting_on (n : Nat) (b : BedId) (s : State) : ((s.toWaiting b n).bed b).state ≠ .off := bringTargets_on (setWaiting_on n s)

theorem enterAfter_on (a : After) (s : State) : ((s.enterAfter b a).bed b).state ≠ .off := by
  cases a with
  | soak =>
    unfold State.enterAfter
    rw [State.bed_modBed_same, Overdraw.bed_moveBed, if_pos rfl]
    nofun
  | wait n => exact toWaiting_on n b s
  | idle => exact toIdle_on b s
  | fault f => exact bringTargets_on (setFaulted_on f s)

theorem applyWater_on (n : Nat) (on : (s.bed b).state ≠ .off) : ((s.applyWater b n).bed b).state ≠ .off := by
  have same : ((s.modBed b fun x => { x with ordered := true, skip := false }).bed b).state = (s.bed b).state := by rw [State.bed_modBed_same]
  unfold State.applyWater
  dsimp only
  split
  · rw [setUrgency_state, State.bed_modBed_same]
    exact same ▸ on
  · split
    · rw [State.bed_modBed_same]
      exact setWaiting_on 0 _
    · rw [setUrgency_state, State.bed_modBed_same]
      exact same ▸ on

theorem applyKept_on (k : Option Nat) (on : (s.bed b).state ≠ .off) : ((s.applyKept b k).bed b).state ≠ .off := by
  unfold State.applyKept
  split
  · exact on
  · split
    · exact on
    · split
      · exact on
      · refine applyWater_on _ ?_
        rw [State.bed_modBed_same]
        exact on

theorem bedClosed_on (closing : (s.bed b).state = .closing) : ((s.bedClosed b).bed b).state ≠ .off := by
  unfold State.bedClosed
  rw [if_pos closing]
  dsimp only
  split
  · exact applyKept_on _ (enterAfter_on _ _)
  · exact toIdle_on _ _

theorem bedClosed_off (b : BedId) (s : State) : ((s.bedClosed b).bed b).state = .off ↔ (s.bed b).state = .off := by
  by_cases closing : (s.bed b).state = .closing
  · rw [closing]
    exact ⟨fun e => absurd e (bedClosed_on closing), nofun⟩
  · rw [bedClosed_of_ne closing]

/-! ### A pass that closes valves (R138, steps 4 and 5) -/

theorem freeBed_vd (b : BedId) (s : State) : (s.freeBed b).vd = s.vd := by
  unfold State.freeBed
  rw [Overdraw.remove_rest, Overdraw.offer_rest]

theorem bedClosed_vd (b : BedId) (s : State) : (s.bedClosed b).vd = s.vd := by
  by_cases closing : (s.bed b).state = .closing
  · rw [(resting_bedClosed closing).vd, freeBed_vd]
  · rw [bedClosed_of_ne closing]

theorem valveClosed_vd (b : BedId) (s : State) : (s.valveClosed b).vd = { s.vd with valves := s.vd.valves.set b .closed } :=
  bedClosed_vd b (s.setValve b .closed)

/-- What closing valves keeps: the drive but for valves, and with every bed calm the claim. -/
structure Closes (s t : State) : Prop extends Inside s t where
  vd : t.vd = { s.vd with valves := t.vd.valves }
  latches : ∀ c, c ≠ .discard → t.latch c = s.latch c
  off : ∀ b, (t.bed b).state = .off ↔ (s.bed b).state = .off
  calm : (∀ b, (s.bed b).state.calm) → (∀ b, (t.bed b).state.calm) ∧ t.sb.claim = s.sb.claim

namespace Closes

theorem refl (s : State) : Closes s s := ⟨.refl s, rfl, fun _ _ => rfl, fun _ => Iff.rfl, fun h => ⟨h, rfl⟩⟩

theorem trans (h : Closes s t) (k : Closes t u) : Closes s u :=
  ⟨h.toInside.trans k.toInside, by rw [k.vd, h.vd], fun c ne => (k.latches c ne).trans (h.latches c ne), fun b => (k.off b).trans (h.off b), fun calm =>
    have first := h.calm calm
    have second := k.calm first.1
    ⟨second.1, second.2.trans first.2⟩⟩

end Closes

theorem closes_valveClosed (d : BedId) (s : State) : Closes s (s.valveClosed d) := by
  have h := bedwise_valveClosed d s
  refine ⟨h.toInside, by rw [valveClosed_vd], h.latches, fun b => ?_, fun calm => ⟨fun b => ?_, h.claim (calm d).2⟩⟩
  · by_cases e : b = d
    · rw [e]
      exact bedClosed_off d (s.setValve d .closed)
    · rw [(h.aside b e).bed]
  · by_cases e : b = d
    · rw [e]
      exact ⟨h.rests (calm d).1, h.unclaimed (calm d).2⟩
    · rw [(h.aside b e).bed]
      exact calm b

/-- The valves named by `p` are CLOSED, in bed order. -/
def State.closeThose (p : BedId → Bool) (s : State) : State := State.forBeds (fun b s => if p b then s.valveClosed b else s) s

theorem closes_one (p : BedId → Bool) (d : BedId) (s : State) : Closes s (if p d then s.valveClosed d else s) := by
  split
  · exact closes_valveClosed d s
  · exact .refl s

theorem aside_one (p : BedId → Bool) (ne : d ≠ b) (s : State) : Aside b s (if p d then s.valveClosed d else s) := by
  split
  · exact aside_valveClosed (Ne.symm ne) s
  · exact .refl b s

theorem closes_closeThose (p : BedId → Bool) (s : State) : Closes s (s.closeThose p) :=
  foldl_keeps (f := fun s b => if p b then s.valveClosed b else s) Closes.refl (fun _ _ _ => Closes.trans) (fun s d => closes_one p d s) allBeds s

theorem closeThose_at (p : BedId → Bool) (b : BedId) (s : State) :
    ∃ x, Aside b s x ∧ Aside b (if p b then x.valveClosed b else x) (s.closeThose p) := by
  obtain ⟨x, -, before, -, after⟩ := forBeds_at (f := fun b s => if p b then s.valveClosed b else s) (R := Closes) Closes.refl
    (fun _ _ _ => Closes.trans) (fun d s => closes_one p d s) (fun d ne s => aside_one (b := b) p ne s) s
  exact ⟨x, before, after⟩

theorem closeThose_valve (p : BedId → Bool) (b : BedId) (s : State) : (s.closeThose p).valve b = if p b then .closed else s.valve b := by
  obtain ⟨x, before, after⟩ := closeThose_at p b s
  rw [after.valve, ← before.valve]
  split
  · rw [State.valve, valveClosed_vd]
    exact PerBed.get_set_same ..
  · rfl

theorem closeThose_skips (p : BedId → Bool) (skips : p b = false) (s : State) : Aside b s (s.closeThose p) := by
  obtain ⟨x, before, after⟩ := closeThose_at p b s
  rw [skips, if_neg nofun] at after
  exact before.trans after

end Sys2Proof.Machine

/-! PROOFS. The SUPPLY hold and the end of the start-up closure: what they leave of the drive (R138, R142). -/

namespace Sys2Proof.Machine

variable {b d : BedId} {s t u : State}

/-! ### The SUPPLY hold moves no valve (R120, R138) -/

theorem holdSupply_vd (d : BedId) (s : State) : (s.holdBed .supply d).vd = s.vd := by
  by_cases cycling : (s.bed d).state.cycling = true
  · rw [holdBed_cycling cycling]
    change (s.endCycle d .supply).vd = s.vd
    rw [endCycle_supply]
    rfl
  · by_cases claiming : (s.bed d).state = .claiming
    · rw [holdBed_claiming claiming, if_neg (by nofun), State.withdrawToWaiting, (resting_toWaiting d 0 s.withdraw).vd, withdraw_rest]
    · rw [holdBed_calm ⟨by simpa using cycling, claiming⟩]

theorem joinSupply_vd (s : State) : (s.joinHold .supply).vd = s.vd := by
  unfold State.joinHold
  split
  · rfl
  · exact foldl_keeps (f := fun s b => s.holdBed .supply b) (R := fun s t => t.vd = s.vd) (fun _ => rfl) (fun _ _ _ h k => k.trans h)
      (fun s d => holdSupply_vd d s) allBeds { s with bc.holds := s.bc.holds.put .supply true }

theorem joinSupply_cut {r : Run} (absent : s.bc.holds.supply = false) (cycling : (s.bed b).state.cycling = true) (run : (s.bed b).run = some r) :
    ((s.joinHold .supply).bed b).state = .closing ∧ ((s.joinHold .supply).bed b).run = some { r with endCause := some .supply } := by
  obtain ⟨x, -, before, -, after⟩ := joinHold_at (r := .supply) absent b
  have cuts : x.holdBed .supply b = Overdraw.ending b .supply x :=
    (holdBed_cycling (by rw [before.bed, cycling])).trans (endCycle_supply b x)
  rw [after.bed, cuts, run_ending (by rw [before.bed]; exact run)]
  exact ⟨by simp [Overdraw.ending, Overdraw.bed_moveBed], rfl⟩

theorem joinSupply_off (absent : s.bc.holds.supply = false) (b : BedId) : ((s.joinHold .supply).bed b).state = .off ↔ (s.bed b).state = .off := by
  obtain ⟨x, -, before, -, after⟩ := joinHold_at (r := .supply) absent b
  rw [after.bed, ← before.bed]
  by_cases cycling : (x.bed b).state.cycling = true
  · rw [holdBed_cycling cycling]
    have ends : ((x.endCycle b .supply).bed b).state = .closing := by
      rw [endCycle_supply]
      simp [Overdraw.ending, Overdraw.bed_moveBed]
    exact ⟨fun e => absurd (ends.symm.trans e) nofun, fun e => by rw [e] at cycling; cases cycling⟩
  · by_cases claiming : (x.bed b).state = .claiming
    · rw [holdBed_claiming claiming, if_neg (by nofun), claiming]
      exact ⟨fun e => absurd e (toWaiting_on 0 b _), nofun⟩
    · rw [holdBed_calm ⟨by simpa using cycling, claiming⟩]

/-! ### The entry to BARRED with every bed calm -/

/-- Calm beds stay calm, and the drive is as it was. -/
def CalmOn (s t : State) : Prop := (∀ b, (s.bed b).state.calm) → t.vd = s.vd ∧ ∀ b, (t.bed b).state.calm

theorem calmOn_barBed (d : BedId) (s : State) : CalmOn s (s.barBed d) := by
  intro calm
  rcases BedState.kinds (s.bed d).state with cycling | waits | claiming | rests
  · exact absurd cycling (by rw [(calm d).1]; nofun)
  · rw [barBed_waiting waits]
    have h := resting_toIdle d s
    refine ⟨h.vd, fun b => ?_⟩
    by_cases e : b = d
    · rw [e]
      exact ⟨h.rests (calm d).1, h.unclaimed (calm d).2⟩
    · rw [h.others b e]
      exact calm b
  · exact absurd claiming (calm d).2
  · rw [barBed_resting rests]
    exact ⟨rfl, calm⟩

theorem calmOn_barBeds (s : State) : CalmOn { s with sl.station := .barred } s.barBeds :=
  foldl_keeps (f := fun s b => s.barBed b) (R := CalmOn) (fun _ calm => ⟨rfl, calm⟩)
    (fun _ _ _ h k calm => ⟨(k (h calm).2).1.trans (h calm).1, (k (h calm).2).2⟩) (fun s d => calmOn_barBed d s) allBeds { s with sl.station := .barred }

/-! ### The end of the start-up closure, wherever it comes from -/

/-- The supply, its charge and reserve, the holds and the latches are as they were. -/
structure Charges (s t : State) : Prop where
  now : t.now = s.now
  supply : t.vd.supply = s.vd.supply
  ready : t.vd.ready = s.vd.ready
  charge : t.vd.chargeSince = s.vd.chargeSince
  holds : t.bc.holds = s.bc.holds
  latches : ∀ c, c ≠ .line → c ≠ .discard → t.latch c = s.latch c

theorem Charges.trans (h : Charges s t) (k : Charges t u) : Charges s u :=
  ⟨k.now.trans h.now, k.supply.trans h.supply, k.ready.trans h.ready, k.charge.trans h.charge, k.holds.trans h.holds,
    fun c line discard => (k.latches c line discard).trans (h.latches c line discard)⟩

/-- And with calm beds the drive is as it was. -/
structure StartUpEnds (s t : State) : Prop extends Charges s t where
  dead : s.sb.claim.live = false → t.sb.claim.live = false
  calm : (∀ b, (s.bed b).state.calm) → t.vd = { s.vd with check := t.vd.check } ∧ ∀ b, (t.bed b).state.calm
  closing : ∀ b, (s.bed b).state = .closing → t.bed b = s.bed b

theorem StartUpEnds.refl (s : State) : StartUpEnds s s :=
  ⟨⟨rfl, rfl, rfl, rfl, rfl, fun _ _ _ => rfl⟩, id, fun calm => ⟨rfl, calm⟩, fun _ _ => rfl⟩

theorem startUpEnds_listens (s : State) : StartUpEnds s s.listens := by
  obtain ⟨q, a, rest⟩ := listens_rest s
  obtain ⟨latch, -⟩ := tallyDue_au { s with
    vd.check := .done, sl.station := .listening, sl.listenSince := s.now, tq.tallySince := some s.now }
  have bed (b : BedId) : s.listens.bed b = s.bed b := by rw [rest]; rfl
  exact ⟨⟨by rw [rest], by rw [rest], by rw [rest], by rw [rest], by rw [rest], fun c _ ne => latch c ne⟩, fun dead => by rw [rest]; exact dead,
    fun calm => ⟨by rw [rest], fun b => by rw [bed]; exact calm b⟩, fun b _ => bed b⟩

theorem startUpEnds_enterBarred (s : State) : StartUpEnds s s.enterBarred := by
  have barred := DuplicateNumber.entered s
  have pass := barring_barBeds s
  have vd : s.enterBarred.vd = s.barBeds.vd := by rw [enterBarred_rest]
  refine ⟨⟨barred.now, by rw [vd]; exact pass.field fun x => x.vd.supply, by rw [vd]; exact pass.field fun x => x.vd.ready,
    by rw [vd]; exact pass.field fun x => x.vd.chargeSince, barred.holds, barred.latches⟩, fun dead => ?_, fun calm => ?_, fun b closing => ?_⟩
  · rw [barred.claim]
    exact barBeds_dead dead
  · obtain ⟨same, still⟩ := calmOn_barBeds s calm
    exact ⟨by rw [vd, same], fun b => by rw [barred.bed]; exact still b⟩
  · rw [barred.bed, barBeds_resting (.inr (.inr (.inl closing)))]

theorem StartUpEnds.trans (h : StartUpEnds s t) (k : StartUpEnds t u) : StartUpEnds s u where
  toCharges := h.toCharges.trans k.toCharges
  dead e := k.dead (h.dead e)
  calm c :=
    have first := h.calm c
    have second := k.calm first.2
    ⟨by rw [second.1, first.1], second.2⟩
  closing b e :=
    have first := h.closing b e
    (k.closing b (by rw [first, e])).trans first

theorem startUpEnds_done (s : State) : StartUpEnds s s.startUpDone := by
  by_cases noted : s.sl.clashNoted = true
  · rw [startUpDone_noted noted]
    exact (startUpEnds_listens s).trans (startUpEnds_enterBarred _)
  · rw [startUpDone_unnoted (Bool.eq_false_of_not_eq_true noted)]
    exact startUpEnds_listens s

theorem startUpEnds_check (s : State) : StartUpEnds s s.checkStartUp := by
  unfold State.checkStartUp
  split
  · exact startUpEnds_done s
  · exact .refl s

theorem charges_requested (h : Requested s t) : Charges s t := by
  rw [h]
  exact ⟨rfl, rfl, rfl, rfl, rfl, fun _ _ _ => rfl⟩

theorem charges_startUpClosure (s : State) : Charges s s.startUpClosure := by
  have pass : Charges s (State.queueCloses { s with vd.check := .closure }) :=
    Charges.trans (t := { s with vd.check := .closure }) ⟨rfl, rfl, rfl, rfl, rfl, fun _ _ _ => rfl⟩ (charges_requested (requested_queueCloses _))
  rw [startUpClosure_eq]
  split
  · exact pass.trans (startUpEnds_check _).toCharges
  · exact pass.trans (startUpEnds_done _).toCharges

/-- The beds whose coil is still to test. -/
def State.untested (s : State) : List BedId := allBeds.filter fun b => s.vd.marks.get b

theorem startCoils_some (some : s.untested ≠ []) : s.startCoils = { s with vd.check := .coils s.untested s.now } := by
  unfold State.startCoils
  split
  · next none => exact absurd none some
  · rfl

theorem startCoils_none (none : s.untested = []) : s.startCoils = s.startUpClosure := by
  unfold State.startCoils
  rw [show (allBeds.filter fun b => s.vd.marks.get b) = [] from none]

theorem charges_startCoils (s : State) : Charges s s.startCoils := by
  by_cases none : s.untested = []
  · rw [startCoils_none none]
    exact charges_startUpClosure s
  · rw [startCoils_some none]
    exact ⟨rfl, rfl, rfl, rfl, rfl, fun _ _ _ => rfl⟩

theorem startUpClosure_poor (poor : s.vd.supply ≠ .good) : s.startUpClosure.vd.check = .done := by
  rw [startUpClosure_eq, if_neg poor]
  exact startUpDone_check _

end Sys2Proof.Machine

/-! PROOFS. The loss of the coil supply (R136, R138, R139). -/

namespace Sys2Proof.CoilSupply

open Sys2Proof.Machine

variable {b d : BedId} {s t u v : State}

/-! ### Entry to LOST (R136, R138) -/

/-- The supply state, the ready flag and the charge count of LOST. -/
def lost (s : State) : State := { s with vd.supply := .lost, vd.ready := false, vd.chargeSince := none }

theorem supplyGoes_eq (s : State) : s.supplyGoes = ((lost s).joinHold .supply).setPending .supply 15 s.vd.coilVolts := by
  have volts : ((lost s).joinHold .supply).vd.coilVolts = s.vd.coilVolts := by rw [joinSupply_vd]; rfl
  rfl

theorem supplyGoes_vd (s : State) : s.supplyGoes.vd = (lost s).vd := by
  rw [supplyGoes_eq, State.setPending_rest, joinSupply_vd]

theorem supplyGoes_bed (b : BedId) (s : State) : s.supplyGoes.bed b = ((lost s).joinHold .supply).bed b := by
  rw [supplyGoes_eq, State.setPending_rest]
  rfl

theorem inside_supplyGoes (s : State) : Inside { lost s with bc.holds := s.bc.holds.put .supply true } s.supplyGoes := by
  rw [supplyGoes_eq]
  exact (HoldJoins.inside_join (r := .supply) (lost s)).trans (inside_setPending ..)

theorem supplyGoes_holds (s : State) : s.supplyGoes.bc.holds.supply = true := by
  rw [supplyGoes_eq, State.setPending_rest]
  exact holds_joinHold .supply (lost s)

theorem supplyGoes_latch (s : State) : ∃ armed, s.supplyGoes.latch .supply = ⟨true, armed, 15, word16 s.vd.coilVolts⟩ := by
  rw [supplyGoes_eq]
  exact ⟨_, State.latch_setPending_same ..⟩

/-! ### The pulse, the queue and the channels (R138, steps 3 to 5) -/

theorem cutPulse_valve (b : BedId) (s : State) : s.cutPulse.valve b = if s.pulsing b = true then .unknown else s.valve b := by
  unfold State.cutPulse
  split
  · next r rsv x pulse =>
    have pulsing : s.pulsing b = decide (r.bed = b) := by rw [State.pulsing, pulse]
    rw [pulsing]
    by_cases e : r.bed = b
    · rw [if_pos (decide_eq_true e), ← e]
      exact PerBed.get_set_same ..
    · rw [if_neg (by simpa using e)]
      exact valve_setValve_ne (Ne.symm e) .unknown _
  · next idle => rw [if_neg (by rw [State.pulsing, idle]; nofun)]
  · next x rests => rw [if_neg (by rw [State.pulsing, rests]; nofun)]

theorem cutPulse_generator (s : State) : (∀ r x y, s.vd.generator = .pulse r x y → s.cutPulse.vd.generator = .recovery s.now)
    ∧ ((∀ r x y, s.vd.generator ≠ .pulse r x y) → s.cutPulse.vd.generator = s.vd.generator) := by
  unfold State.cutPulse
  split
  · next r rsv x pulse => exact ⟨fun _ _ _ _ => rfl, fun none => absurd pulse (none r rsv x)⟩
  · next idle => exact ⟨fun r x y e => (by rw [idle] at e; cases e), fun _ => rfl⟩
  · next x rests => exact ⟨fun r x y e => (by rw [rests] at e; cases e), fun _ => rfl⟩

def unqueued (s : State) : State := { s with vd.queue := [] }

def unchannelled (s : State) : State := { s with vd.channelA := none, vd.channelB := none }

/-- The bed's open request waits; the bed has a channel. -/
def opensQueued (s : State) (b : BedId) : Bool := s.vd.queue.any fun r => decide (r = ⟨b, .opens⟩)

def channelled (s : State) (b : BedId) : Bool := (s.channelOf b).isSome

theorem flushQueue_eq (s : State) : s.flushQueue = (unqueued s).closeThose (opensQueued s) := rfl

theorem releaseChannels_eq (s : State) : s.releaseChannels = (unchannelled s).closeThose (channelled s) := rfl

/-- The drive after steps 3 to 5, on its way from the entry to LOST. -/
def State.emptied (s : State) : State := s.cutPulse.flushQueue.releaseChannels

/-- Where a valve stands then. -/
def emptiedValve (s : State) (b : BedId) : ValveState :=
  if ⟨b, .opens⟩ ∈ s.vd.queue ∨ (s.channelOf b).isSome = true then .closed
  else if s.pulsing b = true then .unknown else s.valve b

structure Emptied (s t : State) : Prop extends Inside s t where
  rest : t.vd = { s.vd with valves := t.vd.valves, queue := [], generator := s.cutPulse.vd.generator, channelA := none, channelB := none }
  valve : ∀ b, t.valve b = emptiedValve s b
  latches : ∀ c, c ≠ .discard → t.latch c = s.latch c
  off : ∀ b, (t.bed b).state = .off ↔ (s.bed b).state = .off
  calm : (∀ b, (s.bed b).state.calm) → (∀ b, (t.bed b).state.calm) ∧ t.sb.claim = s.sb.claim
  skips : ∀ b, ⟨b, .opens⟩ ∉ s.vd.queue → s.channelOf b = none → t.bed b = s.bed b

theorem emptied (s : State) : Emptied s (State.emptied s) := by
  obtain ⟨cut, cutVd⟩ := CoilCheck.cutPulse_rest s
  have cutValve := cutPulse_valve (s := s)
  have cutInside := inside_cutPulse s
  unfold State.emptied
  obtain ⟨c, hc⟩ : ∃ c, s.cutPulse = c := ⟨_, rfl⟩
  rw [hc] at cut cutVd cutValve cutInside ⊢
  have queue : c.vd.queue = s.vd.queue := by rw [cutVd]
  have flush := closes_closeThose (opensQueued c) (unqueued c)
  have flushValve (b : BedId) := closeThose_valve (opensQueued c) b (unqueued c)
  have flushSkips (b : BedId) (out : opensQueued c b = false) := closeThose_skips (b := b) (opensQueued c) out (unqueued c)
  rw [flushQueue_eq]
  generalize (unqueued c).closeThose (opensQueued c) = f at flush flushValve flushSkips ⊢
  have channels (b : BedId) : channelled f b = (s.channelOf b).isSome := by
    have same : f.channelOf b = s.channelOf b := by
      rw [State.channelOf, flush.vd]
      show c.channelOf b = s.channelOf b
      rw [State.channelOf, cutVd]
      rfl
    exact congrArg Option.isSome same
  have release := closes_closeThose (channelled f) (unchannelled f)
  have releaseValve (b : BedId) := closeThose_valve (channelled f) b (unchannelled f)
  have releaseSkips (b : BedId) (out : channelled f b = false) := closeThose_skips (b := b) (channelled f) out (unchannelled f)
  rw [releaseChannels_eq]
  generalize (unchannelled f).closeThose (channelled f) = r at release releaseValve releaseSkips ⊢
  have waits (b : BedId) : opensQueued c b = true ↔ ⟨b, .opens⟩ ∈ s.vd.queue := by
    rw [opensQueued, queue]
    simp
  have inside : Inside s r := ((cutInside.trans (inside_drive [] c.vd.generator c.vd.closures c fun h => ⟨List.nodup_nil, h.2⟩)).trans
    flush.toInside).trans ((inside_channels none none f).trans release.toInside)
  refine ⟨inside, ?_, fun b => ?_, fun x ne => ?_, fun b => ?_, fun calm => ?_, fun b out free => ?_⟩
  · refine release.vd.trans ?_
    rw [show (unchannelled f).vd = { f.vd with channelA := none, channelB := none } from rfl, flush.vd, hc,
      show (unqueued c).vd = { c.vd with queue := [] } from rfl, cutVd]
  · rw [releaseValve, show (unchannelled f).valve b = f.valve b from rfl, flushValve,
      show (unqueued c).valve b = c.valve b from rfl, cutValve, channels]
    unfold emptiedValve
    by_cases held : (s.channelOf b).isSome = true
    · rw [if_pos held, if_pos (.inr held)]
    · rw [if_neg held]
      by_cases out : ⟨b, .opens⟩ ∈ s.vd.queue
      · rw [if_pos ((waits b).2 out), if_pos (.inl out)]
      · rw [if_neg (mt (waits b).1 out), if_neg (not_or.2 ⟨out, held⟩)]
  · rw [release.latches x ne, show (unchannelled f).latch x = f.latch x from rfl, flush.latches x ne,
      show (unqueued c).latch x = c.latch x from rfl, cut]
    rfl
  · rw [release.off, show (unchannelled f).bed b = f.bed b from rfl, flush.off,
      show (unqueued c).bed b = c.bed b from rfl, cut.bed]
  · have first := flush.calm fun b => by
      rw [show (unqueued c).bed b = c.bed b from rfl, cut.bed]
      exact calm b
    have second := release.calm first.1
    exact ⟨second.1, second.2.trans (first.2.trans (congrArg SupplyBook.claim cut.sb))⟩
  · have noRequest : opensQueued c b = false := Bool.eq_false_of_not_eq_true (mt (waits b).1 out)
    rw [(releaseSkips b (by rw [channels, free]; rfl)).bed, show (unchannelled f).bed b = f.bed b from rfl,
      (flushSkips b noRequest).bed, show (unqueued c).bed b = c.bed b from rfl, cut.bed]

/-! ### The reserve closure (R139) -/

/-- The valves that the closure lists. -/
def leftList (s : State) : List BedId := (allBeds.filter fun b => s.leftOpen b).take 4

theorem leftList_nodup (s : State) : (leftList s).Nodup :=
  ((List.nodup_finRange 8).filter _).sublist (List.take_sublist ..)

/-- The OPEN ones among them go to CLOSING. -/
def markList (s : State) : State := (leftList s).foldl (fun s b => s.markClosing b) s

theorem reserveClosure_eq (ready : Bool) (s : State) : s.reserveClosure ready
    = if ready then State.kick { markList s with vd.closures := leftList s } else { markList s with vd.closures := [] } := rfl

/-- Valves and the moment of the transient alone. -/
def Marks (s t : State) : Prop := t = { s with vd.valves := t.vd.valves, fm := t.fm }

theorem marks_markClosing (b : BedId) (s : State) : Marks s (s.markClosing b) := by
  unfold State.markClosing
  split <;> rfl

theorem Marks.refl (s : State) : Marks s s := rfl

theorem Marks.trans (h : Marks s t) (k : Marks t u) : Marks s u := by rw [Marks, k, h]

theorem marks_markList (s : State) : Marks s (markList s) :=
  foldl_keeps Marks.refl (fun _ _ _ => Marks.trans) (fun s b => marks_markClosing b s) _ s

theorem markClosing_valve (b d : BedId) (s : State) :
    (s.markClosing d).valve b = if b = d ∧ s.valve b = .opened then .closing else s.valve b := by
  unfold State.markClosing
  by_cases e : b = d
  · subst e
    by_cases opened : s.valve b = .opened
    · rw [if_pos opened, if_pos ⟨rfl, opened⟩]
      exact PerBed.get_set_same ..
    · rw [if_neg opened, if_neg fun h => opened h.2]
  · have other : ¬ (b = d ∧ s.valve b = .opened) := fun h => e h.1
    rw [if_neg other]
    split
    · exact valve_setValve_ne e .closing s
    · rfl

theorem marked_valve (b : BedId) (l : List BedId) (s : State) :
    (l.foldl (fun s b => s.markClosing b) s).valve b = if b ∈ l ∧ s.valve b = .opened then .closing else s.valve b := by
  induction l generalizing s with
  | nil => simp
  | cons d l ih =>
    rw [List.foldl_cons, ih, markClosing_valve]
    by_cases e : b = d
    · by_cases opened : s.valve b = .opened
      · simp [e, e ▸ opened]
      · simp [opened]
    · simp [e]

end Sys2Proof.CoilSupply

/-! PROOFS. SUPPLY_LOSS as one event (R138, R139, R142). -/

namespace Sys2Proof.CoilSupply

open Sys2Proof.Machine

variable {b d : BedId} {s t u v : State}

/-- The reserve closure without a GOOD supply. -/
structure Reserved (ready : Bool) (s t : State) : Prop where
  rest : t = { s with vd := t.vd, fm := t.fm }
  vd : t.vd = { s.vd with valves := t.vd.valves, closures := t.vd.closures, generator := t.vd.generator }
  valve : ∀ b, t.valve b = if b ∈ leftList s ∧ s.valve b = .opened then .closing else s.valve b
  busy : s.vd.generator ≠ .idle → t.vd.generator = s.vd.generator
  unready : ready = false → t.vd.closures = [] ∧ t.vd.generator = s.vd.generator
  listed : ready = true → s.vd.generator ≠ .idle → t.vd.closures = leftList s
  empty : ready = true → s.vd.generator = .idle → leftList s = [] → t.vd.closures = [] ∧ t.vd.generator = .idle
  first : ready = true → s.vd.generator = .idle → ∀ b l, leftList s = b :: l →
    t.vd.closures = l ∧ t.vd.generator = .pulse ⟨b, .closes⟩ true s.now

theorem reserved (ready : Bool) (poor : s.vd.supply ≠ .good) : Reserved ready s (s.reserveClosure ready) := by
  have marks := marks_markList s
  have valves (b : BedId) : (markList s).valve b = _ := marked_valve b (leftList s) s
  rw [reserveClosure_eq]
  generalize markList s = m at marks valves ⊢
  have generator : m.vd.generator = s.vd.generator := by rw [marks]
  have supply : m.vd.supply = s.vd.supply := by rw [marks]
  have now : m.now = s.now := by rw [marks]
  have with_drive {l : List BedId} {g : Generator} (t : State) (eq : t = { m with vd.closures := l, vd.generator := g }) :
      t = { s with vd := t.vd, fm := t.fm }
        ∧ t.vd = { s.vd with valves := t.vd.valves, closures := t.vd.closures, generator := t.vd.generator }
        ∧ ∀ b, t.valve b = if b ∈ leftList s ∧ s.valve b = .opened then .closing else s.valve b := by
    rw [eq]
    refine ⟨?_, ?_, valves⟩
    · rw [marks]
    · rw [marks]
  cases ready with
  | false =>
    obtain ⟨rest, vd, valve⟩ := with_drive (l := []) (g := m.vd.generator) { m with vd.closures := [] } rfl
    exact ⟨rest, vd, valve, fun _ => generator, fun _ => ⟨rfl, generator⟩, nofun, nofun, nofun⟩
  | true =>
    rw [if_pos rfl]
    by_cases idle : s.vd.generator = .idle
    · cases list : leftList s with
      | nil =>
        have rests : State.kick { m with vd.closures := [] } = { m with vd.closures := [] } :=
          PulsesAndCloses.kick_nothing rfl (.inl (supply ▸ poor))
        rw [rests]
        obtain ⟨rest, vd, valve⟩ := with_drive (l := []) (g := m.vd.generator) { m with vd.closures := [] } rfl
        rw [list] at valve
        exact ⟨rest, vd, by rw [list]; exact valve, fun _ => generator, nofun, fun _ busy => absurd idle busy, fun _ _ _ => ⟨rfl, generator.trans idle⟩,
          fun _ _ b l e => by rw [list] at e; cases e⟩
      | cons c l =>
        have kicks : State.kick { m with vd.closures := c :: l } = { m with vd.closures := l, vd.generator := .pulse ⟨c, .closes⟩ true m.now } :=
          PulsesAndCloses.kick_closure (s := { m with vd.closures := c :: l }) (generator.trans idle) rfl
        rw [kicks]
        obtain ⟨rest, vd, valve⟩ := with_drive (l := l) (g := .pulse ⟨c, .closes⟩ true m.now) { m with
          vd.closures := l, vd.generator := .pulse ⟨c, .closes⟩ true m.now } rfl
        refine ⟨rest, vd, valve, fun busy => absurd idle busy, nofun, fun _ busy => absurd idle busy,
          fun _ _ e => (by rw [list] at e; cases e), fun _ _ b l' e => ?_⟩
        rw [list] at e
        obtain ⟨rfl, rfl⟩ := List.cons.inj e
        exact ⟨rfl, by rw [now]⟩
    · have rests : State.kick { m with vd.closures := leftList s } = { m with vd.closures := leftList s } :=
        kick_busy (s := { m with vd.closures := leftList s }) (generator ▸ idle)
      rw [rests]
      obtain ⟨rest, vd, valve⟩ := with_drive (l := leftList s) (g := m.vd.generator) { m with vd.closures := leftList s } rfl
      exact ⟨rest, vd, valve, fun _ => generator, nofun, fun _ _ => rfl, fun _ e => absurd e idle, fun _ e => absurd e idle⟩

/-! ### The whole event -/

/-- The state in which SUPPLY_LOSS leaves the drive, before the start-up closure is looked at. -/
def shutDown (s : State) : State := (State.emptied s.supplyGoes).reserveClosure s.vd.ready

theorem loss_run (live : s.live = true) (good : s.vd.supply = .good) : exec .supplyLoss s = .next (shutDown s).checkStartUp.finish := by
  simp only [exec, execSupplyLoss, State.take, live, good, if_true]
  rfl

theorem inside_shutDown (s : State) : Inside { lost s with bc.holds := s.bc.holds.put .supply true } (shutDown s) :=
  ((inside_supplyGoes s).trans (emptied s.supplyGoes).toInside).trans (inside_reserveClosure ..)

theorem emptied_poor (s : State) : (State.emptied s.supplyGoes).vd.supply ≠ .good := by
  rw [(emptied s.supplyGoes).rest]
  show s.supplyGoes.vd.supply ≠ .good
  rw [supplyGoes_vd]
  nofun

theorem reserved_shutDown (s : State) : Reserved s.vd.ready (State.emptied s.supplyGoes) (shutDown s) := reserved s.vd.ready (emptied_poor s)

/-- What the loss makes of the supply, the SUPPLY hold and the cause, in every case. -/
structure Lost (s t : State) : Prop where
  now : t.now = s.now
  supply : t.vd.supply = .lost
  ready : t.vd.ready = false
  charge : t.vd.chargeSince = none
  hold : t.bc.holds.supply = true
  latch : ∃ armed, t.latch .supply = ⟨true, armed, 15, word16 s.vd.coilVolts⟩

theorem Lost.charges (h : Lost s t) (k : Charges t u) : Lost s u := by
  obtain ⟨armed, latch⟩ := h.latch
  exact ⟨k.now.trans h.now, k.supply.trans h.supply, k.ready.trans h.ready, k.charge.trans h.charge, by rw [k.holds]; exact h.hold,
    ⟨armed, (k.latches .supply nofun nofun).trans latch⟩⟩

theorem lost_supplyGoes (s : State) : Lost s s.supplyGoes :=
  ⟨(inside_supplyGoes s).now, by rw [supplyGoes_vd]; rfl, by rw [supplyGoes_vd]; rfl, by rw [supplyGoes_vd]; rfl, supplyGoes_holds s, supplyGoes_latch s⟩

theorem keepsSupply (h : Inside s t) (hold : s.bc.holds.supply = true) : t.bc.holds.supply = true := by
  rcases h.holds with e | e <;> rw [e] <;> exact hold

theorem lost_shutDown (s : State) : Lost s (shutDown s) := by
  have goes := lost_supplyGoes s
  have empty := emptied s.supplyGoes
  have closure := reserved_shutDown s
  have vd : (shutDown s).vd.supply = s.supplyGoes.vd.supply ∧ (shutDown s).vd.ready = s.supplyGoes.vd.ready
      ∧ (shutDown s).vd.chargeSince = s.supplyGoes.vd.chargeSince := by
    rw [closure.vd, empty.rest]
    exact ⟨rfl, rfl, rfl⟩
  obtain ⟨armed, latch⟩ := goes.latch
  refine ⟨(inside_shutDown s).now, vd.1.trans goes.supply, vd.2.1.trans goes.ready, vd.2.2.trans goes.charge, ?_, ⟨armed, ?_⟩⟩
  · rw [closure.rest]
    exact (keepsSupply empty.toInside goes.hold : (State.emptied s.supplyGoes).bc.holds.supply = true)
  · rw [closure.rest]
    exact (empty.latches .supply nofun).trans latch

/-- The end of the event changes none of it. -/
theorem Lost.finish (h : Lost s t) : t.finish.now = s.now ∧ t.finish.vd.supply = .lost ∧ t.finish.vd.ready = false ∧ t.finish.vd.chargeSince = none
    ∧ t.finish.bc.holds.supply = true ∧ (t.finish.latch .supply).pending = true ∧ (t.finish.latch .supply).value = word16 s.vd.coilVolts := by
  have inside := inside_finish t
  obtain ⟨armed, latch⟩ := h.latch
  obtain ⟨pending, -, value⟩ := PeerNotices.latch_finish (s := t) (c := .supply) nofun nofun
  rw [latch] at pending value
  exact ⟨inside.now.trans h.now, (inside.field fun x => x.vd.supply).trans h.supply, (inside.field fun x => x.vd.ready).trans h.ready,
    (inside.field fun x => x.vd.chargeSince).trans h.charge, keepsSupply inside h.hold, pending, value⟩

/-! ### The beds and the valves where SUPPLY joins -/

section Joins

variable (absent : s.bc.holds.supply = false)
include absent

theorem goes_calm (b : BedId) : (s.supplyGoes.bed b).state.calm := by
  rw [supplyGoes_bed]
  exact joinHold_rests (r := .supply) (s := lost s) absent rfl b

theorem shutDown_calm (b : BedId) : ((shutDown s).bed b).state.calm := by
  rw [(reserved_shutDown s).rest]
  exact ((emptied s.supplyGoes).calm (goes_calm absent)).1 b

theorem shutDown_off (b : BedId) : ((shutDown s).bed b).state = .off ↔ (s.bed b).state = .off := by
  rw [(reserved_shutDown s).rest]
  refine ((emptied s.supplyGoes).off b).trans ?_
  rw [supplyGoes_bed]
  exact joinSupply_off (s := lost s) absent b

theorem shutDown_dead (sound : ClaimSound s) : (shutDown s).sb.claim.live = false := by
  have dead : s.supplyGoes.sb.claim.live = false := by
    rw [supplyGoes_eq, State.setPending_rest]
    exact joinHold_withdraws (r := .supply) (s := lost s) absent rfl sound.holds
  rw [(reserved_shutDown s).rest]
  show (State.emptied s.supplyGoes).sb.claim.live = false
  rw [((emptied s.supplyGoes).calm (goes_calm absent)).2]
  exact dead

theorem shutDown_cut {r : Run} (cycling : (s.bed b).state.cycling = true) (run : (s.bed b).run = some r)
    (out : ⟨b, .opens⟩ ∉ s.vd.queue) (free : s.channelOf b = none) :
    ((shutDown s).bed b).state = .closing ∧ ((shutDown s).bed b).run = some { r with endCause := some .supply } := by
  have same : (shutDown s).bed b = s.supplyGoes.bed b := by
    rw [(reserved_shutDown s).rest]
    refine (emptied s.supplyGoes).skips b ?_ ?_
    · rw [supplyGoes_vd]; exact out
    · rw [State.channelOf, supplyGoes_vd]; exact free
  rw [same, supplyGoes_bed]
  exact joinSupply_cut (s := lost s) absent cycling run

end Joins

/-! ### What the drive lists (R139) -/

/-- The valves that SUPPLY_LOSS leaves to close: latching ones OPEN, CLOSING or UNKNOWN. -/
def lossList (s : State) : List BedId := (allBeds.filter fun b =>
  s.latching b && (emptiedValve s b == .opened || emptiedValve s b == .closing || emptiedValve s b == .unknown)).take 4

theorem emptied_valve (s : State) (b : BedId) : (State.emptied s.supplyGoes).valve b = emptiedValve s b := by
  rw [(emptied s.supplyGoes).valve]
  unfold emptiedValve State.channelOf State.pulsing State.valve
  rw [supplyGoes_vd]
  rfl

theorem latching_of_off (setup : t.sl.setup = s.sl.setup) (off : (t.bed b).state = .off ↔ (s.bed b).state = .off) : t.latching b = s.latching b := by
  unfold State.latching State.setupOf
  rw [setup]
  congr 1
  exact decide_eq_decide.2 (not_congr off)

theorem leftList_emptied (absent : s.bc.holds.supply = false) : leftList (State.emptied s.supplyGoes) = lossList s := by
  have setup : (State.emptied s.supplyGoes).sl.setup = s.sl.setup := by
    rw [(emptied s.supplyGoes).sl, (inside_supplyGoes s).sl]
    rfl
  have off (b : BedId) : ((State.emptied s.supplyGoes).bed b).state = .off ↔ (s.bed b).state = .off := by
    refine ((emptied s.supplyGoes).off b).trans ?_
    rw [supplyGoes_bed]
    exact joinSupply_off (s := lost s) absent b
  have each (b : BedId) : (State.emptied s.supplyGoes).leftOpen b = (s.latching b && (emptiedValve s b == .opened || emptiedValve s b == .closing
      || emptiedValve s b == .unknown)) := by
    unfold State.leftOpen
    rw [latching_of_off setup (off b), emptied_valve]
    rfl
  unfold leftList lossList
  rw [List.filter_congr fun b _ => each b]

/-- The generator as the loss finds it: a pulse under way is cut short. -/
theorem emptied_generator (s : State) : (∀ r x y, s.vd.generator = .pulse r x y → (State.emptied s.supplyGoes).vd.generator = .recovery s.now)
    ∧ ((∀ r x y, s.vd.generator ≠ .pulse r x y) → (State.emptied s.supplyGoes).vd.generator = s.vd.generator) := by
  obtain ⟨cut, keep⟩ := cutPulse_generator s.supplyGoes
  have same : s.supplyGoes.vd.generator = s.vd.generator := by rw [supplyGoes_vd]; rfl
  rw [same] at cut keep
  rw [(emptied s.supplyGoes).rest]
  exact ⟨fun r x y e => (cut r x y e).trans (by rw [(inside_supplyGoes s).now]; rfl), keep⟩

theorem startUp_closed (queue : s.vd.queue = []) : s.startUpShut = true ↔ ∀ b, s.latching b = true → s.valve b ≠ .unknown ∧ s.pulsing b = false := by
  have each (b : BedId) : (!s.latching b || (decide (s.valve b ≠ .unknown) && !s.queued b && !s.pulsing b)) = true
      ↔ (s.latching b = true → s.valve b ≠ .unknown ∧ s.pulsing b = false) := by
    have free : s.queued b = false := by rw [State.queued, queue]; rfl
    rw [free]
    cases s.latching b <;> cases s.pulsing b <;> simp
  unfold State.startUpShut
  rw [List.all_eq_true]
  exact ⟨fun all b => (each b).1 (all b (List.mem_finRange b)), fun all b _ => (each b).2 (all b)⟩

/-- The drive after the event, where SUPPLY joins. -/
theorem loss_drive (absent : s.bc.holds.supply = false) (sound : ClaimSound s) :
    let t := (shutDown s).checkStartUp.finish
    t.vd = { (shutDown s).vd with check := t.vd.check }
      ∧ (∀ b, ((shutDown s).bed b).state = .closing → t.bed b = (shutDown s).bed b)
      ∧ (s.sl.station = .checking → s.vd.check = .closure → s.sl.clashNoted = false →
          (∀ b, t.latching b = (shutDown s).latching b) ∧ (t.sl.station = .listening ↔ (shutDown s).startUpShut = true)) := by
  intro t
  have ends := startUpEnds_check (shutDown s)
  have inside := inside_shutDown s
  obtain ⟨drive, calm⟩ := ends.calm (shutDown_calm absent)
  obtain ⟨same, may⟩ := finish_still_drive (s := (shutDown s).checkStartUp) (fun b => (calm b).1) (ends.dead (shutDown_dead absent sound))
  have sl : t.sl = (shutDown s).checkStartUp.sl := (inside_finish _).sl
  have vd : t.vd = { (shutDown s).vd with check := t.vd.check } := by
    rw [show t.vd = (shutDown s).checkStartUp.vd from same]
    exact drive
  refine ⟨vd, fun b closing => ?_, fun station check unnoted => ?_⟩
  · have kept := ends.closing b closing
    exact ((may b).of_not_waiting (by rw [kept, closing]; nofun)).trans kept
  · have checking : (shutDown s).sl.station = .checking := (congrArg SetupLoader.station inside.sl).trans station
    have closure : (shutDown s).vd.check = .closure := inside.checkPhase.trans check
    have clean : (shutDown s).sl.clashNoted = false := (congrArg SetupLoader.clashNoted inside.sl).trans unnoted
    have looks : (shutDown s).checkStartUp = if (shutDown s).startUpShut = true then (shutDown s).listens else shutDown s := by
      unfold State.checkStartUp
      rw [← startUpDone_unnoted clean]
      exact if_congr ⟨fun h => h.2.2, fun h => ⟨checking, closure, h⟩⟩ rfl rfl
    have known : (shutDown s).checkStartUp.sl.setup = (shutDown s).sl.setup ∧ (∀ b, (shutDown s).checkStartUp.bed b = (shutDown s).bed b)
        ∧ ((shutDown s).checkStartUp.sl.station = .listening ↔ (shutDown s).startUpShut = true) := by
      obtain ⟨q, a, rest⟩ := listens_rest (shutDown s)
      rw [looks]
      split
      · next shut =>
        rw [rest]
        exact ⟨rfl, fun _ => rfl, fun _ => shut, fun _ => rfl⟩
      · next open' =>
        exact ⟨rfl, fun _ => rfl, fun e => absurd e (by rw [checking]; nofun), fun shut => absurd shut open'⟩
    obtain ⟨setup, bed, iff⟩ := known
    refine ⟨fun b => latching_of_off (by rw [sl, setup]) ?_, by rw [sl]; exact iff⟩
    rw [← bed b]
    rcases may b with e | ⟨waits, claims⟩
    · rw [e]
    · rw [claims, waits]
      exact ⟨nofun, nofun⟩

/-- SUPPLY_LOSS, in every case and where SUPPLY joins. -/
theorem supply_loss (live : s.live = true) (good : s.vd.supply = .good) : ∃ t, exec .supplyLoss s = .next t
    ∧ (s.vd.check ≠ .closure → FurtherWork { s with
        vd.supply := .lost, vd.ready := false, vd.chargeSince := none, bc.holds := s.bc.holds.put .supply true } t)
    ∧ t.now = s.now ∧ t.vd.supply = .lost ∧ t.vd.ready = false ∧ t.vd.chargeSince = none ∧ t.bc.holds.supply = true
    ∧ (t.latch .supply).pending = true ∧ (t.latch .supply).value = word16 s.vd.coilVolts
    ∧ (s.bc.holds.supply = false → ∀ b, (t.bed b).state ≠ .confirming ∧ (t.bed b).state ≠ .running)
    ∧ (s.bc.holds.supply = false → ClaimSound s →
        let after := emptiedValve s
        let list := lossList s
        (∀ b r, (s.bed b).state.cycling = true → (s.bed b).run = some r → ⟨b, .opens⟩ ∉ s.vd.queue → s.channelOf b = none →
            (t.bed b).state = .closing ∧ (t.bed b).run = some { r with endCause := some .supply })
          ∧ t.vd.queue = [] ∧ t.vd.channelA = none ∧ t.vd.channelB = none
          ∧ (∀ b, t.valve b = if b ∈ list ∧ after b = .opened then .closing else after b)
          ∧ (∀ r x y, s.vd.generator = .pulse r x y → t.vd.generator = .recovery s.now)
          ∧ (∀ x, s.vd.generator = .recovery x → t.vd.generator = .recovery x)
          ∧ (s.vd.ready = false → t.vd.closures = [] ∧ (s.vd.generator = .idle → t.vd.generator = .idle))
          ∧ (s.vd.ready = true → s.vd.generator ≠ .idle → t.vd.closures = list)
          ∧ (s.vd.ready = true → s.vd.generator = .idle →
              (list = [] → t.vd.closures = [] ∧ t.vd.generator = .idle)
              ∧ ∀ b l, list = b :: l → t.vd.closures = l ∧ t.vd.generator = .pulse ⟨b, .closes⟩ true s.now)
          ∧ (s.sl.station = .checking → s.vd.check = .closure → s.sl.clashNoted = false →
              (t.sl.station = .listening ↔ ∀ b, t.latching b = true → t.valve b ≠ .unknown ∧ t.pulsing b = false))) := by
  obtain ⟨now, supply, ready, charge, hold, pending, value⟩ := ((lost_shutDown s).charges (startUpEnds_check _).toCharges).finish
  refine ⟨_, loss_run live good, fun other => ?_, now, supply, ready, charge, hold, pending, value, fun absent b => ?_, fun absent sound => ?_⟩
  · have same : (shutDown s).checkStartUp = shutDown s :=
      PulsesAndCloses.checkStartUp_other (by rw [(inside_shutDown s).checkPhase]; exact other)
    rw [same]
    exact ((inside_shutDown s).trans (inside_finish _)).further
  · have calm := ((startUpEnds_check (shutDown s)).calm (shutDown_calm absent)).2 b
    exact not_credited (credited_finish _ b (credited_of_cycling calm.1))
  · intro after list
    obtain ⟨vd, closing, startUp⟩ := loss_drive absent sound
    have closure := reserved_shutDown s
    have lists : leftList (State.emptied s.supplyGoes) = list := leftList_emptied absent
    obtain ⟨cut, keep⟩ := emptied_generator s
    have empty := (emptied s.supplyGoes).rest
    have start : (State.emptied s.supplyGoes).now = s.now := (emptied s.supplyGoes).now.trans (inside_supplyGoes s).now
    have idles (idle : s.vd.generator = .idle) : (State.emptied s.supplyGoes).vd.generator = .idle :=
      (keep fun r x y e => by rw [idle] at e; cases e).trans idle
    have busies (busy : s.vd.generator ≠ .idle) : (State.emptied s.supplyGoes).vd.generator ≠ .idle := by
      cases generator : s.vd.generator with
      | idle => exact absurd generator busy
      | pulse r x y => rw [cut r x y generator]; nofun
      | recovery x => 
        rw [keep (fun _ _ _ e => by rw [generator] at e; cases e), generator]
        nofun
    have queue : (shutDown s).vd.queue = [] := by rw [closure.vd, empty]
    have valves (b : BedId) : (shutDown s).valve b = if b ∈ list ∧ after b = .opened then .closing else after b := by
      rw [closure.valve, lists, emptied_valve]
    have generator : (shutDown s).checkStartUp.finish.vd.generator = (shutDown s).vd.generator := by rw [vd]
    have closures : (shutDown s).checkStartUp.finish.vd.closures = (shutDown s).vd.closures := by rw [vd]
    obtain ⟨listed, none', first⟩ := And.intro closure.listed (And.intro closure.empty closure.first)
    rw [lists] at listed none' first
    rw [start] at first
    refine ⟨fun b r cycling run out free => ?_, by rw [vd]; exact queue, by rw [vd, closure.vd, empty], by rw [vd, closure.vd, empty], fun b => ?_,
      fun r x y e => ?_, fun x e => ?_, fun out => ?_, fun on busy => ?_, fun on idle => ⟨fun none => ?_, fun b l e => ?_⟩,
      fun station check unnoted => ?_⟩
    · obtain ⟨state, cause⟩ := shutDown_cut absent cycling run out free
      rw [closing b state]
      exact ⟨state, cause⟩
    · rw [State.valve, vd]
      exact valves b
    · rw [generator, closure.busy (by rw [cut r x y e]; nofun), cut r x y e]
    · have same := keep fun r y z pulse => by rw [e] at pulse; cases pulse
      rw [generator, closure.busy (by rw [same, e]; nofun), same, e]
    · obtain ⟨none, same⟩ := closure.unready out
      exact ⟨closures.trans none, fun idle => by rw [generator, same, idles idle]⟩
    · rw [closures, listed on (busies busy)]
    · obtain ⟨none, idle'⟩ := none' on (idles idle) none
      exact ⟨closures.trans none, generator.trans idle'⟩
    · obtain ⟨rest, pulse⟩ := first on (idles idle) b l e
      exact ⟨closures.trans rest, generator.trans pulse⟩
    · obtain ⟨latching, listening⟩ := startUp station check unnoted
      rw [listening, startUp_closed queue]
      refine forall_congr' fun b => ?_
      have valve : (shutDown s).checkStartUp.finish.valve b = (shutDown s).valve b := by rw [State.valve, vd]; rfl
      have pulsing : (shutDown s).checkStartUp.finish.pulsing b = (shutDown s).pulsing b := by rw [State.pulsing, vd]; rfl
      rw [latching, valve, pulsing]

end Sys2Proof.CoilSupply

/-! PROOFS. The coil supply comes and returns, and the reserve (R136, R137, R140, R142). -/

namespace Sys2Proof.CoilSupply

open Sys2Proof.Machine

variable {b d : BedId} {s t u v : State} {l : List BedId}

/-! ### The supply is GOOD (R134, R137) -/

/-- GOOD, with the charge count begun. -/
def powered (s : State) : State := { s with vd.supply := .good, vd.chargeSince := some s.now }

/-- A channel that waited for the supply begins its pull-in. -/
def started (s : State) (c : Channel) : Channel := if c.phase = .waiting then { c with phase := .pullIn s.now false } else c

theorem supplyComes_eq (s : State) : s.supplyComes = ((powered s).mapChannels (started s)).kick := rfl

theorem inside_supplyComes (s : State) : Inside (powered s) s.supplyComes := (inside_mapChannels _ _).trans (inside_kick _)

/-- Beside the channels the drive is as the generator's start leaves it. -/
theorem supplyComes_rest (s : State) : s.supplyComes = { powered s with
    vd.channelA := s.vd.channelA.map (started s), vd.channelB := s.vd.channelB.map (started s)
    vd.queue := s.supplyComes.vd.queue, vd.generator := s.supplyComes.vd.generator, vd.closures := s.supplyComes.vd.closures } := by
  have rest := Overdraw.kick_rest ((powered s).mapChannels (started s))
  rw [← supplyComes_eq] at rest
  exact rest

/-! ### Valves left behind are queued for closing (R140) -/

/-- The bed's valve is left behind. -/
def leftBehind (s : State) (b : BedId) : Bool := s.leftOpen b && !s.queued b && !s.pulsing b

/-- What the pass over these beds leaves. -/
structure Reclosed (l : List BedId) (s t : State) : Prop where
  rest : t = { s with vd := t.vd, fm := t.fm }
  vd : t.vd = { s.vd with valves := t.vd.valves, queue := t.vd.queue, generator := t.vd.generator }
  valve : ∀ b, t.valve b = if b ∈ l.filter (leftBehind s) ∧ s.valve b = .opened then .closing else s.valve b

/-- One valve goes to CLOSING where it is OPEN, and its close joins the queue. -/
def joins (d : BedId) (s : State) : State := { s.markClosing d with vd.queue := s.vd.queue ++ [⟨d, .closes⟩] }

theorem recloseBed_skips (out : leftBehind s d = false) : s.recloseBed d = s := if_neg (ne_true_of_eq_false out)

theorem recloseBed_joins (left : leftBehind s d = true) : s.recloseBed d = (joins d s).kick := by
  have free : (s.markClosing d).queued d = false := by
    have marks := marks_markClosing d s
    rw [marks]
    simp only [leftBehind, Bool.and_eq_true, Bool.not_eq_true'] at left
    exact left.1.2
  have queue : (s.markClosing d).vd.queue = s.vd.queue := by rw [marks_markClosing d s]
  have takes : s.recloseBed d = (s.markClosing d).queueRequest d .closes := if_pos left
  rw [takes, State.queueRequest, if_neg (ne_true_of_eq_false free), queue]
  rfl

theorem joins_rest (d : BedId) (s : State) : joins d s = { s with
    vd.valves := (joins d s).vd.valves, vd.queue := s.vd.queue ++ [⟨d, .closes⟩], fm := (joins d s).fm } := by
  unfold joins
  rw [marks_markClosing d s]

theorem joins_valve (b d : BedId) (s : State) : (joins d s).valve b = if b = d ∧ s.valve b = .opened then .closing else s.valve b :=
  markClosing_valve b d s

theorem leftBehind_congr (same : t.latching b = s.latching b) (valve : t.valve b = s.valve b) (queued : t.queued b = s.queued b)
    (pulsing : t.pulsing b = s.pulsing b) : leftBehind t b = leftBehind s b := by
  unfold leftBehind State.leftOpen
  rw [same, valve, queued, pulsing]

theorem joins_other (ne : b ≠ d) : leftBehind (joins d s) b = leftBehind s b := by
  have rest := joins_rest d s
  refine leftBehind_congr (by rw [rest]; rfl) ?_ ?_ (by rw [rest]; rfl)
  · rw [joins_valve, if_neg fun h => ne h.1]
  · rw [rest]
    simp [State.queued, Ne.symm ne]

/-- One more bed at the head of a pass. -/
theorem Reclosed.cons (out : d ∉ l) (left : leftBehind s d = true) (like : ∀ b, b ≠ d → leftBehind u b = leftBehind s b)
    (rest : u = { s with vd := u.vd, fm := u.fm }) (vd : u.vd = { s.vd with valves := u.vd.valves, queue := u.vd.queue, generator := u.vd.generator })
    (valve : ∀ b, u.valve b = if b = d ∧ s.valve b = .opened then .closing else s.valve b) (h : Reclosed l u t) : Reclosed (d :: l) s t := by
  have same : l.filter (leftBehind u) = l.filter (leftBehind s) := List.filter_congr fun b m => like b fun e => out (e ▸ m)
  refine ⟨by rw [h.rest, rest], by rw [h.vd, vd], fun b => ?_⟩
  rw [h.valve, same, valve, List.filter_cons_of_pos left]
  by_cases e : b = d
  · have absent : b ∉ l.filter (leftBehind s) := fun m => out (e ▸ (List.mem_filter.1 m).1)
    rw [if_neg fun h => absent h.1]
    exact if_congr ⟨fun h => ⟨e ▸ List.mem_cons_self, h.2⟩, fun h => ⟨e, h.2⟩⟩ rfl rfl
  · have other : ¬ (b = d ∧ s.valve b = .opened) := fun h => e h.1
    rw [if_neg other]
    exact if_congr ⟨fun h => ⟨List.mem_cons_of_mem _ h.1, h.2⟩, fun h => ⟨(List.mem_cons.1 h.1).resolve_left e, h.2⟩⟩ rfl rfl

theorem Reclosed.skip (out : leftBehind s d = false) (h : Reclosed l s t) : Reclosed (d :: l) s t := by
  refine ⟨h.rest, h.vd, fun b => ?_⟩
  rw [List.filter_cons_of_neg (by rw [out]; nofun)]
  exact h.valve b

/-- While a pulse or a recovery runs, the closes join the queue in bed order. -/
theorem reclose_busy (busy : s.vd.generator ≠ .idle) (once : l.Nodup) :
    let t := l.foldl (fun s b => s.recloseBed b) s
    Reclosed l s t ∧ t.vd.generator = s.vd.generator ∧ t.vd.queue = s.vd.queue ++ (l.filter (leftBehind s)).map fun b => ⟨b, .closes⟩ := by
  induction l generalizing s with
  | nil => exact ⟨⟨rfl, rfl, fun b => by simp⟩, rfl, by simp⟩
  | cons d l ih =>
    obtain ⟨out, once⟩ := List.nodup_cons.1 once
    dsimp only
    rw [List.foldl_cons]
    by_cases left : leftBehind s d = true
    · have rest := joins_rest d s
      have generator : (joins d s).vd.generator = s.vd.generator := by rw [rest]
      rw [recloseBed_joins left, kick_busy (generator ▸ busy)]
      obtain ⟨closed, same, queue⟩ := ih (s := joins d s) (generator ▸ busy) once
      have like : l.filter (leftBehind (joins d s)) = l.filter (leftBehind s) := List.filter_congr fun b m => joins_other fun e => out (e ▸ m)
      refine ⟨closed.cons out left (fun b => joins_other) ?_ ?_ fun b => joins_valve b d s, same.trans generator, ?_⟩
      · rw [rest]
      · rw [rest]
      · rw [queue, like, List.filter_cons_of_pos left, rest]
        simp
    · have out' := Bool.eq_false_of_not_eq_true left
      rw [recloseBed_skips out']
      obtain ⟨closed, same, queue⟩ := ih busy once
      exact ⟨closed.skip out', same, by rw [queue, List.filter_cons_of_neg left]⟩

/-- With the generator free and nothing waiting, the first of them begins at once. -/
theorem reclose_idle (idle : s.vd.generator = .idle) (closures : s.vd.closures = []) (empty : s.vd.queue = []) (good : s.vd.supply = .good)
    (once : l.Nodup) :
    let t := l.foldl (fun s b => s.recloseBed b) s
    Reclosed l s t ∧ (l.filter (leftBehind s) = [] → t.vd.generator = .idle ∧ t.vd.queue = [])
      ∧ ∀ b k, l.filter (leftBehind s) = b :: k → t.vd.generator = .pulse ⟨b, .closes⟩ false s.now ∧ t.vd.queue = k.map fun b => ⟨b, .closes⟩ := by
  induction l with
  | nil => exact ⟨⟨rfl, rfl, fun b => by simp⟩, fun _ => ⟨idle, empty⟩, nofun⟩
  | cons d l ih =>
    obtain ⟨out, once⟩ := List.nodup_cons.1 once
    dsimp only
    rw [List.foldl_cons]
    by_cases left : leftBehind s d = true
    · have rest := joins_rest d s
      have now : (joins d s).now = s.now := by rw [rest]
      have kicks : (joins d s).kick = { joins d s with vd.queue := [], vd.generator := .pulse ⟨d, .closes⟩ false (joins d s).now } :=
        PulsesAndCloses.kick_request (by rw [rest]; exact idle) (by rw [rest]; exact closures) (by rw [rest]; exact good)
          (by rw [rest, empty]; rfl)
      have like (b : BedId) (ne : b ≠ d) : leftBehind (joins d s).kick b = leftBehind s b := by
        rw [kicks]
        refine leftBehind_congr (by rw [rest]; rfl) ?_ ?_ ?_
        · refine (joins_valve b d s).trans ?_
          rw [if_neg fun h => ne h.1]
        · simp [State.queued, empty]
        · simp [State.pulsing, idle, Ne.symm ne]
      rw [recloseBed_joins left]
      obtain ⟨closed, same, queue⟩ := reclose_busy (s := (joins d s).kick) (by rw [kicks]; nofun) once
      have filter : l.filter (leftBehind (joins d s).kick) = l.filter (leftBehind s) := List.filter_congr fun b m => like b fun e => out (e ▸ m)
      rw [List.filter_cons_of_pos left]
      refine ⟨closed.cons out left like ?_ ?_ fun b => ?_, nofun, fun b k e => ?_⟩
      · rw [kicks, rest]
      · rw [kicks, rest]
      · rw [kicks]
        exact joins_valve b d s
      · obtain ⟨rfl, rfl⟩ := List.cons.inj e
        rw [same, queue, filter, kicks]
        exact ⟨by rw [now], rfl⟩
    · have out' := Bool.eq_false_of_not_eq_true left
      rw [recloseBed_skips out', List.filter_cons_of_neg left]
      obtain ⟨closed, none, some⟩ := ih once
      exact ⟨closed.skip out', none, some⟩

/-! ### SUPPLY_GOOD and SUPPLY_RETURN -/

theorem supply_good (live : s.live = true) (absent : s.vd.supply = .absent) : ∃ t, exec .supplyGood s = .next t ∧ FurtherWork (powered s) t
    ∧ (Settled s → t.vd.channelA = s.vd.channelA.map (started s) ∧ t.vd.channelB = s.vd.channelB.map (started s)) := by
  have run : exec .supplyGood s = .next s.supplyComes.finish := by
    simp only [exec, execSupplyGood, State.take, live, absent, if_true]
  refine ⟨_, run, ((inside_supplyComes s).trans (inside_finish _)).further, fun settled => ?_⟩
  have h := finish_settled s.supplyComes (by rw [supplyComes_rest]; exact settled)
  rw [h.vd, supplyComes_rest]
  exact ⟨rfl, rfl⟩

/-- The state in which the supply returns. -/
def returning (s : State) : State := (s.leaveHold .supply).supplyComes

theorem leaveSupply_eq (s : State) : ∃ o, s.leaveHold .supply = { s with bc.holds := s.bc.holds.put .supply false, bc.occasion := o } := by
  unfold State.leaveHold
  split
  · exact ⟨true, rfl⟩
  · next out =>
    have same : s.bc.holds.put .supply false = s.bc.holds := by
      have off : s.bc.holds.supply = false := Bool.eq_false_of_not_eq_true out
      rw [← off]
      rfl
    exact ⟨s.bc.occasion, by rw [same]⟩

theorem return_run (live : s.live = true) (lost : s.vd.supply = .lost) :
    exec .supplyReturn s = .next (allBeds.foldl (fun s b => s.recloseBed b) (returning s)).finish := by
  simp only [exec, execSupplyReturn, State.take, live, lost, if_true]
  rfl

theorem inside_returning (s : State) : Inside { powered s with bc.holds := s.bc.holds.put .supply false } (returning s) := by
  obtain ⟨o, leaves⟩ := leaveSupply_eq s
  unfold returning
  rw [leaves]
  exact (inside_marks s.sb.dirty o { powered s with bc.holds := s.bc.holds.put .supply false }
    ).trans (inside_supplyComes { s with bc.holds := s.bc.holds.put .supply false, bc.occasion := o })

/-- The drive and the beds as the pass over the valves finds them. -/
theorem returning_rest (s : State) : ∃ o, returning s = { powered s with
    bc.holds := s.bc.holds.put .supply false, bc.occasion := o
    vd.channelA := s.vd.channelA.map (started s), vd.channelB := s.vd.channelB.map (started s)
    vd.queue := (returning s).vd.queue, vd.generator := (returning s).vd.generator, vd.closures := (returning s).vd.closures } := by
  obtain ⟨o, leaves⟩ := leaveSupply_eq s
  refine ⟨o, ?_⟩
  unfold returning
  rw [leaves]
  exact supplyComes_rest _

/-- The generator as it comes on. -/
theorem returning_drive (s : State) :
    (s.vd.generator ≠ .idle → (returning s).vd.generator = s.vd.generator ∧ (returning s).vd.closures = s.vd.closures ∧ (returning s).vd.queue = s.vd.queue)
    ∧ (s.vd.generator = .idle → s.vd.closures = [] → (returning s).vd.closures = []
        ∧ (s.vd.queue = [] → (returning s).vd.generator = .idle ∧ (returning s).vd.queue = [])
        ∧ ∀ r k, s.vd.queue = r :: k → (returning s).vd.generator = .pulse r false s.now ∧ (returning s).vd.queue = k) := by
  obtain ⟨o, leaves⟩ := leaveSupply_eq s
  unfold returning
  rw [leaves, supplyComes_eq]
  set p := (powered { s with bc.holds := s.bc.holds.put .supply false, bc.occasion := o }).mapChannels
    (started { s with bc.holds := s.bc.holds.put .supply false, bc.occasion := o })
  refine ⟨fun busy => ?_, fun idle closures => ?_⟩
  · rw [kick_busy (s := p) busy]
    exact ⟨rfl, rfl, rfl⟩
  · cases queue : s.vd.queue with
    | nil =>
      rw [PulsesAndCloses.kick_nothing (s := p) closures (.inr queue)]
      exact ⟨closures, fun _ => ⟨idle, queue⟩, nofun⟩
    | cons r k =>
      rw [PulsesAndCloses.kick_request (s := p) idle closures rfl queue]
      refine ⟨closures, nofun, fun r' k' e => ?_⟩
      obtain ⟨rfl, rfl⟩ := List.cons.inj e
      exact ⟨rfl, rfl⟩

theorem returning_valve (b : BedId) (s : State) : (returning s).valve b = s.valve b := by
  obtain ⟨o, rest⟩ := returning_rest s
  rw [rest]
  rfl

theorem returning_latching (b : BedId) (s : State) : (returning s).latching b = s.latching b := by
  obtain ⟨o, rest⟩ := returning_rest s
  rw [rest]
  rfl

theorem leftBehind_returning (free : s.vd.generator ≠ .idle ∨ s.vd.closures = []) (b : BedId) : leftBehind (returning s) b = leftBehind s b := by
  obtain ⟨busies, idles⟩ := returning_drive s
  have wanted : ((returning s).queued b || (returning s).pulsing b) = (s.queued b || s.pulsing b) := by
    by_cases idle : s.vd.generator = .idle
    · obtain ⟨-, none, some⟩ := idles idle (free.resolve_left fun busy => busy idle)
      cases queue : s.vd.queue with
      | nil =>
        obtain ⟨still, empty⟩ := none queue
        rw [State.queued, State.queued, State.pulsing, State.pulsing, still, empty, queue, idle]
      | cons r k =>
        obtain ⟨pulse, rest⟩ := some r k queue
        rw [State.queued, State.queued, State.pulsing, State.pulsing, pulse, rest, queue, idle]
        simp [Bool.or_comm]
    · obtain ⟨same, -, queue⟩ := busies idle
      rw [State.queued, State.queued, State.pulsing, State.pulsing, same, queue]
  have unwanted : (!(returning s).queued b && !(returning s).pulsing b) = (!s.queued b && !s.pulsing b) := by
    rw [← Bool.not_or, wanted, Bool.not_or]
  unfold leftBehind State.leftOpen
  rw [returning_latching, returning_valve, Bool.and_assoc _ (!(returning s).queued b) _, unwanted, ← Bool.and_assoc]

/-- A pass over the valves leaves book and channels. -/
def Spares (s t : State) : Prop := t.sb = s.sb ∧ t.vd.channelA = s.vd.channelA ∧ t.vd.channelB = s.vd.channelB

theorem spares_pass (l : List BedId) (s : State) : Spares s (l.foldl (fun s b => s.recloseBed b) s) := by
  refine foldl_keeps (R := Spares) (fun _ => ⟨rfl, rfl, rfl⟩)
    (fun _ _ _ h k => ⟨k.1.trans h.1, k.2.1.trans h.2.1, k.2.2.trans h.2.2⟩) (fun s d => ?_) l s
  by_cases left : leftBehind s d = true
  · rw [recloseBed_joins left, Overdraw.kick_rest, joins_rest]
    exact ⟨rfl, rfl, rfl⟩
  · rw [recloseBed_skips (Bool.eq_false_of_not_eq_true left)]
    exact ⟨rfl, rfl, rfl⟩

theorem supply_return (live : s.live = true) (lost : s.vd.supply = .lost) : ∃ t, exec .supplyReturn s = .next t
    ∧ FurtherWork { powered s with bc.holds := s.bc.holds.put .supply false } t
    ∧ (Settled s →
        let left := allBeds.filter (leftBehind s)
        let queue := s.vd.queue ++ left.map fun b => ⟨b, .closes⟩
        t.vd.channelA = s.vd.channelA.map (started s) ∧ t.vd.channelB = s.vd.channelB.map (started s)
          ∧ (s.vd.generator ≠ .idle ∨ s.vd.closures = [] →
              ∀ b, t.valve b = if b ∈ left ∧ s.valve b = .opened then .closing else s.valve b)
          ∧ (s.vd.generator ≠ .idle → t.vd.generator = s.vd.generator ∧ t.vd.closures = s.vd.closures ∧ t.vd.queue = queue)
          ∧ (s.vd.generator = .idle → s.vd.closures = [] → (queue = [] → t.vd.generator = .idle ∧ t.vd.queue = [])
              ∧ ∀ r l, queue = r :: l → t.vd.generator = .pulse r false s.now ∧ t.vd.queue = l)) := by
  have pass : Inside (returning s) (allBeds.foldl (fun s b => s.recloseBed b) (returning s)) :=
    inside_foldl _ (fun s b => inside_recloseBed b s) allBeds _
  refine ⟨_, return_run live lost, (((inside_returning s).trans pass).trans (inside_finish _)).further, ?_⟩
  intro settled left queue
  obtain ⟨busies, idles⟩ := returning_drive s
  obtain ⟨o, rest⟩ := returning_rest s
  have here (free : s.vd.generator ≠ .idle ∨ s.vd.closures = []) : allBeds.filter (leftBehind (returning s)) = left :=
    List.filter_congr fun b _ => leftBehind_returning free b
  obtain ⟨sb, channelA, channelB⟩ := spares_pass allBeds (returning s)
  have busily (busy : (returning s).vd.generator ≠ .idle) := reclose_busy (l := allBeds) busy (List.nodup_finRange 8)
  have idly (idle : (returning s).vd.generator = .idle) (closures : (returning s).vd.closures = []) (empty : (returning s).vd.queue = []) :=
    reclose_idle (l := allBeds) idle closures empty (by rw [rest]; rfl) (List.nodup_finRange 8)
  have drive : (allBeds.foldl (fun s b => s.recloseBed b) (returning s)).finish.vd = (allBeds.foldl (fun s b => s.recloseBed b) (returning s)).vd :=
    (offered_finish (by rw [sb, rest]; exact settled.1)).vd
  generalize allBeds.foldl (fun s b => s.recloseBed b) (returning s) = u at *
  have valves (free : s.vd.generator ≠ .idle ∨ s.vd.closures = []) (closed : Reclosed allBeds (returning s) u) (b : BedId) :
      u.finish.valve b = if b ∈ left ∧ s.valve b = .opened then .closing else s.valve b := by
    rw [State.valve, drive, ← here free, ← returning_valve b s]
    exact closed.valve b
  refine ⟨by rw [drive, channelA, rest], by rw [drive, channelB, rest], fun free => ?_, fun busy => ?_, fun idle closures => ?_⟩
  · by_cases idle : s.vd.generator = .idle
    · have closures := free.resolve_left fun busy => busy idle
      obtain ⟨none, nothing, some⟩ := idles idle closures
      cases queue : s.vd.queue with
      | nil => exact valves free (idly (nothing queue).1 none (nothing queue).2).1
      | cons r k => exact valves free (busily (by rw [(some r k queue).1]; nofun)).1
    · exact valves free (busily (by rw [(busies idle).1]; exact idle)).1
  · obtain ⟨same, none, kept⟩ := busies busy
    obtain ⟨closed, generator, joined⟩ := busily (by rw [same]; exact busy)
    refine ⟨by rw [drive, generator, same], by rw [drive, closed.vd]; exact none, ?_⟩
    rw [drive, joined, kept, here (.inl busy)]
  · obtain ⟨none, nothing, some⟩ := idles idle closures
    cases waits : s.vd.queue with
    | nil =>
      obtain ⟨still, empty⟩ := nothing waits
      obtain ⟨-, rests, begins⟩ := idly still none empty
      rw [here (.inr closures)] at rests begins
      have only : queue = left.map fun b => ⟨b, .closes⟩ := by rw [show queue = s.vd.queue ++ _ from rfl, waits]; rfl
      rw [only, drive]
      refine ⟨fun e => rests (List.map_eq_nil_iff.1 e), fun r k e => ?_⟩
      obtain ⟨b, tail, list, rfl, rfl⟩ := List.map_eq_cons_iff.1 e
      obtain ⟨pulse, rest'⟩ := begins b tail list
      refine ⟨by rw [pulse, rest]; rfl, rest'⟩
    | cons r k =>
      obtain ⟨pulse, kept⟩ := some r k waits
      obtain ⟨-, generator, joined⟩ := busily (by rw [pulse]; nofun)
      have only : queue = r :: (k ++ left.map fun b => ⟨b, .closes⟩) := by rw [show queue = s.vd.queue ++ _ from rfl, waits]; rfl
      rw [only, drive]
      refine ⟨nofun, fun r' k' e => ?_⟩
      obtain ⟨rfl, rfl⟩ := List.cons.inj e
      exact ⟨generator.trans pulse, by rw [joined, kept, here (.inr closures)]⟩

/-! ### The reserve (R137, R142) -/

theorem charged {c : Nat} (live : s.live = true) (good : s.vd.supply = .good) (charge : s.vd.chargeSince = some c) :
    let v := State.noteOccasion { s.advanceTo (c + 10 * 12000) with vd.ready := true, vd.chargeSince := none }
    exec .reserveReady s = .next (if s.sl.station = .checking ∧ s.reserveWait.isSome = true then v.startCoils else v).finish := by
  intro v
  simp only [exec, execReserveReady, State.take, live, good, charge, if_true]
  rfl

theorem reserve_ready {c : Nat} (live : s.live = true) (good : s.vd.supply = .good) (charge : s.vd.chargeSince = some c) :
    ∃ t, exec .reserveReady s = .next t
      ∧ t.now = max s.now (c + 10 * 12000) ∧ t.vd.ready = true ∧ t.vd.chargeSince = none ∧ t.vd.supply = .good
      ∧ (∀ x, s.sl.station = .checking → s.vd.check = .reserveWait x →
          let marked := allBeds.filter fun b => s.vd.marks.get b
          (marked ≠ [] → t.vd.check = .coils marked t.now) ∧ (marked = [] → t.vd.check = .closure ∨ t.vd.check = .done))
      ∧ (s.vd.check = .done → t.vd.check = .done) := by
  have run := charged live good charge
  set v := State.noteOccasion { s.advanceTo (c + 10 * 12000) with vd.ready := true, vd.chargeSince := none } with hv
  dsimp only at run
  have keeps : Charges v (if s.sl.station = .checking ∧ s.reserveWait.isSome = true then v.startCoils else v) := by
    split
    · exact charges_startCoils v
    · exact ⟨rfl, rfl, rfl, rfl, rfl, fun _ _ _ => rfl⟩
  have inside := inside_finish (if s.sl.station = .checking ∧ s.reserveWait.isSome = true then v.startCoils else v)
  have now := inside.now.trans keeps.now
  refine ⟨_, run, now, (inside.field fun x => x.vd.ready).trans keeps.ready, (inside.field fun x => x.vd.chargeSince).trans keeps.charge,
    (inside.field fun x => x.vd.supply).trans (keeps.supply.trans good), ?_, fun done => ?_⟩
  · intro x station wait marked
    have waits : s.sl.station = .checking ∧ s.reserveWait.isSome = true := ⟨station, by rw [State.reserveWait, wait]; rfl⟩
    rw [now, inside.checkPhase, if_pos waits]
    refine ⟨fun some => ?_, fun none => ?_⟩
    · rw [startCoils_some (s := v) some]
      rfl
    · rw [startCoils_none (s := v) none]
      exact startUpClosure_check v
  · have out : ¬ (s.sl.station = .checking ∧ s.reserveWait.isSome = true) := fun h => by
      have := h.2
      rw [State.reserveWait, done] at this
      cases this
    rw [inside.checkPhase, if_neg out]
    exact done

theorem wait_run {since : Nat} (station : s.sl.station = .checking) (wait : s.vd.check = .reserveWait since) (unready : s.vd.ready = false) :
    exec .reserveWaitTimeout s = .next ((s.advanceTo (since + 20 * 12000)).supplyGoes.startCoils).finish := by
  have live : s.live = true := by rw [State.live, station]; rfl
  have waits : s.reserveWait = some since := by rw [State.reserveWait, wait]
  simp only [exec, execReserveWaitTimeout, State.take, live, waits, if_true]
  rw [if_pos ⟨station, unready⟩]
  rfl

theorem reserve_wait {since : Nat} (station : s.sl.station = .checking) (wait : s.vd.check = .reserveWait since) (unready : s.vd.ready = false) :
    ∃ t, exec .reserveWaitTimeout s = .next t
      ∧ t.now = max s.now (since + 20 * 12000) ∧ t.vd.supply = .lost ∧ t.vd.ready = false ∧ t.vd.chargeSince = none
      ∧ t.bc.holds.supply = true ∧ (t.latch .supply).pending = true ∧ (∀ x, t.vd.check ≠ .reserveWait x)
      ∧ let marked := allBeds.filter fun b => s.vd.marks.get b
        (marked ≠ [] → t.vd.check = .coils marked t.now) ∧ (marked = [] → t.vd.check = .done) := by
  set v := s.advanceTo (since + 20 * 12000)
  have goes : Lost v v.supplyGoes := lost_supplyGoes v
  obtain ⟨now, supply, ready, charge, hold, pending, -⟩ := (goes.charges (charges_startCoils _)).finish
  have marks : v.supplyGoes.untested = allBeds.filter fun b => s.vd.marks.get b := by
    unfold State.untested
    rw [supplyGoes_vd]
    rfl
  have check := (inside_finish v.supplyGoes.startCoils).checkPhase
  have some' (some : (allBeds.filter fun b => s.vd.marks.get b) ≠ []) :
      v.supplyGoes.startCoils.finish.vd.check = .coils (allBeds.filter fun b => s.vd.marks.get b) v.now := by
    rw [check, startCoils_some (by rw [marks]; exact some), marks, goes.now]
  have none' (none : (allBeds.filter fun b => s.vd.marks.get b) = []) : v.supplyGoes.startCoils.finish.vd.check = .done := by
    rw [check, startCoils_none (by rw [marks]; exact none)]
    exact startUpClosure_poor (by rw [goes.supply]; nofun)
  refine ⟨_, wait_run station wait unready, now, supply, ready, charge, hold, pending, fun x => ?_, fun some => (some' some).trans (by rw [now]), none'⟩
  by_cases none : (allBeds.filter fun b => s.vd.marks.get b) = []
  · rw [none' none]
    nofun
  · rw [some' none]
    nofun

/-- Settles O8: each event of the supply and of the reserve. -/
theorem supplyStatesFollowTheManual : Obligations.SupplyStatesFollowTheManual :=
  ⟨fun _ live => ⟨fun absent => supply_good live absent, fun good => supply_loss live good, fun lost => supply_return live lost,
    fun _ good charge => reserve_ready live good charge⟩, fun _ _ station wait unready => reserve_wait station wait unready⟩

end Sys2Proof.CoilSupply

/-! PROOFS. CLEAR: the latches and the beds that return (R88, R176). -/

namespace Sys2Proof.Machine

variable {b d : BedId} {s t u v : State} {c e : Cause} {l : List BedId}

/-! ### The alert unit at the end of an event that leaves the book (R29, R174) -/

theorem weighOccasion_au (s : State) : s.weighOccasion.au = s.au := by
  unfold State.weighOccasion
  split
  · next active =>
    split
    · rw [EdgesAndOffers.offerBed_eq active.1]
      rfl
    · rfl
  · rfl

/-- The ALERTs are offered on the alert unit that the event itself leaves. -/
theorem finish_alerts (clean : s.sb.dirty = false) : ∃ u : State, u.au = s.au ∧ s.finish = u.offerAlerts := by
  refine ⟨s.settle, ?_, rfl⟩
  cases noted : s.bc.occasion with
  | false => rw [settle_settled s ⟨clean, noted⟩]
  | true => rw [settle_occasion s clean noted, weighOccasion_au]

theorem latch_disarm (e c : Cause) (s : State) : (s.disarm e).latch c = if c = e then { s.latch e with armed := false } else s.latch c := by
  simp [State.disarm, State.latch, Latches.get_set]

theorem latch_rearm (e c : Cause) (s : State) :
    (s.rearm e).latch c = if c = e then { s.latch e with pending := false, armed := true } else s.latch c := by
  simp [State.rearm, State.latch, Latches.get_set]

/-- A cause that is not pending is not touched, but for DISCARD. -/
theorem offerAlert_unpending (e : Cause) (ne : c ≠ .discard) (out : (s.latch c).pending = false) : (s.offerAlert e).latch c = s.latch c := by
  unfold State.offerAlert
  dsimp only
  split
  · next on =>
    rw [offer_latch _ ne, latch_disarm, if_neg]
    rintro rfl
    rw [out] at on
    cases on
  · rfl

theorem offerAlerts_unpending (ne : c ≠ .discard) (out : (s.latch c).pending = false) : s.offerAlerts.latch c = s.latch c := by
  unfold State.offerAlerts
  generalize Cause.all ++ [Cause.discard] = l
  induction l generalizing s with
  | nil => rfl
  | cons e l ih =>
    have first := offerAlert_unpending e ne out
    rw [List.foldl_cons, ih (by rw [first, out]), first]

theorem finish_unpending (clean : s.sb.dirty = false) (ne : c ≠ .discard) (out : (s.latch c).pending = false) :
    (s.finish.latch c) = s.latch c := by
  obtain ⟨u, au, ends⟩ := finish_alerts clean
  have same : u.latch c = s.latch c := by rw [State.latch, au]; rfl
  rw [ends, offerAlerts_unpending ne (by rw [same, out]), same]

/-- DISCARD, where it is pending, is of an ALERT. -/
def State.discardOfAlert (s : State) : Prop := (s.latch .discard).pending = true → (s.latch .discard).bed = 15 ∧ (s.latch .discard).value = 8

theorem discardOfAlert_offerAlert (e : Cause) (h : s.discardOfAlert) : (s.offerAlert e).discardOfAlert := by
  have disarmed : (s.disarm e).discardOfAlert := by
    unfold State.discardOfAlert
    rw [latch_disarm]
    split
    · next eq => rw [← eq]; exact h
    · exact h
  unfold State.offerAlert
  dsimp only
  split
  · unfold State.offer
    split
    · exact disarmed
    · split
      · intro _
        rw [State.latch_setPending_same]
        exact ⟨rfl, rfl⟩
      · exact disarmed
  · exact h

theorem finish_discard (clean : s.sb.dirty = false) (h : s.discardOfAlert) : s.finish.discardOfAlert := by
  obtain ⟨u, au, ends⟩ := finish_alerts clean
  have start : u.discardOfAlert := by unfold State.discardOfAlert State.latch; rw [au]; exact h
  rw [ends]
  unfold State.offerAlerts
  generalize Cause.all ++ [Cause.discard] = l
  clear ends au
  induction l generalizing u with
  | nil => exact start
  | cons e l ih => exact ih _ (discardOfAlert_offerAlert e start)

/-- With no pending cause armed, no ALERT is offered. -/
theorem finish_muted (clean : s.sb.dirty = false) (muted : ∀ c, (s.latch c).pending = true → (s.latch c).armed = false) (c : Cause) :
    s.finish.latch c = s.latch c := by
  obtain ⟨u, au, ends⟩ := finish_alerts clean
  have same (c : Cause) : u.latch c = s.latch c := by rw [State.latch, au]; rfl
  have silent (c : Cause) : u.offerAlert c = u := by
    unfold State.offerAlert
    dsimp only
    rw [same]
    refine if_neg fun on => ?_
    simp only [Bool.and_eq_true] at on
    rw [muted c on.1.1] at on
    cases on.1.2
  have none (l : List Cause) : l.foldl (fun s c => s.offerAlert c) u = u := by
    induction l with
    | nil => rfl
    | cons c l ih => rw [List.foldl_cons, silent c, ih]
  rw [ends, State.offerAlerts, none, same]

/-! ### An evaluation of a bed without a run (R89, R95) -/

/-- The probe is broken and the bed is not skipped: it faults anew (R88). -/
def State.anew (b : BedId) (s : State) : Prop := s.brokenProbe b = true ∧ (s.bed b).skip = false

theorem brokenProbe_congr (setup : t.sl = s.sl) (failed : (t.bed b).probeFailed = (s.bed b).probeFailed) : t.brokenProbe b = s.brokenProbe b := by
  unfold State.brokenProbe State.setupOf
  rw [setup, failed]

theorem Inside.brokenProbe (h : Inside s t) : t.brokenProbe b = s.brokenProbe b :=
  brokenProbe_congr h.sl (congrArg (fun x => x.2.2.2) (h.core b))

/-- Waiting for nothing: IDLE or WAITING, without a run. -/
def Bed.awaits (x : Bed) : Prop := (x.state = .idle ∨ x.state = .waiting) ∧ x.run = none

theorem setIdle_awaits (run : (s.bed b).run = none) : ((s.setIdle b).bed b).awaits := by
  unfold State.setIdle
  rw [run]
  rw [if_neg (by nofun), State.bed_modBed_same, Overdraw.bed_moveBed, if_pos rfl]
  exact ⟨.inl rfl, rfl⟩

theorem evaluate_awaits (fresh : Bool) (h : (s.bed b).awaits) (not : ¬ s.anew b) : ((s.evaluate b fresh).bed b).awaits := by
  obtain ⟨state, run⟩ := h
  unfold State.evaluate
  dsimp only
  split
  · exact ⟨state, run⟩
  · next on =>
    have sound : s.brokenProbe b = false := Bool.eq_false_of_not_eq_true fun broken => not ⟨broken, by
      rw [Bool.or_eq_true, not_or] at on
      exact Bool.eq_false_of_not_eq_true on.2⟩
    rcases state with e | e
    · rw [e]
      dsimp only
      rw [if_neg (ne_true_of_eq_false sound)]
      split
      · rw [State.bed_modBed_same, Overdraw.bed_setWaiting]
        exact ⟨.inr rfl, run⟩
      · exact ⟨.inl e, run⟩
    · rw [e]
      dsimp only
      split
      · exact setIdle_awaits run
      · split
        · exact setIdle_awaits run
        · split
          · refine ⟨by rw [takeUrgency_state]; exact .inr e, (judged_takeUrgency ..).run run⟩
          · refine ⟨by rw [takeUrgency_state, takeNeed_state]; exact .inr e, ((judged_takeNeed ..).trans (judged_takeUrgency ..)).run run⟩

/-- FAULTED for its probe. -/
def Bed.probeFaulted (x : Bed) : Prop := x.state = .faulted ∧ x.fault = some .probe

theorem evaluate_anew (fresh : Bool) (h : (s.bed b).state = .idle ∨ (s.bed b).probeFaulted) (anew : s.anew b) (open' : s.sl.station ≠ .barred) :
    ((s.evaluate b fresh).bed b).probeFaulted := by
  obtain ⟨broken, skip⟩ := anew
  unfold State.evaluate
  dsimp only
  rw [if_neg (by simp [open', skip])]
  rcases h with e | e
  · rw [e]
    dsimp only
    rw [if_pos broken, bed_setFaulted]
    exact ⟨rfl, rfl⟩
  · rw [e.1]
    exact e

theorem anew_congr (setup : t.sl = s.sl) (failed : (t.bed b).probeFailed = (s.bed b).probeFailed) (skip : (t.bed b).skip = (s.bed b).skip) :
    t.anew b ↔ s.anew b := by
  unfold State.anew
  rw [brokenProbe_congr setup failed, skip]

end Sys2Proof.Machine

/-! PROOFS. CLEAR: how a faulted bed returns (R88, R107). -/

namespace Sys2Proof.Machine

variable {b d : BedId} {s t u v : State} {c e : Cause} {l : List BedId} {x y : Bed}

/-! ### The fault of a bed that returns -/

/-- A fault, if there is one, is of the probe. -/
def Bed.soundButProbe (x : Bed) : Prop := x.fault = none ∨ x.fault = some .probe

theorem setFaulted_probe (s : State) : ((s.setFaulted b .probe).bed b).soundButProbe := by
  rw [bed_setFaulted]
  exact .inr rfl

theorem setIdle_fault (b : BedId) (s : State) : ((s.setIdle b).bed b).soundButProbe := by
  unfold State.setIdle
  split
  · exact setFaulted_probe s
  · rw [State.bed_modBed_same]
    exact .inl rfl

theorem setUrgency_fault (r : Urgency) (s : State) : ((s.setUrgency b r).bed b).fault = (s.bed b).fault := by rw [setUrgency_bed]

theorem takeUrgency_fault (r : Option (Nat × Urgency)) (s : State) : ((s.takeUrgency b r).bed b).fault = (s.bed b).fault := by
  unfold State.takeUrgency
  split
  · exact setUrgency_fault ..
  · split
    · exact setUrgency_fault ..
    · rfl

theorem takeNeed_fault (r : Option (Nat × Urgency)) (s : State) : ((s.takeNeed b r).bed b).fault = (s.bed b).fault := by
  unfold State.takeNeed
  split
  · split
    · rfl
    · rw [State.bed_modBed_same]
  · rfl

theorem evaluate_fault (fresh : Bool) (h : (s.bed b).soundButProbe) : ((s.evaluate b fresh).bed b).soundButProbe := by
  unfold State.evaluate
  dsimp only
  split
  · exact h
  · split
    · split
      · exact setFaulted_probe s
      · split
        · rw [State.bed_modBed_same, Overdraw.bed_setWaiting]
          exact h
        · exact h
    · split
      · exact setIdle_fault b s
      · split
        · exact setIdle_fault b s
        · unfold Bed.soundButProbe
          split
          · rwa [takeUrgency_fault]
          · rwa [takeUrgency_fault, takeNeed_fault]
    · unfold Bed.soundButProbe
      split
      · rwa [takeUrgency_fault]
      · rwa [takeUrgency_fault, takeNeed_fault]
    · exact h

/-! ### Pending targets of a bed without a run -/

/-- The thresholds alone change, or an evaluation under the new ones follows. -/
theorem bringTargets_evaluates (b : BedId) (s : State) : ∃ u : State, (∀ P : BedState → Option Run → Option BedFault → Prop,
      P (u.bed b).state (u.bed b).run (u.bed b).fault ↔ P (s.bed b).state (s.bed b).run (s.bed b).fault)
    ∧ (u.anew b ↔ s.anew b) ∧ u.sl = s.sl ∧ (s.bringTargets b = u ∨ s.bringTargets b = u.evaluate b false) := by
  unfold State.bringTargets
  split
  · exact ⟨s, fun _ => .rfl, .rfl, rfl, .inl rfl⟩
  · next start stop _ =>
    refine ⟨s.modBed b fun x => { x with start := start, stop := stop, targets := none }, fun P => ?_, anew_congr rfl ?_ ?_, rfl, ?_⟩
    · rw [State.bed_modBed_same]
    · rw [State.bed_modBed_same]
    · rw [State.bed_modBed_same]
    · dsimp only
      split
      · exact .inr rfl
      · exact .inl rfl

theorem bringTargets_fault (h : (s.bed b).soundButProbe) : ((s.bringTargets b).bed b).soundButProbe := by
  obtain ⟨u, same, -, -, e | e⟩ := bringTargets_evaluates b s <;> rw [e]
  · exact (same fun _ _ f => f = none ∨ f = some .probe).2 h
  · exact evaluate_fault false ((same fun _ _ f => f = none ∨ f = some .probe).2 h)

theorem bringTargets_awaits (h : (s.bed b).awaits) (not : ¬ s.anew b) : ((s.bringTargets b).bed b).awaits := by
  obtain ⟨u, same, anew, -, e | e⟩ := bringTargets_evaluates b s <;> rw [e]
  · exact (same fun x r _ => (x = .idle ∨ x = .waiting) ∧ r = none).2 h
  · exact evaluate_awaits false ((same fun x r _ => (x = .idle ∨ x = .waiting) ∧ r = none).2 h) (mt anew.1 not)

theorem bringTargets_anew (idle : (s.bed b).state = .idle) (h : s.anew b) (open' : s.sl.station ≠ .barred) :
    ((s.bringTargets b).bed b).state = .idle ∨ ((s.bringTargets b).bed b).probeFaulted := by
  obtain ⟨u, same, anew, sl, e | e⟩ := bringTargets_evaluates b s <;> rw [e]
  · exact .inl ((same fun x _ _ => x = .idle).2 idle)
  · exact .inr (evaluate_anew false (.inl ((same fun x _ _ => x = .idle).2 idle)) (anew.2 h) (by rwa [sl]))

/-! ### The return (R88) -/

theorem Inside.anew (h : Inside s t) (skip : (t.bed b).skip = (s.bed b).skip) : t.anew b ↔ s.anew b :=
  anew_congr h.sl (h.probeFailed b) skip

theorem Bed.brought_skip (x : Bed) : x.brought.skip = x.skip := by unfold Bed.brought; split <;> rfl

theorem anew_setIdle (b : BedId) (s : State) : (s.setIdle b).anew b ↔ s.anew b :=
  (inside_setIdle b s).anew (judged_setIdle s).skip

theorem anew_toIdle (b : BedId) (s : State) : (s.toIdle b).anew b ↔ s.anew b :=
  ((inside_bringTargets b _).anew ((judged_bringTargets _).skip.trans (Bed.brought_skip _))).trans (anew_setIdle b s)

theorem setIdle_idle (run : (s.bed b).run = none) : ((s.setIdle b).bed b).state = .idle := by
  unfold State.setIdle
  rw [run, if_neg (by nofun), State.bed_modBed_same, Overdraw.bed_moveBed, if_pos rfl]

/-- IDLE, and evaluated at once. -/
def State.backToIdle (b : BedId) (s : State) : State := (s.toIdle b).evaluate b false

theorem resting_backToIdle (b : BedId) (s : State) : Resting b s (s.backToIdle b) := (resting_toIdle ..).trans (resting_evaluate ..)

theorem backToIdle_fault (b : BedId) (s : State) : ((s.backToIdle b).bed b).soundButProbe :=
  evaluate_fault false (bringTargets_fault (setIdle_fault b s))

theorem backToIdle_awaits (run : (s.bed b).run = none) (not : ¬ s.anew b) : ((s.backToIdle b).bed b).awaits :=
  evaluate_awaits false (bringTargets_awaits (setIdle_awaits run) (mt (anew_setIdle b s).1 not)) (mt (anew_toIdle b s).1 not)

theorem backToIdle_anew (run : (s.bed b).run = none) (anew : s.anew b) (open' : s.sl.station ≠ .barred) :
    ((s.backToIdle b).bed b).probeFaulted := by
  have idle := bringTargets_anew (setIdle_idle run) ((anew_setIdle b s).2 anew) (by rwa [(inside_setIdle b s).sl])
  exact evaluate_anew false idle ((anew_toIdle b s).2 anew) (by rwa [(resting_toIdle b s).sl])

theorem returnBed_eq (b : BedId) (s : State) :
    s.returnBed b = if ((s.backToIdle b).bed b).state = .faulted then (s.backToIdle b).raiseFree b else s.backToIdle b := rfl

/-- A new PROBE fault writes the alert unit, with two of the free values. -/
theorem raiseFree_rest (b : BedId) (s : State) : ∃ a n, s.raiseFree b = { s with au := a, free := n } := by
  unfold State.raiseFree
  dsimp only
  rw [raise_same]
  exact ⟨_, _, rfl⟩

theorem raiseFree_pending (b : BedId) (s : State) : ((s.raiseFree b).latch .probe).pending = true := by
  unfold State.raiseFree
  dsimp only
  rw [raise_pending]

theorem raiseFree_armed (b : BedId) (s : State) : ((s.raiseFree b).latch .probe).armed = (s.latch .probe).armed := by
  unfold State.raiseFree
  dsimp only
  rw [raise_pending]
  rfl

theorem raiseFree_latch (b : BedId) (ne : c ≠ .probe) (s : State) : (s.raiseFree b).latch c = s.latch c := by
  unfold State.raiseFree
  dsimp only
  rw [raise_latch _ _ _ _ _ _ ne]
  rfl

theorem raiseFree_record {f : FaultInfo} (b : BedId) (h : s.au.record = some f) : (s.raiseFree b).au.record = some f :=
  (HoldJoins.raise_locked (s := { s with free := s.free + 2 }) _ _ _ _ _ _ _ h).1

theorem returnBed_bed (b d : BedId) (s : State) : (s.returnBed b).bed d = (s.backToIdle b).bed d := by
  rw [returnBed_eq]
  split
  · obtain ⟨a, n, e⟩ := raiseFree_rest b (s.backToIdle b)
    rw [e]
    rfl
  · rfl

end Sys2Proof.Machine

/-! PROOFS. CLEAR: what one cause and ALL make of the latches, the record and the beds (R176, R177). -/

namespace Sys2Proof.Machine

variable {b d : BedId} {s t u v : State} {c e : Cause} {l : List BedId} {x y : Bed}

/-! ### What CLEAR leaves -/

/-- What the conditions read and what no CLEAR writes. -/
structure Clears (s t : State) : Prop where
  now : t.now = s.now
  sl : t.sl = s.sl
  li : t.li = s.li
  tq : t.tq = s.tq
  sb : t.sb = s.sb
  vd : t.vd = s.vd
  pw : t.pw = s.pw
  holds : t.bc.holds = s.bc.holds
  drawing : t.fm.drawing = s.fm.drawing
  lastInterval : t.fm.lastInterval = s.fm.lastInterval

namespace Clears

theorem refl (s : State) : Clears s s := ⟨rfl, rfl, rfl, rfl, rfl, rfl, rfl, rfl, rfl, rfl⟩

theorem trans (h : Clears s t) (k : Clears t u) : Clears s u :=
  ⟨k.now.trans h.now, k.sl.trans h.sl, k.li.trans h.li, k.tq.trans h.tq, k.sb.trans h.sb, k.vd.trans h.vd, k.pw.trans h.pw,
    k.holds.trans h.holds, k.drawing.trans h.drawing, k.lastInterval.trans h.lastInterval⟩

theorem staleCondition (h : Clears s t) : t.staleCondition = s.staleCondition := by
  unfold State.staleCondition State.live
  rw [h.pw, h.now, h.sl]

theorem condition (h : Clears s t) (c : Cause) : t.condition c = s.condition c := by
  cases c <;> simp only [State.condition, h.drawing, h.vd, h.tq, h.holds, h.sb, h.staleCondition]

theorem conditionValue (h : Clears s t) (c : Cause) : t.conditionValue c = s.conditionValue c := by
  cases c <;> simp only [State.conditionValue, State.recordMinutes, h.lastInterval, h.sl, h.vd, h.tq, h.sb, h.pw, h.now]

end Clears

theorem clears_resting (h : Resting d s t) (out : (s.bed d).state ≠ .claiming) : Clears s t :=
  ⟨h.now, h.sl, h.li, h.tq, h.sb out, h.vd, h.pw, h.sameHolds, h.drawing, h.lastInterval⟩

theorem clears_alerts (a : AlertUnit) (n : Nat) (s : State) : Clears s { s with au := a, free := n } :=
  ⟨rfl, rfl, rfl, rfl, rfl, rfl, rfl, rfl, rfl, rfl⟩

/-! ### The beds of a cause -/

/-- A return, and what it does to the alert unit: a new PROBE, and a fault where none is recorded. -/
structure Returns (s t : State) : Prop extends Clears s t where
  latches : ∀ e, e ≠ .probe → t.latch e = s.latch e
  armed : (t.latch .probe).armed = (s.latch .probe).armed
  pending : (s.latch .probe).pending = true → (t.latch .probe).pending = true
  record : ∀ f, s.au.record = some f → t.au.record = some f

namespace Returns

theorem refl (s : State) : Returns s s := ⟨.refl s, fun _ _ => rfl, rfl, id, fun _ => id⟩

theorem trans (h : Returns s t) (k : Returns t u) : Returns s u :=
  ⟨h.toClears.trans k.toClears, fun e ne => (k.latches e ne).trans (h.latches e ne), k.armed.trans h.armed, k.pending ∘ h.pending,
    fun f => k.record f ∘ h.record f⟩

end Returns

theorem resting_latch (h : Resting d s t) (e : Cause) : t.latch e = s.latch e := by
  unfold State.latch
  rw [h.au]

theorem returns_returnBed (faulted : (s.bed b).state = .faulted) : Returns s (s.returnBed b) := by
  have rests := resting_backToIdle b s
  have back : Returns s (s.backToIdle b) :=
    ⟨clears_resting rests (by rw [faulted]; nofun), fun e _ => resting_latch rests e, by rw [resting_latch rests],
      fun h => by rwa [resting_latch rests], rests.record⟩
  rw [returnBed_eq]
  split
  · refine back.trans ⟨?_, fun e ne => raiseFree_latch b ne _, raiseFree_armed .., fun _ => raiseFree_pending .., fun f => raiseFree_record b⟩
    obtain ⟨a, n, same⟩ := raiseFree_rest b (s.backToIdle b)
    rw [same]
    exact clears_alerts ..
  · exact back

/-- FAULTED with a fault of this cause. -/
def Bed.faultedBy (c : Cause) (x : Bed) : Prop := x.state = .faulted ∧ x.fault.map BedFault.cause = some c

/-- One step of the pass over the beds of a cause. -/
def State.returnOne (c : Cause) (b : BedId) (s : State) : State :=
  if (s.bed b).state = .faulted ∧ (s.bed b).fault.map BedFault.cause = some c then s.returnBed b else s

theorem returnBeds_eq (c : Cause) (s : State) : s.returnBeds c = s.forBeds (State.returnOne c) := rfl

theorem returnOne_hit (hit : (s.bed b).faultedBy c) : s.returnOne c b = s.returnBed b := if_pos hit

theorem returnOne_other (not : ¬ (s.bed b).faultedBy c) : s.returnOne c b = s := if_neg not

theorem returns_returnOne (c : Cause) (b : BedId) (s : State) : Returns s (s.returnOne c b) := by
  by_cases hit : (s.bed b).faultedBy c
  · rw [returnOne_hit hit]
    exact returns_returnBed hit.1
  · rw [returnOne_other hit]
    exact .refl s

theorem returnOne_bed (c : Cause) (ne : d ≠ b) (s : State) : (s.returnOne c d).bed b = s.bed b := by
  unfold State.returnOne
  split
  · rw [returnBed_bed, (resting_backToIdle d s).others b ne.symm]
  · rfl

theorem aside_returnOne (c : Cause) (ne : d ≠ b) (s : State) : Aside b s (s.returnOne c d) :=
  have returns := returns_returnOne c d s
  ⟨by unfold State.setupOf; rw [returns.sl], returnOne_bed c ne s, by unfold State.valve; rw [returns.vd],
    fun h => by unfold State.queued; rwa [returns.vd], fun h => by unfold State.pulsing; rwa [returns.vd],
    by unfold State.channelOf; rw [returns.vd]⟩

/-- What the pass makes of one bed is what its own step makes. -/
theorem returnBeds_at (c : Cause) (b : BedId) (s : State) :
    ∃ x : State, Returns s x ∧ x.bed b = s.bed b ∧ (s.returnBeds c).bed b = (x.returnOne c b).bed b := by
  obtain ⟨x, before, here, -, after⟩ := forBeds_at Returns.refl (fun _ _ _ h k => h.trans k) (returns_returnOne c)
    (fun d ne s => aside_returnOne c ne s) s (b := b)
  exact ⟨x, before, here.bed, after.bed⟩

theorem returnBeds_other (not : ¬ (s.bed b).faultedBy c) : (s.returnBeds c).bed b = s.bed b := by
  obtain ⟨x, -, same, ends⟩ := returnBeds_at c b s
  rw [ends, returnOne_other (by rwa [same]), same]

theorem returnBeds_hit (hit : (s.bed b).faultedBy c) :
    ∃ x : State, Returns s x ∧ x.bed b = s.bed b ∧ (s.returnBeds c).bed b = (x.backToIdle b).bed b := by
  obtain ⟨x, before, same, ends⟩ := returnBeds_at c b s
  exact ⟨x, before, same, by rw [ends, returnOne_hit (by rwa [same]), returnBed_bed]⟩

theorem returns_returnBeds (c : Cause) (s : State) : Returns s (s.returnBeds c) :=
  foldl_keeps (f := fun s b => s.returnOne c b) .refl (fun _ _ _ h k => h.trans k) (fun s d => returns_returnOne c d s) allBeds s

theorem Returns.anew (h : Returns s t) (same : t.bed b = s.bed b) : t.anew b ↔ s.anew b :=
  anew_congr h.sl (by rw [same]) (by rw [same])

/-- Only PROBE, LEAK and NOFLOW are faults of a bed. -/
def Cause.ofBed (c : Cause) : Prop := c = .probe ∨ c = .leak ∨ c = .noflow

theorem Bed.faultedBy.ofBed (h : x.faultedBy c) : c.ofBed := by
  obtain ⟨f, -, rfl⟩ := Option.map_eq_some_iff.1 h.2
  cases f
  · exact .inl rfl
  · exact .inr (.inl rfl)
  · exact .inr (.inr rfl)

theorem returnBeds_none (no : ¬ c.ofBed) (s : State) : s.returnBeds c = s :=
  foldl_skips (f := fun s b => s.returnOne c b) fun d _ => returnOne_other fun hit => no hit.ofBed

/-- The bed's fault is of the probe only after the return (R88). -/
theorem returnBeds_fault (hit : (s.bed b).faultedBy c) : ((s.returnBeds c).bed b).soundButProbe := by
  obtain ⟨x, -, -, ends⟩ := returnBeds_hit hit
  rw [ends]
  exact backToIdle_fault b x

theorem returnBeds_awaits (hit : (s.bed b).faultedBy c) (run : (s.bed b).run = none) (not : ¬ s.anew b) :
    ((s.returnBeds c).bed b).awaits := by
  obtain ⟨x, before, same, ends⟩ := returnBeds_hit hit
  rw [ends]
  exact backToIdle_awaits (by rw [same, run]) (mt (before.anew same).1 not)

theorem returnBeds_anew (hit : (s.bed b).faultedBy c) (run : (s.bed b).run = none) (anew : s.anew b) (open' : s.sl.station ≠ .barred) :
    ((s.returnBeds c).bed b).probeFaulted := by
  obtain ⟨x, before, same, ends⟩ := returnBeds_hit hit
  rw [ends]
  exact backToIdle_anew (by rw [same, run]) ((before.anew same).2 anew) (by rwa [before.sl])

/-! ### PROBE after the pass -/

theorem awaits_not_faulted (h : x.awaits) : x.state ≠ .faulted := by
  rcases h.1 with e | e <;> rw [e] <;> nofun

/-- A bed faults anew, where its own fault is of the cause. -/
theorem returnOne_pending (c : Cause) (run : (s.bed b).state = .faulted → (s.bed b).run = none) (open' : s.sl.station ≠ .barred) :
    ((s.returnOne c b).latch .probe).pending = true ↔ (s.latch .probe).pending = true ∨ ((s.bed b).faultedBy c ∧ s.anew b) := by
  by_cases hit : (s.bed b).faultedBy c
  · have rests := resting_backToIdle b s
    rw [returnOne_hit hit, returnBed_eq]
    by_cases anew : s.anew b
    · rw [if_pos (backToIdle_anew (run hit.1) anew open').1]
      exact ⟨fun _ => .inr ⟨hit, anew⟩, fun _ => raiseFree_pending ..⟩
    · rw [if_neg (awaits_not_faulted (backToIdle_awaits (run hit.1) anew)), resting_latch rests]
      exact ⟨.inl, fun h => h.resolve_right fun k => anew k.2⟩
  · rw [returnOne_other hit]
    exact ⟨.inl, fun h => h.resolve_right fun k => hit k.1⟩

theorem foldl_pending (c : Cause) (once : l.Nodup) (run : ∀ b ∈ l, (s.bed b).state = .faulted → (s.bed b).run = none)
    (open' : s.sl.station ≠ .barred) :
    ((l.foldl (fun s b => s.returnOne c b) s).latch .probe).pending = true
      ↔ (s.latch .probe).pending = true ∨ ∃ b ∈ l, (s.bed b).faultedBy c ∧ s.anew b := by
  induction l generalizing s with
  | nil => simp
  | cons d l ih =>
    obtain ⟨out, once⟩ := List.nodup_cons.1 once
    have returns := returns_returnOne c d s
    have same (b : BedId) (m : b ∈ l) : (s.returnOne c d).bed b = s.bed b := returnOne_bed c (by rintro rfl; exact out m) s
    have rest : (∃ b ∈ l, ((s.returnOne c d).bed b).faultedBy c ∧ (s.returnOne c d).anew b) ↔ ∃ b ∈ l, (s.bed b).faultedBy c ∧ s.anew b :=
      exists_congr fun b => and_congr_right fun m => by rw [same b m, returns.anew (same b m)]
    rw [List.foldl_cons, ih once (fun b m => by rw [same b m]; exact run b (List.mem_cons_of_mem _ m)) (by rwa [returns.sl]),
      returnOne_pending c (run d List.mem_cons_self) open', rest, List.exists_mem_cons_iff, or_assoc]

theorem returnBeds_pending (c : Cause) (run : ∀ b, (s.bed b).state = .faulted → (s.bed b).run = none) (open' : s.sl.station ≠ .barred) :
    ((s.returnBeds c).latch .probe).pending = true ↔ (s.latch .probe).pending = true ∨ ∃ b, (s.bed b).faultedBy c ∧ s.anew b := by
  refine (foldl_pending c (l := allBeds) (by decide) (fun b _ => run b) open').trans (or_congr_right (exists_congr fun b => ?_))
  exact and_iff_right (mem_allBeds b)

/-! ### A CLEAR of one cause (R176) -/

theorem clears_rearm (c : Cause) (s : State) : Clears s (s.rearm c) := clears_alerts _ s.free s

theorem evaluateCause_rest (c : Cause) (s : State) : ∃ a, s.evaluateCause c = { s with au := a } := by
  unfold State.evaluateCause
  split
  · exact ⟨_, State.setPending_rest ..⟩
  · exact ⟨_, rfl⟩

theorem evaluateCause_latch (ne : e ≠ c) (s : State) : (s.evaluateCause c).latch e = s.latch e := by
  unfold State.evaluateCause
  split
  · rw [State.latch_setPending, if_neg ne]
  · rfl

theorem evaluateCause_record (c : Cause) (s : State) : (s.evaluateCause c).au.record = s.au.record := by
  unfold State.evaluateCause
  split
  · exact State.setPending_record ..
  · rfl

theorem evaluateCause_out (out : s.condition c = false) : s.evaluateCause c = s := if_neg (by rw [out]; nofun)

theorem clears_evaluateCause (c : Cause) (s : State) : Clears s (s.evaluateCause c) := by
  obtain ⟨a, e⟩ := evaluateCause_rest c s
  rw [e]
  exact clears_alerts a s.free s

theorem clearCause_eq (c : Cause) (s : State) : s.clearCause c = ((s.rearm c).returnBeds c).evaluateCause c := rfl

theorem clears_clearCause (c : Cause) (s : State) : Clears s (s.clearCause c) :=
  ((clears_rearm c s).trans (returns_returnBeds ..).toClears).trans (clears_evaluateCause ..)

theorem clearCause_beds (c : Cause) (b : BedId) (s : State) : (s.clearCause c).bed b = ((s.rearm c).returnBeds c).bed b := by
  rw [clearCause_eq]
  generalize (s.rearm c).returnBeds c = u
  obtain ⟨a, e⟩ := evaluateCause_rest c u
  rw [e]
  rfl

theorem clearCause_other (not : ¬ (s.bed b).faultedBy c) : (s.clearCause c).bed b = s.bed b := by
  rw [clearCause_beds, returnBeds_other (s := s.rearm c) not]
  rfl

theorem clearCause_fault (hit : (s.bed b).faultedBy c) : ((s.clearCause c).bed b).soundButProbe := by
  rw [clearCause_beds]
  exact returnBeds_fault (s := s.rearm c) hit

theorem clearCause_awaits (hit : (s.bed b).faultedBy c) (run : (s.bed b).run = none) (not : ¬ s.anew b) : ((s.clearCause c).bed b).awaits := by
  rw [clearCause_beds]
  exact returnBeds_awaits (s := s.rearm c) hit run not

theorem clearCause_anew (hit : (s.bed b).faultedBy c) (run : (s.bed b).run = none) (anew : s.anew b) (open' : s.sl.station ≠ .barred) :
    ((s.clearCause c).bed b).probeFaulted := by
  rw [clearCause_beds]
  exact returnBeds_anew (s := s.rearm c) hit run anew open'

theorem clearCause_record {f : FaultInfo} (c : Cause) (h : s.au.record = some f) : (s.clearCause c).au.record = some f := by
  rw [clearCause_eq, evaluateCause_record]
  exact (returns_returnBeds c (s.rearm c)).record f h

theorem clearCause_latch (ne : e ≠ c) (other : e ≠ .probe) (s : State) : (s.clearCause c).latch e = s.latch e := by
  rw [clearCause_eq, evaluateCause_latch ne, (returns_returnBeds ..).latches e other, latch_rearm, if_neg ne]

/-- Another cause than PROBE as its own CLEAR leaves it: evaluated, or armed again. -/
theorem clearCause_same (ne : c ≠ .probe) (s : State) : (s.clearCause c).latch c
    = if s.condition c then ⟨true, true, State.conditionBed c, word16 (s.conditionValue c)⟩ else { s.latch c with pending := false, armed := true } := by
  have clears : Clears s ((s.rearm c).returnBeds c) := (clears_rearm c s).trans (returns_returnBeds ..).toClears
  have armed : ((s.rearm c).returnBeds c).latch c = { s.latch c with pending := false, armed := true } := by
    rw [(returns_returnBeds ..).latches c ne, latch_rearm, if_pos rfl]
  rw [clearCause_eq, State.evaluateCause, clears.condition, clears.conditionValue]
  split
  · rw [State.latch_setPending_same, armed]
  · exact armed

/-- PROBE stays pending through a CLEAR of another cause. -/
theorem clearCause_probe (ne : c ≠ .probe) (h : (s.latch .probe).pending = true) : ((s.clearCause c).latch .probe).pending = true := by
  rw [clearCause_eq, evaluateCause_latch ne.symm]
  refine (returns_returnBeds c (s.rearm c)).pending ?_
  rwa [latch_rearm, if_neg ne.symm]

/-- A bed that faults anew brings PROBE about (R88). -/
theorem clearCause_pending (run : ∀ b, (s.bed b).state = .faulted → (s.bed b).run = none) (open' : s.sl.station ≠ .barred)
    (hit : (s.bed b).faultedBy c) (anew : s.anew b) : ((s.clearCause c).latch .probe).pending = true := by
  have pends : (((s.rearm c).returnBeds c).latch .probe).pending = true :=
    (returnBeds_pending (s := s.rearm c) c run open').2 (.inr ⟨b, hit, anew⟩)
  rw [clearCause_eq]
  exact (within_evaluateCause (k := false) c _).latched rfl .probe pends

end Sys2Proof.Machine

/-! PROOFS. CLEAR by number and by group, of one cause and of ALL (R88, R176, R177). -/

namespace Sys2Proof.ClearOrders

open Sys2Proof.Machine Sys2Proof.FramesAndOrders Sys2Proof.SkyAndClock

variable {b d : BedId} {s t u v : State} {c e : Cause} {l : List Cause} {x y : Bed}

/-! ### Several causes in turn (log 13) -/

/-- CLEAR of each of these causes. -/
def clearThose (l : List Cause) (s : State) : State := l.foldl (fun s c => s.clearCause c) s

theorem clearThose_cons (c : Cause) (l : List Cause) (s : State) : clearThose (c :: l) s = clearThose l (s.clearCause c) := rfl

theorem clearThose_append (l : List Cause) (c : Cause) (k : List Cause) (s : State) :
    clearThose (l ++ c :: k) s = clearThose k ((clearThose l s).clearCause c) := List.foldl_append

theorem clearAll_eq (s : State) : s.clearAll = (clearThose Cause.all s).emptyRecord := rfl

theorem clears_clearThose (l : List Cause) (s : State) : Clears s (clearThose l s) := by
  induction l generalizing s with
  | nil => exact .refl s
  | cons c l ih => exact (clears_clearCause c s).trans (ih _)

theorem clearThose_absent (absent : c ∉ l) (ne : c ≠ .probe) : (clearThose l s).latch c = s.latch c := by
  induction l generalizing s with
  | nil => rfl
  | cons e l ih =>
    obtain ⟨other, absent⟩ := not_or.1 (mt List.mem_cons.2 absent)
    rw [clearThose_cons, ih absent, clearCause_latch other ne]

/-- Each cause but PROBE is left as its own CLEAR leaves it. -/
theorem clearThose_latch (once : l.Nodup) (m : c ∈ l) (ne : c ≠ .probe) : (clearThose l s).latch c = (s.clearCause c).latch c := by
  induction l generalizing s with
  | nil => cases m
  | cons e l ih =>
    obtain ⟨out, once⟩ := List.nodup_cons.1 once
    rw [clearThose_cons]
    by_cases same : c = e
    · subst same
      exact clearThose_absent out ne
    · have clears := clears_clearCause e s
      rw [ih once ((List.mem_cons.1 m).resolve_left same), clearCause_same ne, clearCause_same ne, clears.condition, clears.conditionValue,
        clearCause_latch same ne]

theorem clearThose_probe (absent : .probe ∉ l) (h : (s.latch .probe).pending = true) : ((clearThose l s).latch .probe).pending = true := by
  induction l generalizing s with
  | nil => exact h
  | cons e l ih =>
    obtain ⟨other, absent⟩ := not_or.1 (mt List.mem_cons.2 absent)
    exact ih absent (clearCause_probe (Ne.symm other) h)

theorem clearThose_other (not : ∀ c ∈ l, ¬ (s.bed b).faultedBy c) : (clearThose l s).bed b = s.bed b := by
  induction l generalizing s with
  | nil => rfl
  | cons c l ih =>
    have first := clearCause_other (not c List.mem_cons_self)
    rw [clearThose_cons, ih fun e m => by rw [first]; exact not e (List.mem_cons_of_mem _ m), first]

/-! ### A faulted bed has no run -/

/-- A faulted bed holds no run record (R88). -/
def Runless (s : State) : Prop := ∀ b, (s.bed b).state = .faulted → (s.bed b).run = none

theorem backToIdle_run (b : BedId) (s : State) : ((s.backToIdle b).bed b).run = none :=
  (judged_evaluate false (s.toIdle b)).run (run_toIdle b s)

theorem runless_clearCause (c : Cause) (h : Runless s) : Runless (s.clearCause c) := by
  intro b
  by_cases hit : (s.bed b).faultedBy c
  · obtain ⟨x, -, -, ends⟩ := returnBeds_hit (s := s.rearm c) hit
    rw [clearCause_beds, ends]
    exact fun _ => backToIdle_run b x
  · rw [clearCause_other hit]
    exact h b

theorem runless_clearThose (l : List Cause) (h : Runless s) : Runless (clearThose l s) := by
  induction l generalizing s with
  | nil => exact h
  | cons c l ih => exact ih (runless_clearCause c h)

/-! ### A faulted bed under CLEAR ALL -/

/-- The causes before a bed's own, and those after it: PROBE is not among the later ones. -/
theorem causes_around (f : BedFault) : ∃ l k, Cause.all = l ++ f.cause :: k ∧ f.cause ∉ l ∧ Cause.probe ∉ k := by
  cases f
  · exact ⟨[.coil], [.leak, .noflow, .stuck, .supply, .line, .noanswer, .saturated, .setup, .discard, .stale], rfl, by decide, by decide⟩
  · exact ⟨[.coil, .probe], [.noflow, .stuck, .supply, .line, .noanswer, .saturated, .setup, .discard, .stale], rfl, by decide, by decide⟩
  · exact ⟨[.coil, .probe, .leak], [.stuck, .supply, .line, .noanswer, .saturated, .setup, .discard, .stale], rfl, by decide, by decide⟩

theorem clearAll_bed (run : Runless s) (open' : s.sl.station ≠ .barred) {f : BedFault} (faulted : (s.bed b).state = .faulted)
    (fault : (s.bed b).fault = some f) :
    (s.anew b → (s.clearAll.bed b).probeFaulted ∧ (s.clearAll.latch .probe).pending = true) ∧ (¬ s.anew b → (s.clearAll.bed b).awaits) := by
  obtain ⟨l, k, all, before, after⟩ := causes_around f
  have hit : (s.bed b).faultedBy f.cause := ⟨faulted, by rw [fault]; rfl⟩
  have first : (clearThose l s).bed b = s.bed b := clearThose_other fun c m h => before (by
    rwa [← Option.some.inj (h.2.symm.trans hit.2)])
  have clears := clears_clearThose l s
  have still : (clearThose l s).anew b ↔ s.anew b := anew_congr clears.sl (by rw [first]) (by rw [first])
  have run' := runless_clearThose l run
  rw [clearAll_eq, all, clearThose_append]
  generalize clearThose l s = x at first clears still run'
  have hit' : (x.bed b).faultedBy f.cause := by rwa [first]
  constructor
  · intro anew
    have probe := clearCause_anew hit' (run' b hit'.1) (still.2 anew) (by rwa [clears.sl])
    have rest : (clearThose k (x.clearCause f.cause)).bed b = (x.clearCause f.cause).bed b := clearThose_other fun c m h => after (by
      have own := h.2
      rw [probe.2] at own
      rwa [← Option.some.inj own] at m)
    refine ⟨?_, clearThose_probe after (clearCause_pending run' (by rwa [clears.sl]) hit' (still.2 anew))⟩
    change ((clearThose k (x.clearCause f.cause)).bed b).probeFaulted
    rwa [rest]
  · intro not
    have awaits := clearCause_awaits hit' (run' b hit'.1) (mt still.1 not)
    have rest : (clearThose k (x.clearCause f.cause)).bed b = (x.clearCause f.cause).bed b :=
      clearThose_other fun c _ h => awaits_not_faulted awaits h.1
    change ((clearThose k (x.clearCause f.cause)).bed b).awaits
    rwa [rest]

theorem clearAll_latch (ne : c ≠ .probe) (s : State) : s.clearAll.latch c = (s.clearCause c).latch c := by
  rw [← clearThose_latch (l := Cause.all) (by decide) (Cause.mem_all c) ne, clearAll_eq]
  generalize clearThose Cause.all s = x
  rfl

end Sys2Proof.ClearOrders

/-! PROOFS. CLEAR as an event (R88, R176, R177). -/

namespace Sys2Proof.ClearOrders

open Sys2Proof.Machine Sys2Proof.FramesAndOrders Sys2Proof.SkyAndClock

variable {b d : BedId} {s t u v : State} {c e : Cause} {src tgt sel n : Nat}

/-! ### The order and its end -/

/-- What the end of the event leaves of a CLEAR's work. -/
structure Ends (u t : State) : Prop where
  latches : ∀ c, c ≠ .discard → (t.latch c).pending = (u.latch c).pending ∧ (t.latch c).bed = (u.latch c).bed ∧ (t.latch c).value = (u.latch c).value
  unpending : ∀ c, c ≠ .discard → (u.latch c).pending = false → t.latch c = u.latch c
  discard : u.discardOfAlert → t.discardOfAlert
  muted : (∀ c, (u.latch c).pending = true → (u.latch c).armed = false) → ∀ c, t.latch c = u.latch c
  beds : ∀ b, MayClaim (u.bed b) (t.bed b)
  record : t.au.record = u.au.record
  more : t.au.more = u.au.more
  book : t.sb.book = u.sb.book
  now : t.now = u.now
  still : Settled u → t.bc = u.bc

theorem ends_finish (clean : u.sb.dirty = false) (tgt : Nat) : Ends u (u.answer tgt .ack).finish := by
  have clean' : (u.answer tgt .ack).sb.dirty = false := by rwa [answer_sb]
  have latch (c : Cause) : (u.answer tgt .ack).latch c = u.latch c := by rw [State.latch, answer_au]; rfl
  have bed (b : BedId) : (u.answer tgt .ack).bed b = u.bed b := by unfold State.bed; rw [answer_bc]
  have now : (u.answer tgt .ack).now = u.now := by rw [answer_rest]
  have off := offered_finish clean'
  refine ⟨fun c ne => ?_, fun c ne out => ?_, fun h => ?_, fun h c => ?_, fun b => ?_, ?_, ?_, ?_, ?_, fun h => ?_⟩
  · obtain ⟨v, au, ends⟩ := finish_alerts clean'
    have same : v.latch c = u.latch c := by rw [← latch, State.latch, au]; rfl
    rw [ends, ← same]
    exact (afterAlerts_offerAlerts v).2.2 c ne
  · rw [finish_unpending clean' ne (by rwa [latch]), latch]
  · exact finish_discard clean' (by unfold State.discardOfAlert; rwa [latch])
  · rw [finish_muted clean' (fun e => by rw [latch]; exact h e), latch]
  · rw [← bed]
    exact off.beds b
  · rw [off.sameRecord, answer_au]
  · rw [off.more, answer_au]
  · rw [off.book, answer_sb]
  · rw [off.now, now]
  · rw [(finish_settled _ (settled_answer tgt .ack h)).bc, answer_bc]

theorem clears_clearOrder (n : Nat) (s : State) : Clears s (s.clearOrder n) := by
  unfold State.clearOrder
  split
  · exact clears_clearCause ..
  · rw [clearAll_eq]
    exact (clears_clearThose ..).trans (clears_alerts _ (clearThose Cause.all s).free _)

/-- CLEAR with a cause in its range is carried out and answered. -/
theorem clear_taken (settled : Settled s) (hears : s.hearsOrder src) (passes : s.sl.station.passes .clear = true)
    (addressed : tgt = s.sl.own ∨ (tgt = 0 ∧ s.groupBeds sel ≠ none)) (range : n ≤ 12) :
    ∃ t, exec (.clear src tgt sel n) s = .next t ∧ (t.li.answer = if tgt = 0 then .none else .waiting .ack)
      ∧ Ends ((s.frameTaken src 3).clearOrder n) t := by
  have clears := clears_clearOrder n (s.frameTaken src 3)
  have setup : ((s.frameTaken src 3).clearOrder n).sl = s.sl := by rw [clears.sl, frameTaken_own]
  refine ⟨_, ?_, ?_, ends_finish (by rw [clears.sb]; exact (frameTaken_settled src 3 settled).1) tgt⟩
  · change Host.Outcome.next (s.order src tgt 3 (State.stationOrder tgt sel .clear (decide (n ≤ 12)) (State.clearOrder n))) = _
    rw [decide_eq_true range, order_station 3 hears (by rwa [frameTaken_own]) addressed (congrArg SetupLoader.own setup)]
  · rw [(inside_finish _).li, answer_line addressed (congrArg SetupLoader.own setup) hears.2.2.2, clears.li, frameTaken_answer]

theorem clearOrder_number (c : Cause) (s : State) : s.clearOrder c.number = s.clearCause c := by cases c <;> rfl

theorem clearOrder_all (s : State) : s.clearOrder 0 = s.clearAll := rfl

theorem number_le (c : Cause) : c.number ≤ 12 := by cases c <;> decide

/-! ### The latches -/

/-- An event cause has no condition (R175). -/
theorem condition_event (h : c = .coil ∨ c = .leak ∨ c = .noflow ∨ c = .noanswer ∨ c = .setup ∨ c = .discard ∨ c = .probe) (s : State) :
    s.condition c = false := by
  rcases h with rfl | rfl | rfl | rfl | rfl | rfl | rfl <;> rfl

/-- The STALE condition at the end of the order's frame. -/
def staleThen (s : State) : Prop :=
  match s.pw.weather with
  | some r => 30 * 720000 < s.frameEnd 3 - r.receipt
  | none => s.sl.loadingEnd + 30 * 720000 ≤ s.frameEnd 3

theorem stale_frame (src : Nat) (live : s.live = true) : (s.frameTaken src 3).staleCondition = true ↔ staleThen s := by
  unfold State.staleCondition staleThen
  rw [frameTaken_pw, frameTaken_now, frameTaken_own, State.live, frameTaken_own]
  cases s.pw.weather with
  | some r => exact decide_eq_true_iff
  | none => exact (Bool.and_eq_true ..).to_iff.trans ((and_iff_left live).trans decide_eq_true_iff)

/-- What each condition cause asks of the state before the order. -/
def PendingAgain (c : Cause) (s t : State) : Prop :=
  (c = .stuck → ((t.latch c).pending = true ↔ s.fm.drawing = true))
  ∧ (c = .supply → ((t.latch c).pending = true ↔ s.vd.supply = .lost))
  ∧ (c = .line → ((t.latch c).pending = true ↔ 8 ≤ s.tq.headRun ∨ s.bc.holds.line = true))
  ∧ (c = .saturated → ((t.latch c).pending = true ↔ s.sb.saturated = true))
  ∧ (c = .stale → ((t.latch c).pending = true ↔ staleThen s))

theorem pending_again (live : s.live = true) (h : (t.latch c).pending = (s.frameTaken src 3).condition c) : PendingAgain c s t := by
  unfold PendingAgain
  rw [h]
  refine ⟨?_, ?_, ?_, ?_, ?_⟩ <;> rintro rfl
  · rw [State.condition, frameTaken_fm]
  · rw [State.condition, frameTaken_vd, decide_eq_true_iff]
  · rw [State.condition, frameTaken_tq, frameTaken_bc, Bool.or_eq_true, decide_eq_true_iff]
  · rw [State.condition, frameTaken_rest]
  · exact stale_frame src live

theorem stale_value (src : Nat) (s : State) : (s.frameTaken src 3).conditionValue .stale = match s.pw.weather with
    | some r => ((s.frameTaken src 3).now - r.receipt) / 720000
    | none => 65535 := by
  change (s.frameTaken src 3).recordMinutes = _
  rw [State.recordMinutes, frameTaken_pw]
  rfl

/-- The latch that a CLEAR of one cause leaves, in its three parts. -/
theorem cleared_pending (ne : c ≠ .probe) (s : State) : ((s.clearCause c).latch c).pending = s.condition c := by
  rw [clearCause_same ne]
  split
  · next h => exact h.symm
  · next h => exact (Bool.eq_false_of_not_eq_true h).symm

theorem cleared_armed (ne : c ≠ .probe) (s : State) : ((s.clearCause c).latch c).armed = true := by
  rw [clearCause_same ne]
  split <;> rfl

theorem cleared_on (ne : c ≠ .probe) (on : s.condition c = true) :
    (s.clearCause c).latch c = ⟨true, true, State.conditionBed c, word16 (s.conditionValue c)⟩ := by
  rw [clearCause_same ne, if_pos on]

theorem ends_pending (ends : Ends (u.clearCause c) t) (one : c ≠ .probe) (ne : c ≠ .discard) : (t.latch c).pending = u.condition c := by
  rw [(ends.latches c ne).1, cleared_pending one]

theorem ends_armed (ends : Ends (u.clearCause c) t) (one : c ≠ .probe) (ne : c ≠ .discard) (out : (t.latch c).pending = false) :
    (t.latch c).armed = true := by
  rw [ends.unpending c ne (by rwa [← (ends.latches c ne).1]), cleared_armed one]

theorem ends_on (ends : Ends (u.clearCause c) t) (one : c ≠ .probe) (ne : c ≠ .discard) (on : (t.latch c).pending = true) :
    (t.latch c).bed = State.conditionBed c ∧ (t.latch c).value = word16 (u.conditionValue c) := by
  obtain ⟨-, bed, value⟩ := ends.latches c ne
  rw [bed, value, cleared_on one (by rwa [← ends_pending ends one ne])]
  exact ⟨rfl, rfl⟩

/-! ### A cause that is no fault of a bed -/

theorem clearCause_keeps (no : ¬ c.ofBed) (s : State) : (s.clearCause c).bc = s.bc := by
  obtain ⟨a, e⟩ := evaluateCause_rest c (s.rearm c)
  rw [clearCause_eq, returnBeds_none no, e]
  rfl

theorem settled_clearCause (no : ¬ c.ofBed) (h : Settled s) : Settled (s.clearCause c) :=
  ⟨by rw [(clears_clearCause c s).sb]; exact h.1, by rw [clearCause_keeps no]; exact h.2⟩

theorem clearCause_discard (s : State) : s.clearCause .discard = s.rearm .discard := by
  rw [clearCause_eq, returnBeds_none (by rintro (e | e | e) <;> cases e), evaluateCause_out rfl]

end Sys2Proof.ClearOrders

/-! PROOFS. CLEAR: the statement (R88, R176, R177). -/

namespace Sys2Proof.ClearOrders

open Sys2Proof.Machine Sys2Proof.FramesAndOrders Sys2Proof.SkyAndClock

variable {b d : BedId} {s t u v : State} {c e : Cause} {src tgt sel n : Nat}

/-! ### What each cause's CLEAR comes to -/

/-- The order's setting: heard, passed and addressed. -/
structure Cleared (src tgt sel : Nat) (s : State) : Prop where
  settled : Settled s
  hears : s.hearsOrder src
  passes : s.sl.station.passes .clear = true
  addressed : tgt = s.sl.own ∨ (tgt = 0 ∧ s.groupBeds sel ≠ none)

namespace Cleared

theorem live (h : Cleared src tgt sel s) : s.live = true := by
  refine decide_eq_true fun loading => ?_
  have passes := h.passes
  rw [loading] at passes
  cases passes

theorem unbarred (h : Cleared src tgt sel s) (src' : Nat) : (s.frameTaken src' 3).sl.station ≠ .barred := by
  intro barred
  have passes := h.passes
  rw [frameTaken_own] at barred
  rw [barred] at passes
  cases passes

theorem one (h : Cleared src tgt sel s) (c : Cause) : ∃ t, exec (.clear src tgt sel c.number) s = .next t
    ∧ (t.li.answer = if tgt = 0 then .none else .waiting .ack) ∧ Ends ((s.frameTaken src 3).clearCause c) t := by
  have taken := clear_taken h.settled h.hears h.passes h.addressed (number_le c)
  rwa [clearOrder_number] at taken

end Cleared

/-- A bed that the cause faulted is not faulted by it after its return. -/
theorem fault_cleared (ends : Ends ((s.frameTaken src 3).clearCause c) t) (ne : c ≠ .probe) (fault : (s.bed b).fault.map BedFault.cause = some c)
    (faulted : (s.bed b).state = .faulted) : (t.bed b).fault.map BedFault.cause ≠ some c := by
  have hit : ((s.frameTaken src 3).bed b).faultedBy c := by rw [frameTaken_bed]; exact ⟨faulted, fault⟩
  have kept : (t.bed b).fault = (((s.frameTaken src 3).clearCause c).bed b).fault := (ends.beds b).kept.2.2.2.2.2.2.2.2.2
  rw [kept]
  rcases clearCause_fault hit with e | e <;> rw [e]
  · nofun
  · exact fun own => ne (Option.some.inj own).symm

theorem record_kept (ends : Ends ((s.frameTaken src 3).clearCause c) t) {f : FaultInfo} (h : s.au.record = some f) : t.au.record = some f := by
  rw [ends.record]
  exact clearCause_record c (by rwa [frameTaken_au])

theorem event_cleared (h : Cleared src tgt sel s) (event : c = .coil ∨ c = .leak ∨ c = .noflow ∨ c = .noanswer ∨ c = .setup) :
    ∃ t, exec (.clear src tgt sel c.number) s = .next t ∧ (t.li.answer = if tgt = 0 then .none else .waiting .ack)
      ∧ (t.latch c).pending = false ∧ (t.latch c).armed = true
      ∧ (∀ b, (s.bed b).fault.map BedFault.cause = some c → (s.bed b).state = .faulted → (t.bed b).fault.map BedFault.cause ≠ some c)
      ∧ ∀ f, s.au.record = some f → t.au.record = some f := by
  have one : c ≠ .probe := by rintro rfl; simp at event
  have ne : c ≠ .discard := by rintro rfl; simp at event
  obtain ⟨t, run, answered, ends⟩ := h.one c
  have out : (t.latch c).pending = false := by
    rw [ends_pending ends one ne]
    exact condition_event (by tauto) _
  exact ⟨t, run, answered, out, ends_armed ends one ne out, fun b => fault_cleared ends one, fun f => record_kept ends⟩

theorem condition_cleared (h : Cleared src tgt sel s) (lasting : c = .stuck ∨ c = .supply ∨ c = .line ∨ c = .saturated ∨ c = .stale) :
    ∃ t, exec (.clear src tgt sel c.number) s = .next t ∧ (t.li.answer = if tgt = 0 then .none else .waiting .ack) ∧ PendingAgain c s t
      ∧ ((t.latch c).pending = false → (t.latch c).armed = true)
      ∧ ((t.latch c).pending = true → (t.latch c).bed = State.conditionBed c)
      ∧ ((t.latch c).pending = true → (t.latch c).value = word16 ((s.frameTaken src 3).conditionValue c))
      ∧ t.now = (s.frameTaken src 3).now ∧ t.bc.beds = s.bc.beds ∧ ∀ f, s.au.record = some f → t.au.record = some f := by
  have one : c ≠ .probe := by rintro rfl; simp at lasting
  have ne : c ≠ .discard := by rintro rfl; simp at lasting
  have no : ¬ c.ofBed := by
    rintro (rfl | rfl | rfl) <;> simp at lasting
  obtain ⟨t, run, answered, ends⟩ := h.one c
  refine ⟨t, run, answered, pending_again h.live (ends_pending ends one ne), ends_armed ends one ne, fun on => (ends_on ends one ne on).1,
    fun on => (ends_on ends one ne on).2, ?_, ?_, fun f => record_kept ends⟩
  · rw [ends.now, (clears_clearCause ..).now]
  · rw [ends.still (settled_clearCause no (frameTaken_settled src 3 h.settled)), clearCause_keeps no, frameTaken_bc]

theorem discard_cleared (h : Cleared src tgt sel s) : ∃ t, exec (.clear src tgt sel 11) s = .next t
    ∧ (t.li.answer = if tgt = 0 then .none else .waiting .ack)
    ∧ ((∀ c, c ≠ .discard → (s.latch c).pending = true → (s.latch c).armed = false) →
        (t.latch .discard).pending = false ∧ (t.latch .discard).armed = true)
    ∧ t.discardOfAlert ∧ t.bc.beds = s.bc.beds ∧ t.sb.book = s.sb.book ∧ t.au.record = s.au.record ∧ t.au.more = s.au.more := by
  obtain ⟨t, run, answered, ends⟩ := h.one .discard
  have no : ¬ Cause.ofBed .discard := by rintro (e | e | e) <;> cases e
  have still := settled_clearCause no (frameTaken_settled src 3 h.settled)
  have out : (((s.frameTaken src 3).clearCause .discard).latch .discard).pending = false := cleared_pending (by nofun) _
  refine ⟨t, run, answered, fun muted => ?_, ends.discard fun on => ?_, ?_, ?_, ?_, ?_⟩
  · have quiet (c : Cause) (on : (((s.frameTaken src 3).clearCause .discard).latch c).pending = true) :
        (((s.frameTaken src 3).clearCause .discard).latch c).armed = false := by
      by_cases e : c = .discard
      · subst e
        rw [out] at on
        cases on
      · have same : ((s.frameTaken src 3).clearCause .discard).latch c = s.latch c := by
          rw [clearCause_discard, latch_rearm, if_neg e, State.latch, frameTaken_au]
          rfl
        rw [same] at on ⊢
        exact muted c e on
    rw [ends.muted quiet]
    exact ⟨out, cleared_armed (by nofun) _⟩
  · rw [out] at on
    cases on
  · rw [ends.still still, clearCause_keeps no, frameTaken_bc]
  · rw [ends.book, (clears_clearCause ..).sb, frameTaken_book]
  · rw [ends.record, clearCause_discard]
    change (s.frameTaken src 3).au.record = s.au.record
    rw [frameTaken_au]
  · rw [ends.more, clearCause_discard]
    change (s.frameTaken src 3).au.more = s.au.more
    rw [frameTaken_au]

/-! ### PROBE and the beds of its cause -/

theorem anew_frame (src : Nat) (b : BedId) (s : State) : (s.frameTaken src 3).anew b ↔ s.anew b :=
  anew_congr (frameTaken_own ..) (by rw [frameTaken_bed]) (by rw [frameTaken_bed])

theorem runless_frame (src : Nat) (run : ∀ b, (s.bed b).state = .faulted → (s.bed b).run = none) : Runless (s.frameTaken src 3) := fun b => by
  rw [frameTaken_bed]
  exact run b

theorem faultedBy_probe {x : Bed} : x.faultedBy .probe ↔ x.state = .faulted ∧ x.fault = some .probe := by
  refine and_congr_right fun _ => ⟨fun h => ?_, fun h => by rw [h]; rfl⟩
  obtain ⟨f, fault, cause⟩ := Option.map_eq_some_iff.1 h
  cases f
  · exact fault
  · cases cause
  · cases cause

/-- A bed that faulted anew, or awaits, at the end of the event. -/
theorem faulted_end {x y : Bed} (may : MayClaim x y) (h : x.probeFaulted) : y.state = .faulted ∧ y.fault = some .probe := by
  rw [may.of_not_waiting (by rw [h.1]; nofun)]
  exact h

theorem awaits_end {x y : Bed} (may : MayClaim x y) (h : x.awaits) : y.state ≠ .faulted := by
  rcases may with rfl | ⟨_, rfl⟩
  · exact awaits_not_faulted h
  · nofun

theorem probe_cleared (h : Cleared src tgt sel s) (run : ∀ b, (s.bed b).state = .faulted → (s.bed b).run = none) :
    ∃ t, exec (.clear src tgt sel 2) s = .next t ∧ (t.li.answer = if tgt = 0 then .none else .waiting .ack)
      ∧ ((t.latch .probe).pending = true ↔ ∃ b, (s.bed b).state = .faulted ∧ (s.bed b).fault = some .probe ∧ s.anew b)
      ∧ ((t.latch .probe).pending = false → (t.latch .probe).armed = true)
      ∧ (∀ b, (s.bed b).state = .faulted → (s.bed b).fault = some .probe →
          (s.anew b → (t.bed b).state = .faulted ∧ (t.bed b).fault = some .probe) ∧ (¬ s.anew b → (t.bed b).state ≠ .faulted)) := by
  obtain ⟨t, event, answered, ends⟩ := h.one .probe
  have runless := runless_frame src run
  have hit (b : BedId) : ((s.frameTaken src 3).bed b).faultedBy .probe ∧ (s.frameTaken src 3).anew b
      ↔ (s.bed b).state = .faulted ∧ (s.bed b).fault = some .probe ∧ s.anew b := by
    rw [frameTaken_bed, faultedBy_probe, anew_frame, and_assoc]
  have pass := returnBeds_pending (s := (s.frameTaken src 3).rearm .probe) .probe runless (h.unbarred src)
  have armed : (((s.frameTaken src 3).clearCause .probe).latch .probe).armed = true := by
    rw [clearCause_eq, evaluateCause_out rfl, (returns_returnBeds ..).armed, latch_rearm, if_pos rfl]
  refine ⟨t, event, answered, ?_, fun out => ?_, fun b faulted fault => ⟨fun anew => ?_, fun not => ?_⟩⟩
  · rw [(ends.latches .probe (by nofun)).1, clearCause_eq, evaluateCause_out rfl, pass, latch_rearm, if_pos rfl]
    exact (or_iff_right (by nofun)).trans (exists_congr hit)
  · rw [ends.unpending .probe (by nofun) (by rwa [← (ends.latches .probe (by nofun)).1])]
    exact armed
  · obtain ⟨own, anew'⟩ := (hit b).2 ⟨faulted, fault, anew⟩
    exact faulted_end (ends.beds b) (clearCause_anew own (runless b own.1) anew' (h.unbarred src))
  · have own : ((s.frameTaken src 3).bed b).faultedBy .probe := by
      rw [frameTaken_bed]
      exact faultedBy_probe.2 ⟨faulted, fault⟩
    exact awaits_end (ends.beds b) (clearCause_awaits own (runless b own.1) (mt (anew_frame src b s).1 not))

/-! ### CLEAR ALL -/

theorem clearAll_record (s : State) : s.clearAll.au.record = none ∧ s.clearAll.au.more = false := by
  rw [clearAll_eq]
  generalize clearThose Cause.all s = x
  exact ⟨rfl, rfl⟩

theorem all_ends (h : Cleared src tgt sel s) : ∃ t, exec (.clear src tgt sel 0) s = .next t
    ∧ (t.li.answer = if tgt = 0 then .none else .waiting .ack) ∧ Ends ((s.frameTaken src 3).clearAll) t :=
  clear_taken h.settled h.hears h.passes h.addressed (Nat.zero_le 12)

theorem all_beds (h : Cleared src tgt sel s) (run : ∀ b, (s.bed b).state = .faulted → (s.bed b).run = none) :
    ∃ t, exec (.clear src tgt sel 0) s = .next t ∧ ∀ b f, (s.bed b).state = .faulted → (s.bed b).fault = some f →
      (s.anew b → (t.bed b).state = .faulted ∧ (t.bed b).fault = some .probe ∧ (t.latch .probe).pending = true)
        ∧ (¬ s.anew b → (t.bed b).state ≠ .faulted) := by
  obtain ⟨t, event, -, ends⟩ := all_ends h
  refine ⟨t, event, fun b f faulted fault => ?_⟩
  obtain ⟨probe, awaits⟩ := clearAll_bed (b := b) (f := f) (runless_frame src run) (h.unbarred src) (by rwa [frameTaken_bed]) (by rwa [frameTaken_bed])
  refine ⟨fun anew => ?_, fun not => awaits_end (ends.beds b) (awaits (mt (anew_frame src b s).1 not))⟩
  obtain ⟨faults, pends⟩ := probe ((anew_frame src b s).2 anew)
  obtain ⟨state, fault⟩ := faulted_end (ends.beds b) faults
  have kept := (ends.latches .probe (by nofun)).1
  exact ⟨state, fault, kept.trans pends⟩

theorem all_latches (ends : Ends ((s.frameTaken src 3).clearAll) t) (one : c ≠ .probe) (ne : c ≠ .discard) :
    (t.latch c).pending = (s.frameTaken src 3).condition c := by
  rw [(ends.latches c ne).1, clearAll_latch one, cleared_pending one]

theorem all_cleared (h : Cleared src tgt sel s) : ∃ t, exec (.clear src tgt sel 0) s = .next t
    ∧ (t.li.answer = if tgt = 0 then .none else .waiting .ack) ∧ t.au.record = none ∧ t.au.more = false
    ∧ (∀ c : Cause, c = .coil ∨ c = .leak ∨ c = .noflow ∨ c = .noanswer ∨ c = .setup → (t.latch c).pending = false)
    ∧ t.discardOfAlert ∧ ∀ c, PendingAgain c s t := by
  obtain ⟨t, event, answered, ends⟩ := all_ends h
  obtain ⟨record, more⟩ := clearAll_record (s.frameTaken src 3)
  refine ⟨t, event, answered, by rw [ends.record, record], by rw [ends.more, more], fun c kind => ?_, ends.discard fun on => ?_, fun c => ?_⟩
  · have one : c ≠ .probe := by rintro rfl; simp at kind
    have ne : c ≠ .discard := by rintro rfl; simp at kind
    rw [all_latches ends one ne]
    exact condition_event (by tauto) _
  · rw [clearAll_latch (by nofun), cleared_pending (by nofun)] at on
    cases on
  · have lasting (one : c ≠ .probe) (ne : c ≠ .discard) : PendingAgain c s t := pending_again h.live (all_latches ends one ne)
    by_cases one : c = .probe
    · subst one
      exact ⟨nofun, nofun, nofun, nofun, nofun⟩
    by_cases ne : c = .discard
    · subst ne
      exact ⟨nofun, nofun, nofun, nofun, nofun⟩
    exact lasting one ne

/-- Settles O30: the latches cause by cause, and the beds of each cause by their own returns. -/
theorem clearRearmsAndReturnsBeds : Obligations.ClearRearmsAndReturnsBeds := by
  unfold Obligations.ClearRearmsAndReturnsBeds
  intro src tgt sel s settled hears passes addressed
  have h : Cleared src tgt sel s := ⟨settled, hears, passes, addressed⟩
  intro answered stale pendingAgain
  refine ⟨fun c => event_cleared h, fun c lasting => ?_, discard_cleared h, fun run => ⟨probe_cleared h run, all_beds h run⟩, all_cleared h⟩
  obtain ⟨t, event, line, again, armed, bed, value, now, beds, record⟩ := condition_cleared h lasting
  refine ⟨t, event, line, again, armed, fun on => ?_, ?_, ?_, ?_, ?_, ?_, beds, record⟩
  · rw [bed on]
    rcases lasting with rfl | rfl | rfl | rfl | rfl <;> rfl
  · rintro rfl on
    rw [value on, State.conditionValue, frameTaken_fm, frameTaken_own]
  · rintro rfl on
    rw [value on, State.conditionValue, frameTaken_vd]
  · rintro rfl on
    rw [value on, State.conditionValue, frameTaken_tq]
  · rintro rfl on
    rw [value on, State.conditionValue, frameTaken_book]
  · rintro rfl on
    rw [value on, stale_value, now] <;> rfl

end Sys2Proof.ClearOrders

/-! PROOFS. SKIP: what it makes of one bed (R106, R120, R123). -/

namespace Sys2Proof.Machine

variable {b d : BedId} {s t u v w : State} {x y : Bed}

/-! ### The end of an event for a calm bed -/

/-- A calm bed that no claim can commit stays, but for an offer. -/
theorem finish_calm (spares : s.sb.claim.spares b) (calm : (s.bed b).state.calm) :
    MayClaim (s.bed b) (s.finish.bed b) ∧ s.finish.valve b = s.valve b := by
  obtain ⟨w, worked, ends⟩ := finish_work s
  have aside := worked.calm b spares calm
  rcases ends with alerts | alerts
  · exact ⟨.inl (by rw [alerts.bed, aside.bed]), by rw [alerts.valve, aside.valve]⟩
  · have offered := offered_weighOccasion w
    rw [alerts.bed, ← aside.bed]
    exact ⟨offered.beds b, by rw [alerts.valve, State.valve, offered.vd]; exact aside.valve⟩

theorem claimHeld_weighOccasion (h : ClaimHeld s) : ClaimHeld s.weighOccasion := by
  unfold State.weighOccasion
  split
  · next active =>
    split
    · rw [EdgesAndOffers.offerBed_eq active.1]
      intro _
      exact congrArg Bed.state ((Overdraw.bed_moveBed ..).trans (if_pos rfl))
    · exact h
  · exact h

/-- A claim that is dead before the end of an event, and lives after it, is of a bed in CLAIMING. -/
theorem claimHeld_finish (dead : s.sb.claim.live = false) : ClaimHeld s.finish := by
  obtain ⟨w, worked, ends⟩ := finish_work s
  have quiet : ClaimHeld w := fun live => by
    rw [worked.claim.live dead] at live
    cases live
  rcases ends with alerts | alerts
  · intro live
    rw [alerts.sb] at live ⊢
    rw [alerts.bed]
    exact quiet live
  · intro live
    rw [alerts.sb] at live ⊢
    rw [alerts.bed]
    exact claimHeld_weighOccasion quiet live

theorem ClaimHeld.spares (h : ClaimHeld s) (calm : (s.bed b).state ≠ .claiming) : s.sb.claim.spares b := by
  cases live : s.sb.claim.live with
  | false => exact .inr (.inl live)
  | true => exact .inl fun e => calm (by rw [← e]; exact h live)

/-! ### A skipped bed is passed over by evaluations (R106) -/

theorem evaluate_skipped (fresh : Bool) (skip : (s.bed b).skip = true) : s.evaluate b fresh = s := by
  unfold State.evaluate
  dsimp only
  rw [skip, Bool.or_true]
  rfl

theorem bringTargets_skipped (skip : (s.bed b).skip = true) :
    ∃ start stop targets, (s.bringTargets b).bed b = { s.bed b with start := start, stop := stop, targets := targets } := by
  unfold State.bringTargets
  split
  · exact ⟨_, _, _, rfl⟩
  · dsimp only
    rw [evaluate_skipped false (by rw [State.bed_modBed_same]; exact skip), ite_self, State.bed_modBed_same]
    exact ⟨_, _, _, rfl⟩

/-- IDLE and skipped: no need, no ordered mark, no run. -/
def Bed.stopped (x : Bed) : Prop := x.state = .idle ∧ x.need = 0 ∧ x.ordered = false ∧ x.run = none ∧ x.skip = true

theorem toIdle_stopped (skip : (s.bed b).skip = true) (sensing : s.brokenProbe b = false) : ((s.toIdle b).bed b).stopped := by
  have idle := bed_setIdle sensing
  obtain ⟨start, stop, targets, e⟩ := bringTargets_skipped (s := s.setIdle b) (b := b) (by rw [idle]; exact skip)
  rw [show s.toIdle b = (s.setIdle b).bringTargets b from rfl, e, idle]
  exact ⟨rfl, rfl, rfl, rfl, skip⟩

theorem toIdle_skip (b : BedId) (s : State) : ((s.toIdle b).bed b).skip = (s.bed b).skip :=
  (judged_bringTargets (s.setIdle b)).skip.trans ((Bed.brought_skip _).trans (judged_setIdle s).skip)

/-- IDLE, or FAULTED of a broken probe, whatever follows. -/
theorem bringTargets_calm (skip : (s.bed b).skip = true) (calm : (s.bed b).state.calm) : ((s.bringTargets b).bed b).state.calm := by
  obtain ⟨start, stop, targets, e⟩ := bringTargets_skipped skip
  rw [e]
  exact calm

theorem setIdle_calm (b : BedId) (s : State) : ((s.setIdle b).bed b).state.calm := (setIdle_rested b s).calm

theorem toIdle_calm (skip : (s.bed b).skip = true) : ((s.toIdle b).bed b).state.calm :=
  bringTargets_calm (by rw [(judged_setIdle s).skip, skip]) (setIdle_calm b s)

/-! ### SKIP by the bed's state -/

/-- The skip mark is set. -/
def State.markSkip (b : BedId) (s : State) : State := s.modBed b fun x => { x with skip := true }

theorem bed_markSkip (b : BedId) (s : State) : (s.markSkip b).bed b = { s.bed b with skip := true } := State.bed_modBed_same ..

theorem resting_markSkip (d : BedId) (s : State) : Resting d s (s.markSkip d) := resting_modBed _ s rfl le_rfl rfl

theorem brokenProbe_markSkip (b : BedId) (s : State) : (s.markSkip b).brokenProbe b = s.brokenProbe b :=
  (resting_markSkip b s).toInside.brokenProbe

theorem skipBed_eq (b : BedId) (s : State) : s.skipBed b = match (s.bed b).state with
    | .off | .faulted => s.markSkip b
    | .idle => (s.markSkip b).modBed b fun x => { x with need := 0, ordered := false }
    | .waiting | .soaking => (s.markSkip b).toIdle b
    | .claiming => (s.markSkip b).withdraw.toIdle b
    | .opening | .confirming | .running => ((s.markSkip b).modBed b fun x => { x with ordered := false }).endCycle b .skip
    | .closing => (s.markSkip b).modBed b fun x => { x with
        ordered := false
        run := x.run.map fun r => { r with need := r.delivered, keptOrder := none, endCause := skippedCause r.endCause } } := by
  have state : ((s.markSkip b).bed b).state = (s.bed b).state := by rw [bed_markSkip]
  unfold State.skipBed
  dsimp only
  rw [show (s.modBed b fun x => { x with skip := true }) = s.markSkip b from rfl, state] <;> rfl

theorem skipBed_resting (rests : (s.bed b).state = .off ∨ (s.bed b).state = .faulted) : s.skipBed b = s.markSkip b := by
  rw [skipBed_eq]
  rcases rests with e | e <;> rw [e]

theorem skipBed_idle (idle : (s.bed b).state = .idle) :
    s.skipBed b = (s.markSkip b).modBed b fun x => { x with need := 0, ordered := false } := by rw [skipBed_eq, idle]

theorem skipBed_waiting (waits : (s.bed b).state = .waiting ∨ (s.bed b).state = .soaking) : s.skipBed b = (s.markSkip b).toIdle b := by
  rw [skipBed_eq]
  rcases waits with e | e <;> rw [e]

theorem skipBed_claiming (claiming : (s.bed b).state = .claiming) : s.skipBed b = (s.markSkip b).withdraw.toIdle b := by rw [skipBed_eq, claiming]

theorem skipBed_closing (closing : (s.bed b).state = .closing) : s.skipBed b = (s.markSkip b).modBed b fun x => { x with
    ordered := false
    run := x.run.map fun r => { r with need := r.delivered, keptOrder := none, endCause := skippedCause r.endCause } } := by
  rw [skipBed_eq, closing]

/-- The marks of a SKIP in a cycle. -/
def State.unordered (b : BedId) (s : State) : State := (s.markSkip b).modBed b fun x => { x with ordered := false }

theorem skipBed_cycling (cycling : (s.bed b).state.cycling = true) : s.skipBed b = (s.unordered b).endCycle b .skip := by
  rw [skipBed_eq]
  cases e : (s.bed b).state <;> rw [e] at cycling <;> first | rfl | cases cycling

theorem bed_unordered (b : BedId) (s : State) : (s.unordered b).bed b = { s.bed b with skip := true, ordered := false } := by
  rw [State.unordered, State.bed_modBed_same, bed_markSkip]

theorem resting_unordered (d : BedId) (s : State) : Resting d s (s.unordered d) := (resting_markSkip d s).trans (resting_modBed _ _ rfl le_rfl rfl)

theorem BedState.skips (x : BedState) : (x = .off ∨ x = .faulted) ∨ x = .idle ∨ (x = .waiting ∨ x = .soaking) ∨ x = .claiming ∨ x.cycling = true
    ∨ x = .closing := by
  cases x <;> simp [BedState.cycling]

/-! ### What every case keeps -/

theorem aside_skipBed (ne : b ≠ d) (s : State) : Aside b s (s.skipBed d) := by
  have mark := aside_onlyBed (resting_markSkip d s).toOnlyBed ne
  rcases (s.bed d).state.skips with rests | idle | waits | claiming | cycling | closing
  · rw [skipBed_resting rests]
    exact mark
  · rw [skipBed_idle idle]
    exact mark.trans (aside_modBed ne _ _)
  · rw [skipBed_waiting waits]
    exact mark.trans (aside_toIdle ne _)
  · rw [skipBed_claiming claiming]
    exact (mark.trans (aside_withdraw b _)).trans (aside_toIdle ne _)
  · rw [skipBed_cycling cycling]
    exact (aside_onlyBed (resting_unordered d s).toOnlyBed ne).trans (aside_endCycle ne .skip _)
  · rw [skipBed_closing closing]
    exact mark.trans (aside_modBed ne _ _)

/-- No claim, or another bed's, and SKIP's own bed is out of a cycle. -/
theorem skipBed_calm (b : BedId) (s : State) : ((s.skipBed b).bed b).state.calm := by
  have marked : ((s.markSkip b).bed b).state = (s.bed b).state := by rw [bed_markSkip]
  rcases (s.bed b).state.skips with rests | idle | waits | claiming | cycling | closing
  · rw [skipBed_resting rests, marked]
    rcases rests with e | e <;> rw [e] <;> exact ⟨rfl, nofun⟩
  · rw [skipBed_idle idle, State.bed_modBed_same]
    change ((s.markSkip b).bed b).state.calm
    rw [marked, idle]
    exact ⟨rfl, nofun⟩
  · rw [skipBed_waiting waits]
    exact toIdle_calm (by rw [bed_markSkip])
  · rw [skipBed_claiming claiming]
    exact toIdle_calm (by rw [withdraw_bed, bed_markSkip])
  · rw [skipBed_cycling cycling]
    exact endCycle_rests b .skip _
  · rw [skipBed_closing closing, State.bed_modBed_same]
    change ((s.markSkip b).bed b).state.calm
    rw [marked, closing]
    exact ⟨rfl, nofun⟩

/-- Outside a cycle and CLAIMING, SKIP moves its bed alone. -/
theorem resting_skipBed (out : (s.bed b).state.cycling = false) (unclaimed : (s.bed b).state ≠ .claiming) : Resting b s (s.skipBed b) := by
  have mark := resting_markSkip b s
  rcases (s.bed b).state.skips with rests | idle | waits | claiming | cycling | closing
  · rw [skipBed_resting rests]
    exact mark
  · rw [skipBed_idle idle]
    exact mark.trans (resting_modBed _ _ rfl le_rfl rfl)
  · rw [skipBed_waiting waits]
    exact mark.trans (resting_toIdle b _)
  · exact absurd claiming unclaimed
  · rw [out] at cycling
    cases cycling
  · rw [skipBed_closing closing]
    exact mark.trans (resting_modBed _ _ rfl le_rfl rfl)

theorem skipBed_dead (claiming : (s.bed b).state = .claiming) : (s.skipBed b).sb.claim.live = false := by
  rw [skipBed_claiming claiming, toIdle_sb, withdraw_live]

theorem claimHeld_skipBed (b : BedId) (s : State) (h : ClaimHeld s) : ClaimHeld (s.skipBed b) := by
  by_cases claiming : (s.bed b).state = .claiming
  · intro live
    rw [skipBed_dead claiming] at live
    cases live
  have same : (s.skipBed b).sb.claim = s.sb.claim := by
    by_cases cycling : (s.bed b).state.cycling = true
    · have bed : ((s.unordered b).bed b).state = (s.bed b).state := by rw [bed_unordered]
      rw [skipBed_cycling cycling, (bedwise_endCycle b .skip _).claim (by rw [bed]; exact claiming)]
      rfl
    · rw [(resting_skipBed (Bool.eq_false_of_not_eq_true cycling) claiming).sb claiming]
  intro live
  rw [same] at live ⊢
  have held := h live
  rw [(aside_skipBed (fun e => claiming (by rw [← e]; exact held)) s).bed, held]

end Sys2Proof.Machine

/-! PROOFS. SKIP by number and by group (R106, R123, R180). -/

namespace Sys2Proof.SkipOrders

open Sys2Proof.Machine Sys2Proof.FramesAndOrders

variable {b d : BedId} {s t u v w : State} {x y z : Bed} {r : Run} {src sel : Nat} {l : List BedId}

/-! ### Outside a cycle (R106, R123) -/

/-- A closing run after a SKIP. -/
def skippedRun (r : Run) : Run :=
  { r with
    need := r.delivered, keptOrder := none
    endCause := if r.endCause = some .leak ∨ r.endCause = some .noflow then r.endCause else some .skip }

/-- A bed before and after a SKIP, by its state before. -/
structure Skipped (broken : Bool) (x y : Bed) : Prop where
  faulted : x.state = .faulted → y = { x with skip := true }
  idle : x.state = .idle → y = { x with skip := true, need := 0, ordered := false }
  waits : x.state = .waiting ∨ x.state = .soaking → broken = false → y.stopped
  closing : ∀ r, x.state = .closing → x.run = some r → y = { x with skip := true, ordered := false, run := some (skippedRun r) }

theorem skippedCause_eq (c : Option EndCause) : skippedCause c = if c = some .leak ∨ c = some .noflow then c else some .skip := by
  unfold skippedCause
  split
  · rfl
  · rfl
  · next leak dry => exact (if_neg (not_or.2 ⟨leak, dry⟩)).symm

theorem skipped_skipBed (b : BedId) (s : State) : Skipped (s.brokenProbe b) (s.bed b) ((s.skipBed b).bed b) where
  faulted h := by rw [skipBed_resting (.inr h), bed_markSkip]
  idle h := by rw [skipBed_idle h, State.bed_modBed_same, bed_markSkip]
  waits h sensing := by
    rw [skipBed_waiting h]
    exact toIdle_stopped (by rw [bed_markSkip]) (by rw [brokenProbe_markSkip, sensing])
  closing r h run := by
    rw [skipBed_closing h, State.bed_modBed_same, bed_markSkip]
    dsimp only
    rw [run, skippedRun, ← skippedCause_eq]
    rfl

/-- An offer changes nothing of it. -/
theorem Skipped.offered {broken : Bool} (h : Skipped broken x y) (may : MayClaim y z) : Skipped broken x z := by
  have same (away : y.state ≠ .waiting) : z = y := may.of_not_waiting away
  refine ⟨fun e => ?_, fun e => ?_, fun e sensing => ?_, fun r e run => ?_⟩
  · rw [same (by rw [h.faulted e]; exact fun k => nomatch e.symm.trans k), h.faulted e]
  · rw [same (by rw [h.idle e]; exact fun k => nomatch e.symm.trans k), h.idle e]
  · have stops := h.waits e sensing
    rw [same (by rw [stops.1]; nofun)]
    exact stops
  · rw [same (by rw [h.closing r e run]; exact fun k => nomatch e.symm.trans k), h.closing r e run]

theorem skipBed_skip (out : (s.bed b).state.cycling = false) : ((s.skipBed b).bed b).skip = true := by
  rcases (s.bed b).state.skips with rests | idle | waits | claiming | cycling | closing
  · rw [skipBed_resting rests, bed_markSkip]
  · rw [skipBed_idle idle, State.bed_modBed_same, bed_markSkip]
  · rw [skipBed_waiting waits, toIdle_skip, bed_markSkip]
  · rw [skipBed_claiming claiming, toIdle_skip, withdraw_bed, bed_markSkip]
  · rw [out] at cycling
    cases cycling
  · rw [skipBed_closing closing, State.bed_modBed_same, bed_markSkip]

theorem claiming_stopped (claiming : (s.bed b).state = .claiming) (sensing : s.brokenProbe b = false) : ((s.skipBed b).bed b).stopped := by
  rw [skipBed_claiming claiming]
  refine toIdle_stopped (by rw [withdraw_bed, bed_markSkip]) ?_
  rw [(worked_withdraw _).toInside.brokenProbe, brokenProbe_markSkip, sensing]

theorem stopped_offered (h : x.stopped) (may : MayClaim x y) : y.stopped := by
  rw [may.of_not_waiting (by rw [h.1]; nofun)]
  exact h

/-! ### In a cycle (R120, R130, R133, R134) -/

theorem shutsAtOnce_unordered (b : BedId) (s : State) : (s.unordered b).shutsAtOnce b ↔ s.shutsAtOnce b := Overdraw.shutsAtOnce_congr rfl rfl b

theorem run_unordered (run : (s.bed b).run = some r) : ((s.unordered b).bed b).run = some r := by rw [bed_unordered]; exact run

theorem ending_bed (run : (s.bed b).run = some r) : (Overdraw.ending b .skip (s.unordered b)).bed b
    = { s.bed b with state := .closing, backoffEnd := none, soakSince := none, skip := true, ordered := false,
                     run := some { r with endCause := some .skip, need := r.delivered } } := by
  rw [Overdraw.ending, State.bed_modBed_same, Overdraw.bed_moveBed, if_pos rfl, bed_unordered]
  dsimp only
  rw [run]
  rfl

/-- The cycle's end where its valve is still to close. -/
structure StillCloses (r : Run) (x y : Bed) (v w : ValveState) : Prop where
  state : y.state = .closing
  skip : y.skip = true
  ordered : y.ordered = false
  run : y.run = some { r with endCause := some .skip, need := r.delivered }
  valve : w = if v = .opened then .closing else v

theorem skipBed_unshut (cycling : (s.bed b).state.cycling = true) (run : (s.bed b).run = some r) (unshut : ¬ s.shutsAtOnce b) :
    StillCloses r (s.bed b) ((s.skipBed b).bed b) (s.valve b) ((s.skipBed b).valve b) ∧ (s.skipBed b).sb = s.sb := by
  obtain ⟨drive, valve⟩ := Overdraw.closeRequest_of_not_shutsAtOnce
    (mt (Overdraw.ending_shutsAtOnce b .skip (s.unordered b)).1 (mt (shutsAtOnce_unordered b s).1 unshut))
  rw [skipBed_cycling cycling, endCycle_other (by nofun), drive.bed, ending_bed run]
  exact ⟨⟨rfl, rfl, rfl, rfl, valve⟩, drive.sb⟩

theorem bedClosed_stopped (closing : (s.bed b).state = .closing) (run : (s.bed b).run = some r) (kept : r.keptOrder = none)
    (ended : r.endCause = some .skip) (skip : (s.bed b).skip = true) (sensing : s.brokenProbe b = false) : ((s.bedClosed b).bed b).stopped := by
  have free : (s.freeBed b).bed b = s.bed b := bed_freeBed b s
  obtain ⟨start, stop, targets, brought⟩ := bringTargets_skipped (s := s.freeBed b) (b := b) (by rw [free]; exact skip)
  have idles : s.bedClosed b = ((s.freeBed b).bringTargets b).toIdle b := by
    unfold State.bedClosed
    rw [if_pos closing]
    dsimp only
    rw [brought, free]
    dsimp only
    rw [run]
    dsimp only
    rw [ended, kept]
    rfl
  rw [idles]
  refine toIdle_stopped (by rw [brought, free]; exact skip) ?_
  rw [(inside_bringTargets b _).brokenProbe, brokenProbe_congr (bedwise_freeBed b s).sl (by rw [free]), sensing]

/-- The cycle's end where its valve is CLOSED at once: the bed is at rest, and free. -/
theorem skipBed_shut (cycling : (s.bed b).state.cycling = true) (run : (s.bed b).run = some r) (kept : r.keptOrder = none)
    (sensing : s.brokenProbe b = false) (shut : s.shutsAtOnce b) (admits : s.sl.station.admits (.free b.val) = true) :
    ((s.skipBed b).bed b).stopped ∧ (s.skipBed b).valve b = .closed ∧ (s.skipBed b).hasEntry s.sl.own b.val = false
      ∧ ∃ q ∈ (s.skipBed b).tq.queue, q.notice = .free b.val := by
  obtain ⟨v, drive, closed, ends⟩ := endCycle_shut (c := .skip) (by nofun) ((shutsAtOnce_unordered b s).2 shut)
  have bed : v.bed b = _ := (drive.bed b).trans (ending_bed run)
  have closing : (v.bed b).state = .closing := by rw [bed]
  have runs : (v.bed b).run = some { r with endCause := some .skip, need := r.delivered } := by rw [bed]
  have setup : v.sl = s.sl := drive.sl
  have rests := resting_bedClosed closing
  rw [skipBed_cycling cycling, ends]
  refine ⟨bedClosed_stopped closing runs kept rfl (by rw [bed]) ?_, ?_, ?_, ?_⟩
  · rw [brokenProbe_congr setup (by rw [bed]), sensing]
  · unfold State.valve
    rw [bedClosed_vd]
    exact closed
  · have gone := Overdraw.hasEntry_bedClosed closing
    rwa [setup] at gone
  · rw [rests.tq, (PulsesAndCloses.freeBed_leaves (by rw [setup, admits])).2]
    exact ⟨_, List.mem_append_right _ (List.mem_singleton_self _), rfl⟩

/-! ### By number -/

theorem passes_free (live : s.sl.station.passes .skip = true) (n : Nat) : s.sl.station.admits (.free n) = true := by
  cases e : s.sl.station <;> rw [e] at live <;> first | rfl | cases live

/-- The bed at the end of the event of its own SKIP. -/
theorem number_calm (held : ClaimHeld (s.skipBed b)) (tgt : Nat) :
    MayClaim ((s.skipBed b).bed b) (((s.skipBed b).answer tgt .ack).finish.bed b)
      ∧ ((s.skipBed b).answer tgt .ack).finish.valve b = (s.skipBed b).valve b := by
  have answered := PeerNotices.aside_answer tgt .ack (s.skipBed b) b
  have calm := skipBed_calm b s
  have spares := held.spares calm.2
  rw [← answered.bed] at calm ⊢
  rw [← answered.valve]
  exact finish_calm (by rw [answer_sb]; exact spares) calm

theorem number_clean (clean : (s.skipBed b).sb.dirty = false) (tgt : Nat) :
    MayClaim ((s.skipBed b).bed b) (((s.skipBed b).answer tgt .ack).finish.bed b)
      ∧ ((s.skipBed b).answer tgt .ack).finish.valve b = (s.skipBed b).valve b := by
  have answered := PeerNotices.aside_answer tgt .ack (s.skipBed b) b
  have offered := offered_finish (s := (s.skipBed b).answer tgt .ack) (by rwa [answer_sb])
  rw [← answered.bed, ← answered.valve]
  refine ⟨offered.beds b, ?_⟩
  unfold State.valve
  rw [offered.vd]

/-- The event of a SKIP by number. -/
def skipped (src : Nat) (b : BedId) (s : State) : State := (((s.frameTaken src 2).skipBed b).answer s.sl.own .ack).finish

theorem skip_number (hears : s.hearsOrder src) (passes : s.sl.station.passes .skip = true) (present : s.presentBed sel = some b)
    (on : (s.bed b).state ≠ .off) : exec (.skip src s.sl.own sel) s = .next (skipped src b s) := by
  rw [skipped, ← order_bed (act := State.skipBed) (takes := State.takesSkip) hears passes present]
  · rfl
  · rw [State.takesSkip, frameTaken_bed]
    exact decide_eq_true on

section Number

variable (b) (src) (settled : Settled s)
include settled

theorem outside_ends (out : (s.bed b).state.cycling = false) (unclaimed : (s.bed b).state ≠ .claiming) :
    MayClaim (((s.frameTaken src 2).skipBed b).bed b) ((skipped src b s).bed b) := by
  have rests := resting_skipBed (s := s.frameTaken src 2) (b := b) (by rwa [frameTaken_bed]) (by rwa [frameTaken_bed])
  exact (number_clean (by rw [rests.sb (by rwa [frameTaken_bed])]; exact (frameTaken_settled src 2 settled).1) s.sl.own).1

omit settled in
theorem claiming_ends (claiming : (s.bed b).state = .claiming) :
    MayClaim (((s.frameTaken src 2).skipBed b).bed b) ((skipped src b s).bed b) ∧ ClaimHeld (skipped src b s) := by
  have dead := skipBed_dead (s := s.frameTaken src 2) (b := b) (by rwa [frameTaken_bed])
  have held : ClaimHeld ((s.frameTaken src 2).skipBed b) := fun live => by
    rw [dead] at live
    cases live
  exact ⟨(number_calm held s.sl.own).1, claimHeld_finish (by rw [answer_sb, dead])⟩

theorem unshut_ends (cycling : (s.bed b).state.cycling = true) (run : (s.bed b).run = some r) (unshut : ¬ s.shutsAtOnce b) :
    StillCloses r (s.bed b) ((skipped src b s).bed b) (s.valve b) ((skipped src b s).valve b) := by
  have frame : (s.frameTaken src 2).shutsAtOnce b ↔ s.shutsAtOnce b := Overdraw.shutsAtOnce_congr (frameTaken_vd ..) (frameTaken_own ..) b
  obtain ⟨closes, sb⟩ := skipBed_unshut (s := s.frameTaken src 2) (by rwa [frameTaken_bed]) (by rwa [frameTaken_bed]) (mt frame.1 unshut)
  obtain ⟨may, valve⟩ := number_clean (by rw [sb]; exact (frameTaken_settled src 2 settled).1) s.sl.own
  have same := may.of_not_waiting (by rw [closes.state]; nofun)
  have before : (s.frameTaken src 2).valve b = s.valve b := by rw [State.valve, frameTaken_vd]; rfl
  rw [before, frameTaken_bed, ← same, ← valve] at closes
  exact closes

end Number

theorem shut_ends (cycling : (s.bed b).state.cycling = true) (run : (s.bed b).run = some r) (kept : r.keptOrder = none)
    (sensing : s.brokenProbe b = false) (shut : s.shutsAtOnce b) (passes : s.sl.station.passes .skip = true) (held : ClaimHeld s) :
    ((skipped src b s).bed b).stopped ∧ (skipped src b s).valve b = .closed ∧ (skipped src b s).hasEntry s.sl.own b.val = false
      ∧ ∃ q ∈ (skipped src b s).tq.queue, q.notice = .free b.val := by
  have frame : (s.frameTaken src 2).shutsAtOnce b ↔ s.shutsAtOnce b := Overdraw.shutsAtOnce_congr (frameTaken_vd ..) (frameTaken_own ..) b
  have sensing' : (s.frameTaken src 2).brokenProbe b = false := by rw [brokenProbe_congr (frameTaken_own ..) (by rw [frameTaken_bed]), sensing]
  obtain ⟨stops, closed, gone, q, m, free⟩ := skipBed_shut (s := s.frameTaken src 2) (by rwa [frameTaken_bed]) (by rwa [frameTaken_bed]) kept sensing'
    (frame.2 shut) (by rw [frameTaken_own]; exact passes_free passes _)
  have held' : ClaimHeld (s.frameTaken src 2) := fun live => by
    rw [frameTaken_claim] at live ⊢
    rw [frameTaken_bed]
    exact held live
  obtain ⟨may, valve⟩ := number_calm (claimHeld_skipBed b _ held') s.sl.own
  rw [frameTaken_own] at gone
  refine ⟨stopped_offered stops may, by rw [← closed]; exact valve, ?_, q, ?_, free⟩
  · refine Overdraw.hasEntry_of_inside (inside_finish _) ?_
    rw [State.hasEntry, answer_sb]
    exact gone
  · refine SkyAndClock.notices_finish ?_ (by rw [free]; rfl) (by rw [free]; rfl)
    rw [answer_rest]
    exact m

end Sys2Proof.SkipOrders

/-! PROOFS. SKIP: the statement (R106, R123, R180). -/

namespace Sys2Proof.SkipOrders

open Sys2Proof.Machine Sys2Proof.FramesAndOrders

variable {b d : BedId} {s t u v w : State} {x y z : Bed} {r : Run} {src sel : Nat} {l : List BedId}

/-! ### By group (R180) -/

/-- One bed of the group. -/
def skipOne (s : State) (d : BedId) : State := s.groupBed .skip State.takesSkip State.skipBed d

theorem inside_skipOne (s : State) (d : BedId) : Inside s (skipOne s d) := groupBed_keeps (fun _ => inside_noteRefusal ..) (inside_skipBed d s)

theorem aside_skipOne (ne : d ≠ b) (s : State) : Aside b s (skipOne s d) :=
  groupBed_keeps (R := Aside b) (fun _ => aside_same rfl rfl rfl) (aside_skipBed ne.symm s)

theorem claimHeld_skipOne (d : BedId) (h : ClaimHeld s) : ClaimHeld (skipOne s d) :=
  groupBed_keeps (R := fun _ u => ClaimHeld u) (s := s) (fun _ => h) (claimHeld_skipBed d s h)

theorem claimHeld_group (l : List BedId) (h : ClaimHeld s) : ClaimHeld (l.foldl skipOne s) := by
  induction l generalizing s with
  | nil => exact h
  | cons d l ih => exact ih (claimHeld_skipOne d h)

/-- The event of a SKIP by group. -/
def skippedGroup (src : Nat) (l : List BedId) (s : State) : State := (l.foldl skipOne (s.frameTaken src 2)).finish

theorem skip_group (hears : s.hearsOrder src) (passes : s.sl.station.passes .skip = true) (group : s.groupBeds sel = some l) :
    exec (.skip src 0 sel) s = .next (skippedGroup src l s) := congrArg Host.Outcome.next (order_beds hears passes group)

/-- The group as it reaches one of its beds. -/
theorem group_at (group : s.groupBeds sel = some l) (m : b ∈ l) : ∃ x : State, Inside (s.frameTaken src 2) x ∧ x.bed b = s.bed b
    ∧ (l.foldl skipOne (s.frameTaken src 2)).bed b = (skipOne x b).bed b := by
  obtain ⟨x, before, here, -, after⟩ := foldl_at Inside.refl (fun _ _ _ => Inside.trans) inside_skipOne (groupBeds_nodup group) m
    (fun d ne s => aside_skipOne ne s) (s.frameTaken src 2)
  exact ⟨x, before, by rw [here.bed, frameTaken_bed], after.bed⟩

theorem group_taken (group : s.groupBeds sel = some l) (m : b ∈ l) (present : (s.setupOf b).present = true) (on : (s.bed b).state ≠ .off) :
    ∃ x : State, x.bed b = s.bed b ∧ x.brokenProbe b = s.brokenProbe b
      ∧ (l.foldl skipOne (s.frameTaken src 2)).bed b = (x.skipBed b).bed b := by
  obtain ⟨x, before, same, after⟩ := group_at (src := src) group m
  have setup : x.sl = s.sl := before.sl.trans (frameTaken_own ..)
  refine ⟨x, same, brokenProbe_congr setup (by rw [same]), ?_⟩
  rw [after, skipOne, groupBed_taken (by rw [State.setupOf, setup]; exact present)]
  rw [State.takesSkip, same]
  exact decide_eq_true on

/-- A bed that is OFF is passed over. -/
theorem group_off (group : s.groupBeds sel = some l) (off : (s.bed b).state = .off) :
    (l.foldl skipOne (s.frameTaken src 2)).bed b = s.bed b := by
  by_cases m : b ∈ l
  · obtain ⟨x, before, same, after⟩ := group_at (src := src) group m
    have refused : (skipOne x b).bed b = x.bed b := by
      unfold skipOne State.groupBed
      have takes : x.takesSkip b = false := by rw [State.takesSkip, same, off]; rfl
      rw [takes]
      split <;> rfl
    rw [after, refused, same]
  · rw [(foldl_aside m (fun d ne s => aside_skipOne ne s) _).bed, frameTaken_bed]

theorem claimHeld_frame (src : Nat) (h : ClaimHeld s) : ClaimHeld (s.frameTaken src 2) := fun live => by
  rw [frameTaken_claim] at live ⊢
  rw [frameTaken_bed]
  exact h live

/-- A calm bed of the group at the end of the event. -/
theorem group_ends (held : ClaimHeld s) (l : List BedId) (calm : ((l.foldl skipOne (s.frameTaken src 2)).bed b).state.calm) :
    MayClaim ((l.foldl skipOne (s.frameTaken src 2)).bed b) ((skippedGroup src l s).bed b) :=
  (finish_calm ((claimHeld_group l (claimHeld_frame src held)).spares calm.2) calm).1

theorem inside_group (src : Nat) (l : List BedId) (s : State) : Inside (s.frameTaken src 2) (skippedGroup src l s) :=
  (foldl_keeps Inside.refl (fun _ _ _ => Inside.trans) inside_skipOne l _).trans (inside_finish _)

theorem core_group (src : Nat) (l : List BedId) (b : BedId) (s : State) : ((skippedGroup src l s).bed b).core = (s.bed b).core := by
  rw [(inside_group src l s).core b, frameTaken_bed]

/-! ### The statement -/

theorem inside_number (src : Nat) (b : BedId) (s : State) :
    (skipped src b s).li.answer = .waiting .ack ∧ (s.bed b).core = ((skipped src b s).bed b).core := by
  have skips := inside_skipBed b (s.frameTaken src 2)
  have ends := inside_finish (((s.frameTaken src 2).skipBed b).answer s.sl.own .ack)
  have same := (PeerNotices.aside_answer s.sl.own .ack ((s.frameTaken src 2).skipBed b) b).bed
  refine ⟨?_, ?_⟩
  · rw [skipped, ends.li, answer_answer .ack (by rw [skips.sl, frameTaken_own])]
  · rw [skipped, ends.core b, same, skips.core b, frameTaken_bed]

theorem Skipped.frame (src : Nat) {y : Bed} (h : Skipped ((s.frameTaken src 2).brokenProbe b) ((s.frameTaken src 2).bed b) y) :
    Skipped (s.brokenProbe b) (s.bed b) y := by
  rwa [brokenProbe_congr (frameTaken_own ..) (by rw [frameTaken_bed]), frameTaken_bed] at h

theorem outside_of {x : BedState} (h : x = .faulted ∨ x = .idle ∨ (x = .waiting ∨ x = .soaking) ∨ x = .closing) :
    x.cycling = false ∧ x ≠ .claiming := by
  rcases h with rfl | rfl | (rfl | rfl) | rfl <;> exact ⟨rfl, nofun⟩

theorem number_skipped (settled : Settled s) (src : Nat) (b : BedId) : Skipped (s.brokenProbe b) (s.bed b) ((skipped src b s).bed b) := by
  have skips := (skipped_skipBed b (s.frameTaken src 2)).frame src
  have ends (h : (s.bed b).state = .faulted ∨ (s.bed b).state = .idle ∨ ((s.bed b).state = .waiting ∨ (s.bed b).state = .soaking)
      ∨ (s.bed b).state = .closing) : Skipped (s.brokenProbe b) (s.bed b) ((skipped src b s).bed b) :=
    skips.offered (outside_ends b src settled (outside_of h).1 (outside_of h).2)
  exact ⟨fun e => (ends (.inl e)).faulted e, fun e => (ends (.inr (.inl e))).idle e, fun e => (ends (.inr (.inr (.inl e)))).waits e,
    fun r e => (ends (.inr (.inr (.inr e)))).closing r e⟩

theorem unshut_opened (opened : s.valve b = .opened) (kind : (s.setupOf b).kind = .latch) : ¬ s.shutsAtOnce b := by
  rintro (shut | ⟨held, -⟩ | ⟨-, opening, -⟩ | ⟨held, -⟩)
  · rw [opened] at shut
    cases shut
  · rw [kind] at held
    cases held
  · rw [opened] at opening
    cases opening
  · rw [kind] at held
    cases held

/-- Settles O27: by number from the bed's own state, by group bed by bed. -/
theorem skipStopsTheBedForTheDay : Obligations.SkipStopsTheBedForTheDay := by
  intro src sel s settled hears passes skipped'
  have of_skipped {b : BedId} {t : State} (h : Skipped (s.brokenProbe b) (s.bed b) (t.bed b)) : skipped' b t :=
    ⟨h.faulted, h.idle, h.waits, h.closing⟩
  refine ⟨fun b present on => ?_, fun l group sound => ?_⟩
  · obtain ⟨answered, core⟩ := inside_number src b s
    have frame : ((s.frameTaken src 2).bed b).state = (s.bed b).state := by rw [frameTaken_bed]
    refine ⟨skipped src b s, skip_number hears passes present on, answered, core, fun out => ?_, of_skipped (number_skipped settled src b),
      fun claiming sensing sound => ?_, fun r cycling run opened kind => ?_, fun r cycling run kept sensing sound => ?_⟩
    · have skip := skipBed_skip (s := s.frameTaken src 2) (b := b) (by rw [frame, out])
      by_cases claiming : (s.bed b).state = .claiming
      · rw [(claiming_ends b src claiming).1.kept.2.2.2.2.1, skip]
      · rw [(outside_ends b src settled out claiming).kept.2.2.2.2.1, skip]
    · obtain ⟨may, held⟩ := claiming_ends b src claiming
      have sensing' : (s.frameTaken src 2).brokenProbe b = false := by
        rw [brokenProbe_congr (frameTaken_own ..) (by rw [frameTaken_bed]), sensing]
      obtain ⟨idle, need, ordered, run, -⟩ := stopped_offered (claiming_stopped (by rw [frame, claiming]) sensing') may
      refine ⟨idle, need, ordered, run, fun _ live own => ?_⟩
      have claims := held live
      rw [own, idle] at claims
      cases claims
    · have closes := unshut_ends b src settled cycling run (unshut_opened opened kind)
      exact ⟨closes.state, closes.skip, closes.ordered, by rw [closes.valve, if_pos opened], closes.run⟩
    · intro shut
      refine ⟨fun shuts => ?_, fun unshut => ?_⟩
      · obtain ⟨⟨idle, need, ordered, none, skip⟩, closed, gone, free⟩ := shut_ends (src := src) cycling run kept sensing shuts passes sound.holds
        exact ⟨idle, skip, need, ordered, none, closed, gone, free⟩
      · have closes := unshut_ends b src settled cycling run unshut
        exact ⟨closes.state, closes.skip, closes.ordered, closes.run, closes.valve⟩
  · refine ⟨skippedGroup src l s, skip_group hears passes group, by rw [(inside_group src l s).li, frameTaken_answer], fun b m present on => ?_,
      fun b off => ?_⟩
    · obtain ⟨x, same, sensing, reached⟩ := group_taken (src := src) group m present on
      have calm := skipBed_calm b x
      rw [← reached] at calm
      have may := group_ends sound.holds l calm
      have skips := skipped_skipBed b x
      rw [same, sensing, ← reached] at skips
      refine ⟨of_skipped (skips.offered may), core_group src l b s, ?_, fun claiming sensing' => ?_⟩
      · rcases may with e | ⟨-, e⟩ <;> rw [e]
        · exact calm.1
        · rfl
      · have stops := claiming_stopped (s := x) (b := b) (by rw [same, claiming]) (by rw [sensing, sensing'])
        rw [← reached] at stops
        obtain ⟨idle, need, ordered, run, -⟩ := stopped_offered stops may
        exact ⟨idle, need, ordered, run⟩
    · have passed := group_off (src := src) group off
      have may := group_ends (src := src) (b := b) sound.holds l (by rw [passed, off]; exact ⟨rfl, nofun⟩)
      rw [passed] at may
      exact may.of_not_waiting (by rw [off]; nofun)

end Sys2Proof.SkipOrders

/-! PROOFS. What the book's steps make of a bed in CLAIMING and of its claim (R40, R58, R69 to R71). -/

namespace Sys2Proof.Machine

variable {b d : BedId} {s t u v w : State} {x y z : Bed} {r : Run} {c : EndCause}

/-! ### A bed at the start of a run -/

/-- The causes after which a bed waits (R124). -/
def EndCause.waits (c : EndCause) : Prop := c = .hold ∨ c = .line ∨ c = .overdraw ∨ c = .shed ∨ c = .supply

theorem afterCause_waits (h : c.waits) (soak : Nat) : afterCause (some c) soak = .wait (30 * 12000) := by
  rcases h with rfl | rfl | rfl | rfl | rfl <;> rfl

/-- A run that keeps no order and is within its limits (R125). -/
def Run.fresh (clock : Nat) (r : Run) : Prop := r.keptOrder = none ∧ r.cycle < 12 ∧ clock - r.startMinute < 1440

/-- A bed without a run that claims or waits, or in the first cycle of the run that its claim has begun. -/
structure Simple (b : BedId) (s : State) : Prop where
  targets : (s.bed b).targets = none
  unbarred : s.sl.station ≠ .barred
  stage : ((s.bed b).run = none ∧ ((s.bed b).state = .claiming ∨ (s.bed b).state = .waiting))
    ∨ (s.sb.claim.phase = .ending ∧ ∃ r, (s.bed b).run = some r ∧ r.fresh s.runClock
      ∧ ((s.bed b).state.cycling = true ∨ ((s.bed b).state = .closing ∧ ∃ c, r.endCause = some c ∧ c.waits) ∨ (s.bed b).state = .waiting))

/-- Need, ordered mark, skip mark and urgency are as before. -/
structure SameMarks (x y : Bed) : Prop where
  need : y.need = x.need
  ordered : y.ordered = x.ordered
  skip : y.skip = x.skip
  urgency : y.urgency = x.urgency

theorem SameMarks.refl (x : Bed) : SameMarks x x := ⟨rfl, rfl, rfl, rfl⟩

theorem SameMarks.trans (h : SameMarks x y) (k : SameMarks y z) : SameMarks x z :=
  ⟨k.need.trans h.need, k.ordered.trans h.ordered, k.skip.trans h.skip, k.urgency.trans h.urgency⟩

theorem SameMarks.of_may (h : MayClaim x y) : SameMarks x y := by
  rcases h with rfl | ⟨-, rfl⟩ <;> exact ⟨rfl, rfl, rfl, rfl⟩

/-- Such a bed stays such a bed, with its marks. -/
structure Marks (b : BedId) (s t : State) : Prop where
  keep : Simple b s → Simple b t ∧ SameMarks (s.bed b) (t.bed b)

theorem Marks.refl (b : BedId) (s : State) : Marks b s s := ⟨fun h => ⟨h, .refl _⟩⟩

theorem Marks.trans (h : Marks b s t) (k : Marks b t u) : Marks b s u where
  keep simple := by
    obtain ⟨mid, first⟩ := h.keep simple
    obtain ⟨last, second⟩ := k.keep mid
    exact ⟨last, first.trans second⟩

theorem Inside.runClock (h : Inside s t) : t.runClock = s.runClock := by
  unfold State.runClock
  rw [h.now, h.sl]

theorem marks_aside (inside : Inside s t) (bed : t.bed b = s.bed b) (ended : s.sb.claim.phase = .ending → t.sb.claim.phase = .ending) :
    Marks b s t := by
  refine ⟨fun h => ?_⟩
  refine ⟨⟨by rw [bed, h.targets], by rw [inside.sl]; exact h.unbarred, ?_⟩, by rw [bed]; exact .refl _⟩
  rw [bed, inside.runClock]
  exact h.stage.imp id (And.imp_left ended)

/-! ### A wait, and a cut that leads to one -/

theorem setWaiting_marks (n : Nat) (b : BedId) (s : State) : SameMarks (s.bed b) ((s.setWaiting b n).bed b) := by
  rw [Overdraw.bed_setWaiting]
  exact ⟨rfl, rfl, rfl, rfl⟩

/-- WAITING without a run. -/
theorem marks_toWaiting (n : Nat) (run : (s.bed b).run = none) : Marks b s (s.toWaiting b n) := by
  refine ⟨fun h => ?_⟩
  have rests := resting_toWaiting b n s
  have waits : (s.toWaiting b n).bed b = (s.setWaiting b n).bed b := by rw [toWaiting_eq n h.targets]
  refine ⟨⟨?_, by rw [rests.sl]; exact h.unbarred, .inl ⟨?_, .inr ?_⟩⟩, by rw [waits]; exact setWaiting_marks n b s⟩
  · rw [waits, Overdraw.bed_setWaiting]
    exact h.targets
  · rw [waits, Overdraw.bed_setWaiting]
    exact run
  · rw [waits, Overdraw.bed_setWaiting]

/-- A bed CLOSED after such a cut waits with its run. -/
theorem bedClosed_waits (closing : (s.bed b).state = .closing) (run : (s.bed b).run = some r) (fresh : r.fresh s.runClock)
    (ended : r.endCause = some c) (waits : c.waits) (targets : (s.bed b).targets = none) (station : s.sl.station ≠ .barred) :
    (s.bedClosed b).bed b = ((s.freeBed b).setWaiting b (30 * 12000)).bed b := by
  obtain ⟨kept, cycle, young⟩ := fresh
  have free := bedwise_freeBed b s
  have limited := limited_within (s := s.freeBed b) cycle (by rw [free.toInside.runClock]; exact young) (by rw [free.sl]; exact station)
    (afterCause (some c) (s.setupOf b).soak)
  rw [bedClosed_eq closing run kept targets, ended, limited, afterCause_waits waits]
  have enters : (s.freeBed b).toWaiting b (30 * 12000) = (s.freeBed b).setWaiting b (30 * 12000) := toWaiting_eq _ (by rw [bed_freeBed, targets])
  exact congrArg (State.bed · b) enters

theorem ending_cut (ne : c ≠ .skip ∧ c ≠ .barred) (run : (s.bed b).run = some r) : (Overdraw.ending b c s).bed b
    = { s.bed b with state := .closing, backoffEnd := none, soakSince := none, run := some { r with endCause := some c } } := by
  rw [Overdraw.ending, State.bed_modBed_same, Overdraw.bed_moveBed, if_pos rfl]
  dsimp only
  simp only [run, Option.map_some, if_neg (not_or.2 ne)]

theorem EndCause.waits.plain (h : c.waits) : c ≠ .skip ∧ c ≠ .barred := by
  rcases h with rfl | rfl | rfl | rfl | rfl <;> exact ⟨nofun, nofun⟩

theorem marks_endCycle (waits : c.waits) (ne : c ≠ .supply) (cycling : (s.bed b).state.cycling = true) : Marks b s (s.endCycle b c) := by
  refine ⟨fun h => ?_⟩
  have op := bedwise_endCycle b c s
  have claim : (s.endCycle b c).sb.claim = s.sb.claim := op.claim (ne_claiming_of_cycling cycling)
  obtain ⟨-, idle⟩ | ⟨ended, r, run, fresh, -⟩ := h.stage
  · rcases idle with e | e <;> rw [e] at cycling <;> cases cycling
  have closes := ending_cut waits.plain run
  by_cases shuts : s.shutsAtOnce b
  · obtain ⟨v, drive, -, ends⟩ := endCycle_shut ne shuts
    have bed := (drive.bed b).trans closes
    have clock : v.runClock = s.runClock := by unfold State.runClock; rw [drive.now, drive.sl]; rfl
    have reached := bedClosed_waits (s := v) (r := { r with endCause := some c }) (c := c) (by rw [bed]) (by rw [bed]) (by rw [clock]; exact fresh) rfl waits (by rw [bed]; exact h.targets)
      (by rw [drive.sl]; exact h.unbarred)
    rw [Overdraw.bed_setWaiting, bed_freeBed, bed] at reached
    rw [← ends] at reached
    refine ⟨⟨by rw [reached]; exact h.targets, by rw [op.sl]; exact h.unbarred, .inr ⟨by rw [claim, ended], { r with endCause := some c }, by rw [reached], ?_, ?_⟩⟩, ?_⟩
    · rw [op.toInside.runClock]
      exact fresh
    · exact .inr (.inr (by rw [reached]))
    · rw [reached]
      exact ⟨rfl, rfl, rfl, rfl⟩
  · obtain ⟨drive, -⟩ := Overdraw.closeRequest_of_not_shutsAtOnce (mt (Overdraw.ending_shutsAtOnce b c s).1 shuts)
    have reached : (s.endCycle b c).bed b = _ := (by rw [endCycle_other ne]; exact drive.bed b : _ = _).trans closes
    refine ⟨⟨by rw [reached]; exact h.targets, by rw [op.sl]; exact h.unbarred, .inr ⟨by rw [claim, ended], { r with endCause := some c }, by rw [reached], ?_, ?_⟩⟩, ?_⟩
    · rw [op.toInside.runClock]
      exact fresh
    · exact .inr (.inl ⟨by rw [reached], c, rfl, waits⟩)
    · rw [reached]
      exact ⟨rfl, rfl, rfl, rfl⟩

theorem marks_cut (d : BedId) (waits : c.waits) (ne : c ≠ .supply) (s : State) : Marks b s (s.cut d c) := by
  by_cases cycling : (s.bed d).state.cycling = true
  · have cuts : s.cut d c = s.endCycle d c := if_pos cycling
    rw [cuts]
    by_cases same : b = d
    · subst same
      exact marks_endCycle waits ne cycling
    · have op := bedwise_endCycle d c s
      exact marks_aside op.toInside (op.aside b same).bed (by rw [op.claim (ne_claiming_of_cycling cycling)]; exact id)
  · have cuts : s.cut d c = s := if_neg cycling
    rw [cuts]
    exact .refl b s

/-! ### Line-loss closure in a commit (R18) -/

theorem withdraw_ended (ended : s.sb.claim.phase = .ending) : s.withdraw = s := by
  unfold State.withdraw
  rw [ended]

/-- A claim that has ended hears of no cut and no withdrawal. -/
theorem holdBed_ended (d : BedId) (ended : s.sb.claim.phase = .ending) : (s.holdBed .line d).sb.claim = s.sb.claim := by
  by_cases cycling : (s.bed d).state.cycling = true
  · rw [holdBed_cycling cycling]
    exact (bedwise_endCycle d .line s).claim (ne_claiming_of_cycling cycling)
  by_cases claiming : (s.bed d).state = .claiming
  · rw [holdBed_claiming claiming, if_neg (by nofun), State.withdrawToWaiting, toWaiting_sb, withdraw_ended ended]
  · rw [holdBed_calm ⟨Bool.eq_false_of_not_eq_true cycling, claiming⟩]

theorem marks_holdBed (d : BedId) (ended : s.sb.claim.phase = .ending) : Marks b s (s.holdBed .line d) := by
  have same : (s.holdBed .line d).sb.claim = s.sb.claim := holdBed_ended d ended
  by_cases ne : b = d
  · subst ne
    by_cases cycling : (s.bed b).state.cycling = true
    · rw [holdBed_cycling cycling]
      exact marks_endCycle (.inr (.inl rfl)) (by nofun) cycling
    by_cases claiming : (s.bed b).state = .claiming
    · rw [holdBed_claiming claiming, if_neg (by nofun), State.withdrawToWaiting, withdraw_ended ended]
      refine ⟨fun h => ?_⟩
      obtain ⟨run, -⟩ | ⟨-, r, -, -, cycles | ⟨closing, -⟩ | waits⟩ := h.stage
      · exact (marks_toWaiting 0 run).keep h
      · exact absurd cycles cycling
      · exact nomatch claiming.symm.trans closing
      · exact nomatch claiming.symm.trans waits
    · rw [holdBed_calm ⟨Bool.eq_false_of_not_eq_true cycling, claiming⟩]
      exact .refl b s
  · exact marks_aside (worked_holdBed .line d s).toInside (aside_holdBed ne .line s).bed (by rw [same]; exact id)

theorem marks_joinLine (ended : s.sb.claim.phase = .ending) : Marks b s (s.joinHold .line) ∧ (s.joinHold .line).sb.claim = s.sb.claim := by
  by_cases has : s.bc.holds.has .line = true
  · rw [joinHold_present has]
    exact ⟨.refl b s, rfl⟩
  have pass (l : List BedId) (u : State) (phase : u.sb.claim.phase = .ending) :
      Marks b u (l.foldl (fun s d => s.holdBed .line d) u) ∧ (l.foldl (fun s d => s.holdBed .line d) u).sb.claim = u.sb.claim := by
    induction l generalizing u with
    | nil => exact ⟨.refl b u, rfl⟩
    | cons d l ih =>
      have same := holdBed_ended d phase
      obtain ⟨marks, claim⟩ := ih (u.holdBed .line d) (by rw [same, phase])
      exact ⟨(marks_holdBed d phase).trans marks, claim.trans same⟩
  rw [joinHold_absent (Bool.eq_false_of_not_eq_true has), State.forBeds]
  obtain ⟨marks, claim⟩ := pass allBeds { s with bc.holds := s.bc.holds.put .line true } ended
  exact ⟨(Marks.trans (marks_aside (inside_putLine s) rfl id) marks).trans (marks_aside (inside_noteOccasion _) rfl id), claim⟩

theorem marks_ownCommitted (ended : s.sb.claim.phase = .ending) : Marks b s s.ownCommitted ∧ s.ownCommitted.sb.claim = s.sb.claim := by
  unfold State.ownCommitted
  split
  · obtain ⟨marks, claim⟩ := marks_joinLine (b := b) ended
    have raised : Marks b (s.joinHold .line) s.closeLine := by
      have same := closeLine_rest s
      refine marks_aside (inside_raise ..) (by rw [same]; rfl) (by rw [same]; exact id)
    refine ⟨marks.trans raised, ?_⟩
    rw [closeLine_rest, ← claim]
  · exact ⟨.refl b s, rfl⟩

end Sys2Proof.Machine

/-! PROOFS. The book's steps around a claim that sheds nothing (R40, R58, R69 to R71). -/

namespace Sys2Proof.Machine

variable {b d : BedId} {s t u v w x : State} {r : Run} {c : EndCause}

/-! ### The own entry of another bed -/

theorem find_removeEntry_ne {st bd bd' : Nat} (ne : bd' ≠ bd) (book : List Entry) :
    (removeEntry st bd book).find? (fun e => e.named st bd') = book.find? fun e => e.named st bd' := by
  rw [removeEntry, List.find?_filter]
  congr 1
  funext e
  simp only [Entry.named]
  by_cases station : e.station = st <;> by_cases bed : e.bed = bd' <;> simp [station, bed, ne]

theorem val_ne (ne : b ≠ d) : b.val ≠ d.val := fun e => ne (Fin.ext e)

/-- A cut of another bed leaves the entry of this one. -/
theorem ownEntry_cut (ne : b ≠ d) (c : EndCause) (s : State) : (s.cut d c).ownEntry b.val = s.ownEntry b.val := by
  by_cases cycling : (s.bed d).state.cycling = true
  · have cuts : s.cut d c = s.endCycle d c := if_pos cycling
    have op := bedwise_endCycle d c s
    rw [cuts]
    unfold State.ownEntry State.entry
    rw [op.sl]
    rcases op.book (ne_claiming_of_cycling cycling) with ⟨book, -⟩ | ⟨book, -⟩ <;> rw [book]
    exact find_removeEntry_ne (val_ne ne) _
  · rw [show s.cut d c = s from if_neg cycling]

/-! ### What the steps keep -/

/-- A claim that has not ended leaves its bed CLAIMING and its entry; the claim keeps its urgency, and the bed its marks. -/
structure Keeps (b : BedId) (s t : State) : Prop extends Inside s t where
  urgency : t.sb.claim.urgency = s.sb.claim.urgency
  ended : s.sb.claim.phase = .ending → t.sb.claim.phase = .ending
  flight : s.sb.claim.phase ≠ .none → t.sb.claim.phase ≠ .none
  kept : (t.sb.claim.phase = .ending → s.sb.claim.phase = .ending) → (s.bed b).state = .claiming →
    t.bed b = s.bed b ∧ t.ownEntry b.val = s.ownEntry b.val
  marks : Marks b s t

namespace Keeps

theorem refl (b : BedId) (s : State) : Keeps b s s := ⟨.refl s, rfl, id, id, fun _ _ => ⟨rfl, rfl⟩, .refl b s⟩

theorem trans (h : Keeps b s t) (k : Keeps b t u) : Keeps b s u where
  toInside := h.toInside.trans k.toInside
  urgency := k.urgency.trans h.urgency
  ended := k.ended ∘ h.ended
  flight := k.flight ∘ h.flight
  kept still claiming := by
    obtain ⟨bed, entry⟩ := h.kept (still ∘ k.ended) claiming
    obtain ⟨bed', entry'⟩ := k.kept (h.ended ∘ still) (by rw [bed, claiming])
    exact ⟨bed'.trans bed, entry'.trans entry⟩
  marks := h.marks.trans k.marks

end Keeps

/-- A step that leaves the bed, its entry and the claim's phase and urgency. -/
theorem keeps_same (inside : Inside s t) (bed : t.bed b = s.bed b) (entry : t.ownEntry b.val = s.ownEntry b.val)
    (phase : t.sb.claim.phase = s.sb.claim.phase) (urgency : t.sb.claim.urgency = s.sb.claim.urgency) : Keeps b s t :=
  ⟨inside, urgency, fun e => phase.trans e, fun e => by rwa [phase], fun _ _ => ⟨bed, entry⟩,
    marks_aside inside bed fun e => phase.trans e⟩

theorem ownEntry_congr (setup : t.sl = s.sl) (book : t.sb.book = s.sb.book) (n : Nat) : t.ownEntry n = s.ownEntry n := by
  unfold State.ownEntry State.entry
  rw [setup, book]

theorem keeps_foldl {α : Type} {f : State → α → State} (keeps : ∀ s a, Keeps b s (f s a)) (l : List α) (s : State) : Keeps b s (l.foldl f s) := by
  induction l generalizing s with
  | nil => exact .refl b s
  | cons a l ih => exact (keeps s a).trans (ih _)

theorem keeps_cut (d : BedId) (waits : c.waits) (supply : c ≠ .supply) (s : State) : Keeps b s (s.cut d c) := by
  have claim := cut_claim d c s
  refine ⟨(worked_cut d c s).toInside, by rw [claim], by rw [claim]; exact id, by rw [claim]; exact id, fun _ claiming => ?_, marks_cut d waits supply s⟩
  by_cases same : b = d
  · subst same
    rw [show s.cut b c = s from if_neg (by rw [claiming]; nofun)]
    exact ⟨rfl, rfl⟩
  · exact ⟨(aside_cut same c s).bed, ownEntry_cut same c s⟩

theorem keeps_cutOver (e : Entry) (s : State) : Keeps b s (s.cutOver e) := by
  unfold State.cutOver
  split
  · split
    · exact keeps_cut _ (.inr (.inr (.inl rfl))) (by nofun) s
    · exact .refl b s
  · exact .refl b s

theorem keeps_checked (s : State) : Keeps b s s.checked := by
  have marked : Keeps b s { s with sb.dirty := false } := keeps_same (inside_marks false s.bc.occasion s) rfl rfl rfl rfl
  have cuts : Keeps b { s with sb.dirty := false } (State.overdraw { s with sb.dirty := false }) := keeps_foldl (fun s e => keeps_cutOver e s) _ _
  refine (marked.trans cuts).trans ?_
  obtain ⟨x, e⟩ := clearSaturated_eq (State.overdraw { s with sb.dirty := false })
  unfold State.checked
  rw [e]
  exact keeps_same (inside_saturated x _) rfl rfl rfl rfl

/-! ### A commit and a drop (R70, R71) -/

theorem committing_bed_any (b : BedId) (s : State) : s.committing.bed b = s.bed b := by
  unfold State.committing
  dsimp only
  rw [offer_bed]
  rfl

theorem committing_claim (s : State) : s.committing.sb.claim.urgency = s.sb.claim.urgency := by
  unfold State.committing
  dsimp only
  rw [offer_claim]

theorem opened_bed_any (s : State) : s.opened.bed s.sb.claim.bed = { s.bed s.sb.claim.bed with
    state := .opening, backoffEnd := none, soakSince := none
    run := some (nextCycle (s.bed s.sb.claim.bed).run (s.bed s.sb.claim.bed).need s.runClock) } := by
  rw [(opened_drive s).bed, bed_startCycle, committing_bed_any, (worked_committing s).toInside.runClock]

theorem opened_bed_other (ne : b ≠ s.sb.claim.bed) : s.opened.bed b = s.bed b := by
  rw [(opened_drive s).bed, (aside_startCycle ne _).bed, committing_bed_any]

theorem marks_opened (can : ¬ s.sb.claim.inert) (going : s.sb.claim.phase ≠ .ending) : Marks b s s.opened := by
  have inside := (worked_opened can).toInside
  by_cases own : b = s.sb.claim.bed
  · subst own
    refine ⟨fun h => ?_⟩
    have bed := opened_bed_any s
    obtain ⟨run, -⟩ | ⟨ended, -⟩ := h.stage
    · rw [run] at bed
      refine ⟨⟨by rw [bed]; exact h.targets, by rw [inside.sl]; exact h.unbarred,
        .inr ⟨opened_claim s, nextCycle none (s.bed s.sb.claim.bed).need s.runClock, by rw [bed], ⟨rfl, ?_, ?_⟩, .inl (by rw [bed]; rfl)⟩⟩, ?_⟩
      · change 1 < 12
        omega
      · rw [inside.runClock]
        change s.runClock - s.runClock < 1440
        omega
      · rw [bed]
        exact ⟨rfl, rfl, rfl, rfl⟩
    · exact absurd ended going
  · exact marks_aside inside (opened_bed_other own) fun _ => opened_claim s

theorem keeps_commitClaim (can : ¬ s.sb.claim.inert) (going : s.sb.claim.phase ≠ .ending) : Keeps b s s.commitClaim := by
  obtain ⟨marks, claim⟩ := marks_ownCommitted (b := b) (opened_claim s)
  rw [← commitClaim_opened] at marks claim
  have ending : s.commitClaim.sb.claim.phase = .ending := by rw [claim, opened_claim]
  refine ⟨(worked_commitClaim can).toInside, ?_, fun _ => ending, fun _ => by rw [ending]; nofun, fun still => absurd (still ending) going,
    (marks_opened can going).trans marks⟩
  rw [claim, (opened_drive s).sb]
  exact committing_claim s

theorem keeps_dropClaim (going : s.sb.claim.phase ≠ .ending) : Keeps b s s.dropClaim := by
  have ending : s.dropClaim.sb.claim.phase = .ending := by rw [dropClaim_phase]; rfl
  have first : Marks b s s.endClaim := marks_aside (worked_endClaim s).toInside (endClaim_bed b s) fun _ => by rw [endClaim_phase]; rfl
  refine ⟨(worked_dropClaim s).toInside, by rw [dropClaim_phase]; rfl, fun _ => ending, fun _ => by rw [ending]; nofun,
    fun still => absurd (still ending) going, ?_⟩
  unfold State.dropClaim
  dsimp only
  split
  · by_cases own : b = s.sb.claim.bed
    · refine ⟨fun h => ?_⟩
      obtain ⟨run, -⟩ | ⟨ended, -⟩ := h.stage
      · rw [← own]
        exact (first.trans (marks_toWaiting _ (by rw [endClaim_bed, run]))).keep h
      · exact absurd ended going
    · have rests := resting_toWaiting s.sb.claim.bed (dropBackoff s.sb.claim.urgency) s.endClaim
      exact first.trans (marks_aside rests.toInside (rests.others b own) (by rw [toWaiting_sb]; exact id))
  · exact first

/-! ### The report to a claim that sheds nothing (R58) -/

/-- A claim record with another list, or with its outcome held: its beds, book and phase as they were. -/
structure Quiet (s x : State) : Prop extends Inside s x where
  bc : x.bc = s.bc
  book : x.sb.book = s.sb.book
  dirty : x.sb.dirty = s.sb.dirty
  phase : x.sb.claim.phase = s.sb.claim.phase
  urgency : x.sb.claim.urgency = s.sb.claim.urgency

theorem Quiet.keeps (h : Quiet s x) : Keeps b s x :=
  keeps_same h.toInside (by unfold State.bed; rw [h.bc]) (ownEntry_congr h.sl h.book _) h.phase h.urgency

theorem quiet_relisted (s : State) : Quiet s s.relisted := ⟨(worked_relisted s).toInside, rfl, rfl, rfl, rfl, rfl⟩

/-- The claim stands, commits or drops. -/
structure Resolves (x t : State) : Prop where
  can : ¬ x.sb.claim.inert
  going : x.sb.claim.phase ≠ .ending
  ends : t = x.commitClaim ∨ t = x.dropClaim

theorem resolve_mild (mild : s.sb.claim.urgency ≠ .severe) : s.resolve = s.commitClaim ∨ s.resolve = s.dropClaim := by
  unfold State.resolve
  split
  · exact .inl rfl
  · rw [if_neg fun h => mild h.1]
    exact .inr rfl

theorem resolves_of (mild : s.sb.claim.urgency ≠ .severe) (can : ¬ s.sb.claim.inert) : Resolves s s.resolve :=
  ⟨can, fun e => can (.inl (by rw [Claim.live, e])), resolve_mild mild⟩

theorem victimLeaves_mild (mild : s.sb.claim.urgency ≠ .severe) : ∃ x, Quiet s x ∧ (s.victimLeaves = x ∨ Resolves x s.victimLeaves) := by
  unfold State.victimLeaves
  split
  · next awaiting => exact ⟨s, ⟨.refl s, rfl, rfl, rfl, rfl, rfl⟩, .inr (resolves_of mild (not_inert_of_awaiting awaiting))⟩
  · next asking silent =>
    dsimp only
    have rest := cancel_rest Notice.isShed { s with sb.claim.outcome := some .reResolve }
    have held : Quiet s (State.cancel Notice.isShed { s with sb.claim.outcome := some .reResolve }) := by
      have inside : Inside s { s with sb.claim := { s.sb.claim with outcome := some .reResolve } } := inside_claim _ s
      exact ⟨inside.trans (worked_cancel Notice.isShed (fun _ => .inr) _).toInside, by rw [rest], by rw [cancel_sb], by rw [cancel_sb],
        by rw [cancel_sb], by rw [cancel_sb]⟩
    have outcome : (State.cancel Notice.isShed { s with sb.claim.outcome := some .reResolve }).sb.claim.outcome = some .reResolve := by rw [cancel_sb]
    generalize State.cancel Notice.isShed { s with sb.claim.outcome := some .reResolve } = x at held outcome
    split
    · exact ⟨x, held, .inl rfl⟩
    · have applied : x.applyHeld = State.resolve { x with sb.claim.outcome := none } := by unfold State.applyHeld; rw [outcome]
      have quiet : Inside x { x with sb.claim := { x.sb.claim with outcome := none } } := inside_claim _ x
      refine ⟨_, ⟨held.toInside.trans quiet, held.bc, held.book, held.dirty, held.phase, held.urgency⟩, .inr ?_⟩
      rw [applied]
      exact resolves_of (by rw [← held.urgency] at mild; exact mild) (not_inert_of_asking (held.phase.trans asking) (by nofun))
  all_goals exact ⟨s, ⟨.refl s, rfl, rfl, rfl, rfl, rfl⟩, .inl rfl⟩

theorem report_mild (mild : s.sb.claim.urgency ≠ .severe) : ∃ x, Quiet s x ∧ (s.report = x ∨ Resolves x s.report) := by
  have listed := quiet_relisted s
  have stands : ∃ x, Quiet s x ∧ (s.relisted = x ∨ Resolves x s.relisted) := ⟨_, listed, .inl rfl⟩
  have leaves : ∃ x, Quiet s x ∧ (s.relisted.victimLeaves = x ∨ Resolves x s.relisted.victimLeaves) := by
    obtain ⟨x, quiet, ends⟩ := victimLeaves_mild (s := s.relisted) mild
    exact ⟨x, ⟨listed.toInside.trans quiet.toInside, quiet.bc, quiet.book, quiet.dirty, quiet.phase, quiet.urgency⟩, ends⟩
  rw [report_eq]
  split
  · next resolving =>
    split
    · exact ⟨_, listed, .inr (resolves_of mild (not_inert_of_resolving resolving))⟩
    · exact stands
  · split
    · exact leaves
    · exact stands
  · split
    · exact leaves
    · exact stands
  all_goals exact stands

theorem Resolves.keeps (h : Resolves x t) : Keeps b x t := by
  rcases h.ends with e | e <;> rw [e]
  · exact keeps_commitClaim h.can h.going
  · exact keeps_dropClaim h.going

theorem Resolves.ended (h : Resolves x t) : t.sb.claim.phase = .ending := by
  rcases h.ends with e | e <;> rw [e]
  · rw [commitClaim_opened, (marks_ownCommitted (b := 0) (opened_claim x)).2, opened_claim]
  · rw [dropClaim_phase]
    rfl

/-! ### A lap, and all of them -/

theorem keeps_noteOccasion (s : State) : Keeps b s s.noteOccasion := keeps_same (inside_noteOccasion s) rfl rfl rfl rfl

theorem keeps_bookSteps (mild : s.sb.claim.urgency ≠ .severe) : Keeps b s s.bookSteps := by
  have checked := keeps_checked (b := b) s
  obtain ⟨x, quiet, ends⟩ := report_mild (s := s.checked) (by rw [checked.urgency]; exact mild)
  have reports : Keeps b s.checked s.checked.report := by
    rcases ends with e | resolves
    · rw [e]
      exact quiet.keeps
    · exact quiet.keeps.trans resolves.keeps
  rw [bookSteps_eq]
  exact (checked.trans reports).trans (keeps_noteOccasion _)

theorem keeps_settleBook (n : Nat) (mild : s.sb.dirty = true → s.sb.claim.urgency ≠ .severe) : Keeps b s (s.settleBook n) := by
  induction n generalizing s with
  | zero => exact .refl b s
  | succ n ih =>
    rw [State.settleBook]
    split
    · next dirty =>
      have lap := keeps_bookSteps (b := b) (mild dirty)
      exact lap.trans (ih fun _ => by rw [lap.urgency]; exact mild dirty)
    · exact .refl b s

theorem settleBook_clean (n : Nat) (clean : s.sb.dirty = false) : s.settleBook n = s := by
  cases n with
  | zero => rfl
  | succ n => exact if_neg (by rw [clean]; nofun)

/-- With nothing over the budget, a claim that does not end lets every bed be. -/
theorem settleBook_frozen (n : Nat) (under : overEntries s.sb.budget 0 s.sb.book = []) (mild : s.sb.dirty = true → s.sb.claim.urgency ≠ .severe)
    (still : (s.settleBook n).sb.claim.phase = .ending → s.sb.claim.phase = .ending) : (s.settleBook n).bc.beds = s.bc.beds := by
  cases n with
  | zero => rfl
  | succ n =>
    rw [State.settleBook] at still ⊢
    split at still
    · next dirty =>
      rw [if_pos dirty]
      obtain ⟨y, checked⟩ := checked_nothing (s := s) fun e b cuts => by
        rw [State.overdrawn, under] at cuts
        exact absurd cuts.1 List.not_mem_nil
      obtain ⟨x, quiet, ends⟩ := report_mild (s := s.checked) (by rw [checked]; exact mild dirty)
      rcases ends with same | resolves
      · have clean : s.bookSteps.sb.dirty = false := by
          rw [bookSteps_eq, same]
          change x.sb.dirty = false
          rw [quiet.dirty, checked]
        rw [settleBook_clean n clean, bookSteps_eq, same]
        change x.bc.beds = s.bc.beds
        rw [quiet.bc, checked]
      · have lap : s.bookSteps.sb.claim.phase = .ending := by
          rw [bookSteps_eq]
          exact resolves.ended
        have mild' : s.bookSteps.sb.dirty = true → s.bookSteps.sb.claim.urgency ≠ .severe := fun _ => by
          rw [(keeps_bookSteps (b := 0) (mild dirty)).urgency]
          exact mild dirty
        have before := still ((keeps_settleBook (b := 0) n mild').ended lap)
        refine absurd ?_ resolves.going
        rw [quiet.phase, checked]
        exact before
    · next clean => rw [if_neg clean]

/-! ### The end of the event -/

/-- The state whose occasion is weighed: the book settled, no mark left. -/
def State.bookSettled (s : State) : State := { s.settleBook settleLaps with sb.dirty := false, bc.occasion := false }

theorem finish_bookSettled (s : State) : AfterAlerts s.bookSettled s.finish
    ∨ s.bookSettled.sb.claim.phase = .none ∧ AfterAlerts s.bookSettled.weighOccasion s.finish := by
  have ends : s.finish = (if (s.settleBook settleLaps).bc.occasion then s.bookSettled.weighOccasion else s.bookSettled).offerAlerts := rfl
  rw [ends]
  split
  · by_cases none : s.bookSettled.sb.claim.phase = .none
    · exact .inr ⟨none, afterAlerts_offerAlerts _⟩
    · rw [weighOccasion_of_phase none]
      exact .inl (afterAlerts_offerAlerts _)
  · exact .inl (afterAlerts_offerAlerts _)

theorem keeps_bookSettled (mild : s.sb.dirty = true → s.sb.claim.urgency ≠ .severe) : Keeps b s s.bookSettled :=
  (keeps_settleBook settleLaps mild).trans (keeps_same (inside_marks false false _) rfl rfl rfl rfl)

section Finish

variable (b) (mild : s.sb.dirty = true → s.sb.claim.urgency ≠ .severe)
include mild

/-- The claim's urgency at the end of the event. -/
theorem finish_urgency (flight : s.sb.claim.phase ≠ .none) : s.finish.sb.claim.urgency = s.sb.claim.urgency := by
  have keeps := keeps_bookSettled (b := 0) mild
  rcases finish_bookSettled s with alerts | ⟨none, -⟩
  · rw [alerts.sb, keeps.urgency]
  · exact absurd none (keeps.flight flight)

/-- The marks of a bed whose claim has begun no run before. -/
theorem finish_marks (simple : Simple b s) : SameMarks (s.bed b) (s.finish.bed b) := by
  have marks := ((keeps_bookSettled mild).marks.keep simple).2
  rcases finish_bookSettled s with alerts | ⟨-, alerts⟩
  · rw [alerts.bed]
    exact marks
  · rw [alerts.bed]
    exact marks.trans (.of_may ((offered_weighOccasion _).beds b))

omit mild in
/-- A phase that is the same at the end has ended only if it had before. -/
theorem finish_phase (same : s.finish.sb.claim.phase = s.sb.claim.phase) : s.bookSettled.sb.claim.phase = .ending → s.sb.claim.phase = .ending := by
  intro ending
  rcases finish_bookSettled s with alerts | ⟨none, -⟩
  · rw [← same, alerts.sb, ending]
  · rw [none] at ending
    cases ending

/-- Where the claim's phase is the same, a bed in CLAIMING is, and its entry. -/
theorem finish_claiming (same : s.finish.sb.claim.phase = s.sb.claim.phase) (claiming : (s.bed b).state = .claiming) :
    s.finish.bed b = s.bed b ∧ s.finish.ownEntry b.val = s.ownEntry b.val := by
  obtain ⟨bed, entry⟩ := (keeps_bookSettled mild).kept (finish_phase same) claiming
  rcases finish_bookSettled s with alerts | ⟨-, alerts⟩
  · exact ⟨by rw [alerts.bed, bed], by rw [ownEntry_congr alerts.sl (by rw [alerts.sb]), entry]⟩
  · have offered := offered_weighOccasion s.bookSettled
    refine ⟨?_, by rw [ownEntry_congr (alerts.sl.trans offered.sl) (by rw [alerts.sb, offered.book]), entry]⟩
    rw [alerts.bed, (offered.beds b).of_not_waiting (by rw [bed, claiming]; nofun), bed]

/-- And with nothing over the budget every bed is, but for an offer. -/
theorem finish_frozen (under : overEntries s.sb.budget 0 s.sb.book = []) (same : s.finish.sb.claim.phase = s.sb.claim.phase) :
    MayClaim (s.bed b) (s.finish.bed b) := by
  have beds : s.bookSettled.bed b = s.bed b := congrArg (PerBed.get · b) (settleBook_frozen settleLaps under mild (finish_phase same))
  rcases finish_bookSettled s with alerts | ⟨-, alerts⟩
  · exact .inl (by rw [alerts.bed, beds])
  · rw [alerts.bed, ← beds]
    exact (offered_weighOccasion _).beds b

end Finish

end Sys2Proof.Machine

/-! PROOFS. WATER: what it makes of one bed, its claim and its entry (R66, R105, R123). -/

namespace Sys2Proof.Machine

variable {b d : BedId} {s t u v w : State} {x y z : Bed} {r : Run} {n : Nat} {l : List BedId}

/-! ### The bed -/

/-- The ordered volume as the need: of the bed, or of its run above what the run has had; and the urgency. -/
def Bed.watered (n : Nat) (x : Bed) : Bed :=
  match x.run with
  | some r => { x with ordered := true, skip := false, run := some { r with need := r.delivered + 10 * n }, urgency := wateredUrgency x.urgency }
  | none => { x with ordered := true, skip := false, need := 10 * n, urgency := wateredUrgency x.urgency }

theorem Bed.watered_none (run : x.run = none) :
    x.watered n = { x with ordered := true, skip := false, need := 10 * n, urgency := wateredUrgency x.urgency } := by
  unfold Bed.watered
  rw [run]

theorem Bed.watered_some (run : x.run = some r) : x.watered n = { x with
    ordered := true, skip := false, run := some { r with need := r.delivered + 10 * n }, urgency := wateredUrgency x.urgency } := by
  unfold Bed.watered
  rw [run]

/-- Whatever its run, a watered bed is in the state it was in. -/
theorem Bed.watered_state (n : Nat) (x : Bed) : (x.watered n).state = x.state := by
  unfold Bed.watered
  split <;> rfl

theorem Bed.watered_targets (n : Nat) (x : Bed) : (x.watered n).targets = x.targets := by
  unfold Bed.watered
  split <;> rfl

theorem Bed.watered_marks (n : Nat) (x : Bed) :
    (x.watered n).ordered = true ∧ (x.watered n).skip = false ∧ (x.watered n).urgency = wateredUrgency x.urgency := by
  unfold Bed.watered
  split <;> exact ⟨rfl, rfl, rfl⟩

/-- A bed in IDLE without a run starts to wait with the ordered need. -/
theorem applyWater_idle (idle : (s.bed b).state = .idle) (run : (s.bed b).run = none) : s.applyWater b n
    = ((s.modBed b fun x => { x with ordered := true, skip := false }).setWaiting b 0).modBed b fun x => { x with need := 10 * n, urgency := .dry } := by
  have marked : (s.modBed b fun x => { x with ordered := true, skip := false }).bed b = { s.bed b with ordered := true, skip := false } :=
    State.bed_modBed_same ..
  unfold State.applyWater
  dsimp only
  rw [marked]
  dsimp only
  rw [run, idle]

/-- Every other bed: the volume, then the urgency. -/
theorem applyWater_other (other : ¬ ((s.bed b).state = .idle ∧ (s.bed b).run = none)) : ∃ v : State,
    v = { s with bc.beds := v.bc.beds } ∧ v.bed b = { (s.bed b).watered n with urgency := (s.bed b).urgency }
      ∧ s.applyWater b n = v.setUrgency b (wateredUrgency (s.bed b).urgency) := by
  have marked : (s.modBed b fun x => { x with ordered := true, skip := false }).bed b = { s.bed b with ordered := true, skip := false } :=
    State.bed_modBed_same ..
  unfold State.applyWater
  dsimp only
  rw [marked]
  dsimp only
  cases run : (s.bed b).run with
  | some r =>
    refine ⟨_, ?_, ?_, rfl⟩
    · rfl
    · rw [State.bed_modBed_same, marked, Bed.watered_some run]
  | none =>
    refine ⟨(s.modBed b fun x => { x with ordered := true, skip := false }).modBed b fun x => { x with need := 10 * n }, rfl, ?_, ?_⟩
    · rw [State.bed_modBed_same, marked, Bed.watered_none run]
    · cases e : (s.bed b).state <;> first | rfl | exact absurd ⟨e, run⟩ other

/-- A bed before and after a WATER that it takes, by its state before. -/
structure WaterTaken (n : Nat) (x y : Bed) : Prop where
  closing : ∀ r, x.state = .closing → x.run = some r → y = { x with run := some { r with keptOrder := some n } }
  idle : x.state = .idle → x.run = none → y.state = .waiting ∧ y.ordered = true ∧ y.skip = false ∧ y.need = 10 * n ∧ y.urgency = .dry
    ∧ y.waitAge = 0
  other : x.state ≠ .closing → ¬ (x.state = .idle ∧ x.run = none) → y = x.watered n

theorem waterBed_closing (closing : (s.bed b).state = .closing) : s.waterBed n b
    = s.modBed b fun x => { x with run := x.run.map fun r => { r with keptOrder := some n } } := if_pos closing

theorem waterBed_other (other : (s.bed b).state ≠ .closing) : s.waterBed n b = s.applyWater b n := if_neg other

theorem waterTaken (n : Nat) (b : BedId) (s : State) : WaterTaken n (s.bed b) ((s.waterBed n b).bed b) where
  closing r closing run := by
    rw [waterBed_closing closing, State.bed_modBed_same, run]
    rfl
  idle idle run := by
    rw [waterBed_other (by rw [idle]; nofun), applyWater_idle idle run, State.bed_modBed_same, Overdraw.bed_setWaiting, State.bed_modBed_same]
    exact ⟨rfl, rfl, rfl, rfl, rfl, if_pos idle⟩
  other closing other := by
    obtain ⟨v, -, bed, e⟩ := applyWater_other (n := n) other
    rw [waterBed_other closing, e, setUrgency_bed, bed, ← (Bed.watered_marks n (s.bed b)).2.2]

theorem resting_waterBed (n : Nat) (d : BedId) (s : State) : Resting d s (s.waterBed n d) := by
  by_cases closing : (s.bed d).state = .closing
  · rw [waterBed_closing closing]
    exact resting_modBed _ s rfl le_rfl rfl
  · rw [waterBed_other closing]
    exact resting_applyWater d n s

/-! ### The urgency of a bed in CLAIMING (R66) -/

/-- The new urgency reaches the claim and the own entry. -/
theorem setUrgency_claiming {q : Urgency} (claiming : (s.bed b).state = .claiming) (ne : (s.bed b).urgency ≠ q) :
    (s.setUrgency b q).sb.claim = { s.sb.claim with urgency := q }
      ∧ (s.setUrgency b q).sb.book = updateEntry s.sl.own b.val (fun e => { e with urgency := q }) s.sb.book
      ∧ (s.setUrgency b q).sb.budget = s.sb.budget := by
  unfold State.setUrgency
  dsimp only
  rw [if_neg ne, claiming]
  dsimp only
  split
  · exact ⟨rfl, rfl, rfl⟩
  · next absent =>
    have gone : s.hasEntry s.sl.own b.val = false := Bool.eq_false_of_not_eq_true absent
    exact ⟨rfl, (updateEntry_of_absent _ ((Overdraw.hasEntry_eq_false_iff ..).1 gone)).symm, rfl⟩

/-- What a WATER does to the supply book and the claim: nothing, or the one change of a bed in CLAIMING. -/
theorem waterBed_sb (n : Nat) (b : BedId) (s : State) :
    ((s.waterBed n b).sb = s.sb ∧ ((s.bed b).state = .claiming → wateredUrgency (s.bed b).urgency = (s.bed b).urgency))
    ∨ ((s.bed b).state = .claiming ∧ (s.bed b).urgency ≠ .severe ∧ (s.bed b).urgency ≠ .dry
      ∧ (s.waterBed n b).sb.claim = { s.sb.claim with urgency := .dry }
      ∧ (s.waterBed n b).sb.book = updateEntry s.sl.own b.val (fun e => { e with urgency := .dry }) s.sb.book
      ∧ (s.waterBed n b).sb.budget = s.sb.budget) := by
  by_cases claiming : (s.bed b).state = .claiming
  · obtain ⟨v, rest, bed, e⟩ := applyWater_other (n := n) (s := s) (b := b) (by rw [claiming]; nofun)
    have sb : v.sb = s.sb := by rw [rest]
    have setup : v.sl = s.sl := by rw [rest]
    have here : (v.bed b).state = .claiming := by rw [bed]; exact (Bed.watered_state n _).trans claiming
    have urgency : (v.bed b).urgency = (s.bed b).urgency := by rw [bed]
    rw [waterBed_other (by rw [claiming]; nofun), e]
    by_cases same : (s.bed b).urgency = wateredUrgency (s.bed b).urgency
    · left
      refine ⟨?_, fun _ => same.symm⟩
      rw [← same, State.setUrgency, if_pos urgency, sb]
    · right
      have mild : (s.bed b).urgency ≠ .severe := fun severe => same (by rw [severe]; rfl)
      have dry : wateredUrgency (s.bed b).urgency = .dry := if_neg mild
      rw [dry] at same ⊢
      obtain ⟨claim, book, budget⟩ := setUrgency_claiming here (q := .dry) (by rw [urgency]; exact same)
      rw [sb, setup] at book
      rw [sb] at claim budget
      exact ⟨claiming, mild, same, claim, book, budget⟩
  · exact .inl ⟨(resting_waterBed n b s).sb claiming, fun e => absurd e claiming⟩

/-! ### What a WATER keeps, whatever bed takes it -/

/-- An urgency does not count in the overdraw check (R53). -/
theorem overEntries_urgency (st bd : Nat) (q : Urgency) (budget sum : Nat) (book : List Entry) (under : overEntries budget sum book = []) :
    overEntries budget sum (updateEntry st bd (fun e => { e with urgency := q }) book) = [] := by
  induction book generalizing sum with
  | nil => rfl
  | cons e book ih =>
    have head : updateEntry st bd (fun e => { e with urgency := q }) (e :: book)
        = (if e.named st bd then { e with urgency := q } else e) :: updateEntry st bd (fun e => { e with urgency := q }) book := rfl
    have committed : (if e.named st bd then { e with urgency := q } else e).committed = e.committed := by split <;> rfl
    have flow : (if e.named st bd then { e with urgency := q } else e).flow = e.flow := by split <;> rfl
    rw [overEntries] at under
    rw [head, overEntries, committed, flow]
    split at under
    · next on =>
      rw [if_pos on]
      split at under
      · simp [List.filter_cons, on] at under
      · next fits =>
        rw [if_neg fits]
        exact ih _ under
    · next off =>
      rw [if_neg off]
      exact ih _ under

/-- What a WATER leaves of the claim, the budget check and the claiming beds. -/
structure Waters (s t : State) : Prop extends Inside s t where
  phase : t.sb.claim.phase = s.sb.claim.phase
  claimBed : t.sb.claim.bed = s.sb.claim.bed
  live : t.sb.claim.live = s.sb.claim.live
  claiming : ∀ d, (t.bed d).state = .claiming ↔ (s.bed d).state = .claiming
  mild : (s.sb.dirty = true → s.sb.claim.urgency ≠ .severe) → t.sb.dirty = true → t.sb.claim.urgency ≠ .severe
  under : overEntries s.sb.budget 0 s.sb.book = [] → overEntries t.sb.budget 0 t.sb.book = []

namespace Waters

theorem of_sb (inside : Inside s t) (sb : t.sb = s.sb) (claiming : ∀ d, (t.bed d).state = .claiming ↔ (s.bed d).state = .claiming) : Waters s t :=
  ⟨inside, by rw [sb], by rw [sb], by rw [sb], claiming, by rw [sb]; exact id, by rw [sb]; exact id⟩

theorem refl (s : State) : Waters s s := .of_sb (.refl s) rfl fun _ => .rfl

theorem trans (h : Waters s t) (k : Waters t u) : Waters s u where
  toInside := h.toInside.trans k.toInside
  phase := k.phase.trans h.phase
  claimBed := k.claimBed.trans h.claimBed
  live := k.live.trans h.live
  claiming d := (k.claiming d).trans (h.claiming d)
  mild := k.mild ∘ h.mild
  under := k.under ∘ h.under

theorem held (h : Waters s t) (k : ClaimHeld s) : ClaimHeld t := fun live => by
  rw [h.live] at live
  rw [h.claimBed]
  exact (h.claiming _).2 (k live)

end Waters

theorem waterBed_state (n : Nat) (b : BedId) (s : State) :
    ((s.waterBed n b).bed b).state = if (s.bed b).state = .idle ∧ (s.bed b).run = none then .waiting else (s.bed b).state := by
  have taken := waterTaken n b s
  split
  · next h => exact (taken.idle h.1 h.2).1
  · next other =>
    by_cases closing : (s.bed b).state = .closing
    · rw [waterBed_closing closing, State.bed_modBed_same]
    · rw [taken.other closing other, Bed.watered_state]

theorem waterBed_claiming (n : Nat) (b d : BedId) (s : State) : ((s.waterBed n b).bed d).state = .claiming ↔ (s.bed d).state = .claiming := by
  by_cases same : d = b
  · subst same
    rw [waterBed_state]
    split
    · next h =>
      rw [h.1]
      exact ⟨nofun, nofun⟩
    · exact .rfl
  · rw [(resting_waterBed n b s).others d same]

theorem waters_waterBed (n : Nat) (b : BedId) (s : State) : Waters s (s.waterBed n b) := by
  have inside := (resting_waterBed n b s).toInside
  rcases waterBed_sb n b s with ⟨sb, -⟩ | ⟨claiming, -, -, claim, book, budget⟩
  · exact .of_sb inside sb fun d => waterBed_claiming n b d s
  · refine ⟨inside, by rw [claim], by rw [claim], by rw [claim]; rfl, fun d => waterBed_claiming n b d s, fun _ _ => by rw [claim]; nofun, fun under => ?_⟩
    rw [book, budget]
    exact overEntries_urgency _ _ _ _ _ _ under

theorem ownEntry_waterBed (ne : b ≠ d) (n : Nat) (s : State) : (s.waterBed n d).ownEntry b.val = s.ownEntry b.val := by
  have inside := (resting_waterBed n d s).toInside
  rcases waterBed_sb n d s with ⟨sb, -⟩ | ⟨-, -, -, -, book, -⟩
  · exact ownEntry_congr inside.sl (by rw [sb]) _
  · unfold State.ownEntry State.entry
    rw [inside.sl, book]
    exact PeerNotices.find_updateEntry_ne (f := fun e => { e with urgency := .dry }) (fun _ => ⟨rfl, rfl⟩) (val_ne ne) _

/-- The own entry of a bed in CLAIMING has the bed's new urgency, where it had the old one. -/
theorem ownEntry_watered {e : Entry} (claiming : (s.bed b).state = .claiming) (own : s.ownEntry b.val = some e)
    (urgency : e.urgency = (s.bed b).urgency) :
    (s.waterBed n b).ownEntry b.val = some { e with urgency := wateredUrgency (s.bed b).urgency } := by
  have inside := (resting_waterBed n b s).toInside
  rcases waterBed_sb n b s with ⟨sb, same⟩ | ⟨-, mild, -, -, book, -⟩
  · rw [ownEntry_congr inside.sl (by rw [sb]), own, same claiming, ← urgency]
  · unfold State.ownEntry State.entry at own ⊢
    rw [inside.sl, book, find_updateEntry _ _ (fun e => { e with urgency := .dry }) (fun _ => ⟨rfl, rfl⟩), own, wateredUrgency, if_neg mild]
    rfl

/-- The claim of a bed in CLAIMING has the bed's new urgency, where it had the old one. -/
theorem claim_watered (claiming : (s.bed b).state = .claiming) (urgency : s.sb.claim.urgency = (s.bed b).urgency) :
    (s.waterBed n b).sb.claim.urgency = wateredUrgency (s.bed b).urgency := by
  rcases waterBed_sb n b s with ⟨sb, same⟩ | ⟨-, mild, -, claim, -⟩
  · rw [sb, same claiming, urgency]
  · rw [claim, wateredUrgency, if_neg mild]

end Sys2Proof.Machine

/-! PROOFS. WATER by number and by group (R66, R105, R123, R180). -/

namespace Sys2Proof.WaterOrders

open Sys2Proof.Machine Sys2Proof.FramesAndOrders

variable {b d : BedId} {s t u v w x : State} {r : Run} {n src sel : Nat} {l : List BedId}

/-! ### A bed outside CLAIMING at the end of the event -/

/-- The bed of a WATER at the end, by its state before; nothing is said of a bed in CLAIMING. -/
structure Watered (n : Nat) (x z : Bed) : Prop where
  idle : x.state = .idle → x.run = none → z.ordered = true ∧ z.skip = false ∧ z.need = 10 * n ∧ z.urgency = .dry ∧ z.waitAge = 0
    ∧ (z.state = .waiting ∨ z.state = .claiming)
  waits : x.state = .waiting → x.run = none → z.ordered = true ∧ z.skip = false ∧ z.need = 10 * n ∧ z.urgency = wateredUrgency x.urgency
    ∧ (z.state = .waiting ∨ z.state = .claiming)
  waitsOn : ∀ r, x.run = some r → x.state = .waiting → z.ordered = true ∧ z.skip = false
    ∧ z.run = some { r with need := r.delivered + 10 * n } ∧ z.urgency = wateredUrgency x.urgency ∧ (z.state = .waiting ∨ z.state = .claiming)
  soaks : ∀ r, x.run = some r → x.state = .soaking → z.ordered = true ∧ z.skip = false ∧ z.state = .soaking
    ∧ z.run = some { r with need := r.delivered + 10 * n } ∧ z.urgency = wateredUrgency x.urgency
  closing : ∀ r, x.run = some r → x.state = .closing → z = { x with run := some { r with keptOrder := some n } }
  cycling : ∀ r, x.run = some r → x.state.cycling = true → z.ordered = true ∧ z.skip = false ∧ z.state = x.state
    ∧ z.run = some { r with need := r.delivered + 10 * n } ∧ z.urgency = wateredUrgency x.urgency

theorem watered_of {x y z : Bed} (taken : WaterTaken n x y) (may : MayClaim y z) : Watered n x z := by
  obtain ⟨run, need, urgency, ordered, skip, age, -⟩ := may.kept
  have same (open' : x.state ≠ .closing) (other : ¬ (x.state = .idle ∧ x.run = none)) : z.ordered = true ∧ z.skip = false
      ∧ z.urgency = wateredUrgency x.urgency ∧ y = x.watered n ∧ y.state = x.state := by
    have same := taken.other open' other
    obtain ⟨o, k, q⟩ := Bed.watered_marks n x
    exact ⟨by rw [ordered, same, o], by rw [skip, same, k], by rw [urgency, same, q], same, by rw [same, Bed.watered_state]⟩
  refine ⟨fun idle none => ?_, fun waits none => ?_, fun r some waits => ?_, fun r some soaks => ?_, fun r some closing => ?_, fun r some cycles => ?_⟩
  · obtain ⟨state, o, k, m, q, a⟩ := taken.idle idle none
    exact ⟨ordered.trans o, skip.trans k, need.trans m, urgency.trans q, age.trans a, may.waiting state⟩
  · obtain ⟨o, k, q, same, state⟩ := same (by rw [waits]; nofun) (by rw [waits]; nofun)
    exact ⟨o, k, by rw [need, same, Bed.watered_none none], q, may.waiting (state.trans waits)⟩
  · obtain ⟨o, k, q, same, state⟩ := same (by rw [waits]; nofun) (by rw [waits]; nofun)
    exact ⟨o, k, by rw [run, same, Bed.watered_some some], q, may.waiting (state.trans waits)⟩
  · obtain ⟨o, k, q, same, state⟩ := same (by rw [soaks]; nofun) (by rw [soaks]; nofun)
    have stays := may.of_not_waiting (by rw [state, soaks]; nofun)
    exact ⟨o, k, by rw [stays, state, soaks], by rw [run, same, Bed.watered_some some], q⟩
  · have same := taken.closing r closing some
    rw [may.of_not_waiting (by rw [same]; exact fun e => nomatch closing.symm.trans e), same]
  · obtain ⟨o, k, q, same, state⟩ := same (by rintro e; rw [e] at cycles; cases cycles) (by rintro ⟨e, -⟩; rw [e] at cycles; cases cycles)
    have stays := may.of_not_waiting (by rw [state]; rintro e; rw [e] at cycles; cases cycles)
    exact ⟨o, k, by rw [stays, state], by rw [run, same, Bed.watered_some some], q⟩

/-! ### The state that the order leaves for the end of the event -/

/-- What the order has made of one of its beds before the event's closing work. -/
structure Served (n : Nat) (b : BedId) (s u : State) : Prop where
  setup : u.sl = s.sl
  taken : WaterTaken n (s.bed b) (u.bed b)
  phase : u.sb.claim.phase = s.sb.claim.phase
  mild : u.sb.dirty = true → u.sb.claim.urgency ≠ .severe
  entry : ∀ e, (s.bed b).state = .claiming → s.ownEntry b.val = some e → e.urgency = (s.bed b).urgency →
    u.ownEntry b.val = some { e with urgency := wateredUrgency (s.bed b).urgency }

/-- A bed in CLAIMING at the end. -/
structure StillClaims (n : Nat) (b : BedId) (s t : State) : Prop where
  ordered : (t.bed b).ordered = true
  skip : (t.bed b).skip = false
  urgency : (t.bed b).urgency = wateredUrgency (s.bed b).urgency
  need : (s.bed b).run = none → (t.bed b).need = 10 * n
  run : ∀ r, (s.bed b).run = some r → (t.bed b).run = some { r with need := r.delivered + 10 * n }
  stays : t.sb.claim.phase = s.sb.claim.phase → (t.bed b).state = .claiming
    ∧ ∀ e, s.ownEntry b.val = some e → e.urgency = (s.bed b).urgency →
      t.ownEntry b.val = some { e with urgency := wateredUrgency (s.bed b).urgency }

theorem stillClaims (served : Served n b s u) (unbarred : s.sl.station ≠ .barred) (claiming : (s.bed b).state = .claiming)
    (simple : ((s.bed b).run = none ∧ (s.bed b).targets = none) ∨ u.finish.sb.claim.phase = s.sb.claim.phase) : StillClaims n b s u.finish := by
  have same : u.bed b = (s.bed b).watered n := served.taken.other (by rw [claiming]; nofun) (by rw [claiming]; nofun)
  obtain ⟨ordered, skip, urgency⟩ := Bed.watered_marks n (s.bed b)
  have here : (u.bed b).state = .claiming := by rw [same, Bed.watered_state, claiming]
  have stays (phase : u.finish.sb.claim.phase = s.sb.claim.phase) : u.finish.bed b = u.bed b ∧ u.finish.ownEntry b.val = u.ownEntry b.val :=
    finish_claiming b served.mild (phase.trans served.phase.symm) here
  have still (phase : u.finish.sb.claim.phase = s.sb.claim.phase) : (u.finish.bed b).state = .claiming
      ∧ ∀ e, s.ownEntry b.val = some e → e.urgency = (s.bed b).urgency →
        u.finish.ownEntry b.val = some { e with urgency := wateredUrgency (s.bed b).urgency } := by
    obtain ⟨bed, entry⟩ := stays phase
    exact ⟨by rw [bed, here], fun e own q => by rw [entry, served.entry e claiming own q]⟩
  rcases simple with ⟨none, targets⟩ | phase
  · have marks : SameMarks (u.bed b) (u.finish.bed b) := finish_marks b served.mild
      ⟨by rw [same, Bed.watered_targets, targets], by rw [served.setup]; exact unbarred, .inl ⟨by rw [same, Bed.watered_none none]; exact none, .inl here⟩⟩
    refine ⟨by rw [marks.ordered, same, ordered], by rw [marks.skip, same, skip], by rw [marks.urgency, same, urgency], fun _ => ?_, fun r some => ?_, still⟩
    · rw [marks.need, same, Bed.watered_none none]
    · rw [none] at some
      cases some
  · obtain ⟨bed, -⟩ := stays phase
    rw [same] at bed
    refine ⟨by rw [bed, ordered], by rw [bed, skip], by rw [bed, urgency], fun none => ?_, fun r some => ?_, still⟩
    · rw [bed, Bed.watered_none none]
    · rw [bed, Bed.watered_some some]

/-! ### By number -/

theorem frame_ownEntry (src len : Nat) (s : State) (k : Nat) : (s.frameTaken src len).ownEntry k = s.ownEntry k :=
  ownEntry_congr (frameTaken_own ..) (frameTaken_book ..) k

/-- The frame's end before the order. -/
theorem frame_clean (settled : Settled s) (src : Nat) : (s.frameTaken src 4).sb.dirty = true → (s.frameTaken src 4).sb.claim.urgency ≠ .severe := by
  rw [(frameTaken_settled src 4 settled).1]
  nofun

/-- The state that a WATER by number leaves. -/
def ordered (src n : Nat) (b : BedId) (s : State) : State := ((s.frameTaken src 4).waterBed n b).answer s.sl.own .ack

theorem water_number (hears : s.hearsOrder src) (passes : s.sl.station.passes .water = true) (low : 1 ≤ n) (high : n ≤ 2000)
    (present : s.presentBed sel = some b) (on : (s.bed b).state ≠ .off) (well : (s.bed b).state ≠ .faulted) :
    exec (.water src s.sl.own sel n) s = .next (ordered src n b s).finish := by
  have range : inRange 1 2000 n = true := by simp [inRange, low, high]
  rw [ordered, ← order_bed (act := State.waterBed n) (takes := State.takesWater) hears passes present]
  · change Host.Outcome.next (s.order src s.sl.own 4 (State.bedOrder s.sl.own sel .water (inRange 1 2000 n) _ _)) = _
    rw [range]
  · rw [State.takesWater, frameTaken_bed]
    simp [on, well]

theorem served_number (settled : Settled s) (src n : Nat) (b : BedId) : Served n b s (ordered src n b s) := by
  have waters := waters_waterBed n b (s.frameTaken src 4)
  have taken := waterTaken n b (s.frameTaken src 4)
  have bed : (ordered src n b s).bed b = ((s.frameTaken src 4).waterBed n b).bed b := by unfold ordered State.bed; rw [answer_bc]
  have sb : (ordered src n b s).sb = ((s.frameTaken src 4).waterBed n b).sb := answer_sb ..
  rw [frameTaken_bed, ← bed] at taken
  refine ⟨?_, taken, by rw [sb, waters.phase, frameTaken_claim], ?_, fun e claiming own q => ?_⟩
  · rw [ordered, answer_sl, waters.sl, frameTaken_own]
  · rw [sb]
    exact waters.mild (frame_clean settled src)
  · have entry := ownEntry_watered (n := n) (s := s.frameTaken src 4) (b := b) (e := e) (by rwa [frameTaken_bed]) (by rwa [frame_ownEntry])
      (by rwa [frameTaken_bed])
    rw [frameTaken_bed] at entry
    rw [← entry]
    exact ownEntry_congr (answer_sl ..) (by rw [answer_sb]) _

/-- A bed outside CLAIMING stays, but for an offer. -/
theorem number_may (settled : Settled s) (src n : Nat) (unclaimed : (s.bed b).state ≠ .claiming) :
    MayClaim ((ordered src n b s).bed b) ((ordered src n b s).finish.bed b) := by
  have rests := resting_waterBed n b (s.frameTaken src 4)
  refine (offered_finish ?_).beds b
  rw [ordered, answer_sb, rests.sb (by rwa [frameTaken_bed])]
  exact (frameTaken_settled src 4 settled).1

theorem claim_finish {q : Urgency} (mild : u.sb.dirty = true → u.sb.claim.urgency ≠ .severe) (phase : u.sb.claim.phase = s.sb.claim.phase)
    (live : s.sb.claim.live = true) (urgency : u.sb.claim.urgency = q) : u.finish.sb.claim.urgency = q := by
  rw [finish_urgency mild ?_, urgency]
  rw [phase]
  intro none
  rw [Claim.live, none] at live
  cases live

/-! ### By group (R180) -/

/-- One bed of the group. -/
def waterOne (n : Nat) (s : State) (d : BedId) : State := s.groupBed .water State.takesWater (State.waterBed n) d

theorem waters_refusal (k : OrderKind) (r : RefusalReason) (s : State) : Waters s (s.noteRefusal k r) :=
  .of_sb (inside_noteRefusal ..) rfl fun _ => .rfl

theorem waters_waterOne (s : State) (d : BedId) : Waters s (waterOne n s d) :=
  groupBed_keeps (fun r => waters_refusal .water r s) (waters_waterBed n d s)

/-- A WATER beside this bed. -/
structure Beside (b : BedId) (s t : State) : Prop extends Waters s t where
  bed : t.bed b = s.bed b
  entry : t.ownEntry b.val = s.ownEntry b.val

namespace Beside

theorem refl (b : BedId) (s : State) : Beside b s s := ⟨.refl s, rfl, rfl⟩

theorem trans (h : Beside b s t) (k : Beside b t u) : Beside b s u :=
  ⟨h.toWaters.trans k.toWaters, k.bed.trans h.bed, k.entry.trans h.entry⟩

end Beside

theorem beside_waterOne (ne : b ≠ d) (s : State) : Beside b s (waterOne n s d) :=
  groupBed_keeps (R := Beside b) (fun r => ⟨waters_refusal .water r s, rfl, rfl⟩)
    ⟨waters_waterBed n d s, (resting_waterBed n d s).others b ne, ownEntry_waterBed ne n s⟩

theorem beside_pass (out : b ∉ l) (s : State) : Beside b s (l.foldl (waterOne n) s) := by
  induction l generalizing s with
  | nil => exact .refl b s
  | cons d l ih =>
    obtain ⟨ne, out⟩ := not_or.1 (mt List.mem_cons.2 out)
    exact (beside_waterOne ne s).trans (ih out _)

/-- With no bed of it in CLAIMING, the pass leaves the supply book and the claim. -/
theorem pass_sb (unclaimed : ∀ d ∈ l, (s.bed d).state ≠ .claiming) : (l.foldl (waterOne n) s).sb = s.sb := by
  induction l generalizing s with
  | nil => rfl
  | cons d l ih =>
    have waters := waters_waterOne (n := n) s d
    have first : (waterOne n s d).sb = s.sb := groupBed_keeps (R := fun s t => t.sb = s.sb) (fun _ => rfl)
      ((resting_waterBed n d s).sb (unclaimed d List.mem_cons_self))
    rw [List.foldl_cons, ih fun e m => mt (waters.claiming e).1 (unclaimed e (List.mem_cons_of_mem _ m)), first]

/-- The pass before and after one bed of the group. -/
theorem pass_at (once : l.Nodup) (m : b ∈ l) (s : State) : ∃ l₁ l₂ : List BedId, (∀ d ∈ l₁, d ∈ l ∧ d ≠ b) ∧ (∀ d ∈ l₂, d ∈ l ∧ d ≠ b)
    ∧ Beside b s (l₁.foldl (waterOne n) s) ∧ Beside b (waterOne n (l₁.foldl (waterOne n) s) b) (l.foldl (waterOne n) s)
    ∧ l.foldl (waterOne n) s = l₂.foldl (waterOne n) (waterOne n (l₁.foldl (waterOne n) s) b) := by
  obtain ⟨l₁, l₂, rfl⟩ := List.append_of_mem m
  have split : (l₁ ++ b :: l₂).foldl (waterOne n) s = l₂.foldl (waterOne n) (waterOne n (l₁.foldl (waterOne n) s) b) := List.foldl_append
  obtain ⟨-, tail, apart⟩ := List.nodup_append.1 once
  have out₁ : b ∉ l₁ := fun h => apart b h b List.mem_cons_self rfl
  have out₂ : b ∉ l₂ := (List.nodup_cons.1 tail).1
  refine ⟨l₁, l₂, fun d h => ⟨List.mem_append_left _ h, fun e => out₁ (e ▸ h)⟩,
    fun d h => ⟨List.mem_append_right _ (List.mem_cons_of_mem _ h), fun e => out₂ (e ▸ h)⟩, beside_pass out₁ s, ?_, split⟩
  rw [split]
  exact beside_pass out₂ _

end Sys2Proof.WaterOrders

/-! PROOFS. WATER: the statement (R66, R105, R123, R180). -/

namespace Sys2Proof.WaterOrders

open Sys2Proof.Machine Sys2Proof.FramesAndOrders

variable {b d : BedId} {s t u v w x : State} {r : Run} {n src sel : Nat} {l : List BedId}

/-- The state that a WATER by group leaves. -/
def groupOrdered (src n : Nat) (l : List BedId) (s : State) : State := l.foldl (waterOne n) (s.frameTaken src 4)

theorem water_group (hears : s.hearsOrder src) (passes : s.sl.station.passes .water = true) (low : 1 ≤ n) (high : n ≤ 2000)
    (group : s.groupBeds sel = some l) : exec (.water src 0 sel n) s = .next (groupOrdered src n l s).finish := by
  have range : inRange 1 2000 n = true := by simp [inRange, low, high]
  have pass := order_beds (act := State.waterBed n) (takes := State.takesWater) (len := 4) hears passes group
  change Host.Outcome.next (s.order src 0 4 (State.bedOrder 0 sel .water (inRange 1 2000 n) State.takesWater (State.waterBed n))) = _
  rw [range, pass]
  rfl

/-- The group's setting: heard in time, its beds each once. -/
structure Group (src n : Nat) (l : List BedId) (s : State) : Prop where
  settled : Settled s
  once : l.Nodup

/-- Present, and neither OFF nor FAULTED. -/
def Takes (b : BedId) (s : State) : Prop := (s.setupOf b).present = true ∧ (s.bed b).state ≠ .off ∧ (s.bed b).state ≠ .faulted

namespace Group

variable (h : Group src n l s)
include h

theorem waters : Waters (s.frameTaken src 4) (groupOrdered src n l s) :=
  foldl_keeps Waters.refl (fun _ _ _ => Waters.trans) waters_waterOne l _

theorem mild : (groupOrdered src n l s).sb.dirty = true → (groupOrdered src n l s).sb.claim.urgency ≠ .severe := h.waters.mild (frame_clean h.settled src)

theorem phase : (groupOrdered src n l s).sb.claim.phase = s.sb.claim.phase := by rw [h.waters.phase, frameTaken_claim]

/-- The group's step at a bed that takes the order. -/
theorem step (takes : Takes b s) (before : Beside b (s.frameTaken src 4) x) : waterOne n x b = x.waterBed n b := by
  obtain ⟨present, on, well⟩ := takes
  refine groupBed_taken (by rw [before.setupOf, frameTaken_setupOf, present]) ?_
  rw [State.takesWater, before.bed, frameTaken_bed]
  simp [on, well]

theorem served (m : b ∈ l) (takes : Takes b s) : Served n b s (groupOrdered src n l s) := by
  obtain ⟨l₁, l₂, -, -, before, after, -⟩ := pass_at (n := n) h.once m (s.frameTaken src 4)
  rw [h.step takes before] at after
  generalize l₁.foldl (waterOne n) (s.frameTaken src 4) = x at before after
  have bed : x.bed b = s.bed b := by rw [before.bed, frameTaken_bed]
  have taken := waterTaken n b x
  rw [bed, ← after.bed] at taken
  refine ⟨by rw [h.waters.sl, frameTaken_own], taken, h.phase, h.mild, fun e claiming own q => ?_⟩
  rw [groupOrdered, after.entry, ownEntry_watered (e := e) (by rw [bed, claiming]) (by rw [before.entry, frame_ownEntry, own]) (by rw [bed, q]), bed]

/-- The claim of the group's only bed in CLAIMING. -/
theorem claim (m : b ∈ l) (takes : Takes b s) (only : ∀ d ∈ l, (s.bed d).state = .claiming → d = b) (claiming : (s.bed b).state = .claiming)
    (urgency : s.sb.claim.urgency = (s.bed b).urgency) : (groupOrdered src n l s).sb.claim.urgency = wateredUrgency (s.bed b).urgency := by
  obtain ⟨l₁, l₂, first, last, before, -, split⟩ := pass_at (n := n) h.once m (s.frameTaken src 4)
  rw [h.step takes before] at split
  have still : (l₁.foldl (waterOne n) (s.frameTaken src 4)).sb = (s.frameTaken src 4).sb := pass_sb fun d k => by
    rw [frameTaken_bed]
    exact fun e => (first d k).2 (only d (first d k).1 e)
  generalize l₁.foldl (waterOne n) (s.frameTaken src 4) = x at before still split
  have bed : x.bed b = s.bed b := by rw [before.bed, frameTaken_bed]
  have rest : (l₂.foldl (waterOne n) (x.waterBed n b)).sb = (x.waterBed n b).sb := pass_sb fun d k e => by
    have waters := before.toWaters.trans (waters_waterBed n b x)
    rw [waters.claiming d, frameTaken_bed] at e
    exact (last d k).2 (only d (last d k).1 e)
  rw [groupOrdered, split, rest, claim_watered (by rw [bed, claiming]) (by rw [still, frameTaken_claim, bed, urgency]), bed]

/-- A bed that does not take the order. -/
theorem passed (out : b ∉ l ∨ ¬ Takes b s) : (groupOrdered src n l s).bed b = s.bed b := by
  by_cases m : b ∈ l
  · have untaken := out.resolve_left fun e => e m
    obtain ⟨l₁, l₂, -, -, before, after, -⟩ := pass_at (n := n) h.once m (s.frameTaken src 4)
    have bed : (l₁.foldl (waterOne n) (s.frameTaken src 4)).bed b = s.bed b := by rw [before.bed, frameTaken_bed]
    have refused : (waterOne n (l₁.foldl (waterOne n) (s.frameTaken src 4)) b).bed b = (l₁.foldl (waterOne n) (s.frameTaken src 4)).bed b := by
      by_cases present : (s.setupOf b).present = true
      · have off : State.takesWater b (l₁.foldl (waterOne n) (s.frameTaken src 4)) = false := by
          refine Bool.eq_false_of_not_eq_true fun takes => untaken ⟨present, ?_⟩
          rw [State.takesWater, bed] at takes
          simpa using takes
        rw [waterOne, groupBed_refused (by rw [before.setupOf, frameTaken_setupOf, present]) off]
        rfl
      · rw [waterOne, groupBed_absent (by rw [before.setupOf, frameTaken_setupOf]; exact Bool.eq_false_of_not_eq_true present)]
        rfl
    rw [groupOrdered, after.bed, refused, bed]
  · rw [groupOrdered, (beside_pass m _).bed, frameTaken_bed]

/-- With no bed of the group in CLAIMING the book is settled as before. -/
theorem clean (unclaimed : ∀ d ∈ l, (s.bed d).state ≠ .claiming) (b : BedId) :
    MayClaim ((groupOrdered src n l s).bed b) ((groupOrdered src n l s).finish.bed b) := by
  refine (offered_finish ?_).beds b
  rw [groupOrdered, pass_sb fun d m => by rw [frameTaken_bed]; exact unclaimed d m]
  exact (frameTaken_settled src 4 h.settled).1

/-- Outside a cycle and CLAIMING a bed stays, but for an offer. -/
theorem may (sound : ClaimSound s ∨ ∀ d ∈ l, (s.bed d).state ≠ .claiming) (m : b ∈ l) (takes : Takes b s) (calm : (s.bed b).state.calm) :
    MayClaim ((groupOrdered src n l s).bed b) ((groupOrdered src n l s).finish.bed b) := by
  rcases sound with sound | unclaimed
  · have held : ClaimHeld (groupOrdered src n l s) := h.waters.held fun live => by
      rw [frameTaken_claim] at live ⊢
      rw [frameTaken_bed]
      exact sound.holds live
    have state := (h.waters.claiming b).not.2 (by rw [frameTaken_bed]; exact calm.2)
    refine (finish_calm (held.spares state) ⟨?_, state⟩).1
    have taken := (h.served m takes).taken
    by_cases closing : (s.bed b).state = .closing
    · cases run : (s.bed b).run with
      | some r => rw [taken.closing r closing run]; exact calm.1
      | none =>
        obtain ⟨l₁, l₂, -, -, before, after, -⟩ := pass_at (n := n) h.once m (s.frameTaken src 4)
        rw [h.step takes before] at after
        rw [groupOrdered, after.bed, waterBed_state, before.bed, frameTaken_bed, if_neg (by rw [closing]; nofun)]
        exact calm.1
    · by_cases idle : (s.bed b).state = .idle ∧ (s.bed b).run = none
      · rw [(taken.idle idle.1 idle.2).1]
        rfl
      · rw [taken.other closing idle, Bed.watered_state]
        exact calm.1
  · exact h.clean unclaimed b

end Group

/-! ### The statement -/

theorem takes_of (present : s.presentBed sel = some b) : (s.setupOf b).present = true := by
  unfold State.presentBed at present
  split at present
  · split at present
    · next on =>
      cases present
      exact on
    · cases present
  · cases present

theorem unbarred_of (passes : s.sl.station.passes .water = true) : s.sl.station ≠ .barred := by
  intro barred
  rw [barred] at passes
  cases passes

theorem calm_of {y : BedState} (h : y = .idle ∨ y = .waiting ∨ y = .soaking ∨ y = .closing) : y.calm := by
  rcases h with rfl | rfl | rfl | rfl <;> exact ⟨rfl, nofun⟩

/-- What the event leaves of a bed outside a cycle and CLAIMING, by its state. -/
theorem watered_by_state {z : Bed} (ends : (s.bed b).state.calm → Watered n (s.bed b) z) :
    ((s.bed b).state = .idle → (s.bed b).run = none → z.ordered = true ∧ z.skip = false ∧ z.need = 10 * n ∧ z.urgency = .dry ∧ z.waitAge = 0
        ∧ (z.state = .waiting ∨ z.state = .claiming))
      ∧ ((s.bed b).state = .waiting → (s.bed b).run = none → z.ordered = true ∧ z.skip = false ∧ z.need = 10 * n
        ∧ z.urgency = wateredUrgency (s.bed b).urgency ∧ (z.state = .waiting ∨ z.state = .claiming))
      ∧ (∀ r, (s.bed b).run = some r → (s.bed b).state = .waiting → z.ordered = true ∧ z.skip = false
        ∧ z.run = some { r with need := r.delivered + 10 * n } ∧ z.urgency = wateredUrgency (s.bed b).urgency
        ∧ (z.state = .waiting ∨ z.state = .claiming))
      ∧ (∀ r, (s.bed b).run = some r → (s.bed b).state = .soaking → z.ordered = true ∧ z.skip = false ∧ z.state = .soaking
        ∧ z.run = some { r with need := r.delivered + 10 * n } ∧ z.urgency = wateredUrgency (s.bed b).urgency)
      ∧ (∀ r, (s.bed b).run = some r → (s.bed b).state = .closing → z = { s.bed b with run := some { r with keptOrder := some n } }) :=
  ⟨fun e => (ends (calm_of (.inl e))).idle e, fun e => (ends (calm_of (.inr (.inl e)))).waits e,
    fun r run e => (ends (calm_of (.inr (.inl e)))).waitsOn r run e, fun r run e => (ends (calm_of (.inr (.inr (.inl e))))).soaks r run e,
    fun r run e => (ends (calm_of (.inr (.inr (.inr e))))).closing r run e⟩

/-- Settles O26: by number from the bed's own state, by group bed by bed. -/
theorem waterOrdersAVolume : Obligations.WaterOrdersAVolume := by
  intro src sel n s settled hears passes low high raised watered cycling claiming claim
  have unbarred := unbarred_of passes
  have of_claims {b : BedId} {t : State} (h : StillClaims n b s t) : (t.bed b).ordered = true ∧ (t.bed b).skip = false
      ∧ (t.bed b).urgency = raised b ∧ ((s.bed b).run = none → (t.bed b).need = 10 * n)
      ∧ (∀ r, (s.bed b).run = some r → (t.bed b).run = some { r with need := r.delivered + 10 * n })
      ∧ (t.sb.claim.phase = s.sb.claim.phase → (t.bed b).state = .claiming
        ∧ ∀ e, s.ownEntry b.val = some e → e.urgency = (s.bed b).urgency → t.ownEntry b.val = some { e with urgency := raised b }) :=
    ⟨h.ordered, h.skip, h.urgency, h.need, h.run, h.stays⟩
  refine ⟨fun b present on well => ?_, ?_⟩
  · have served := served_number settled src n b
    have inside := (resting_waterBed n b (s.frameTaken src 4)).toInside
    have ends (unclaimed : (s.bed b).state ≠ .claiming) : Watered n (s.bed b) ((ordered src n b s).finish.bed b) :=
      watered_of served.taken (number_may settled src n unclaimed)
    refine ⟨_, water_number hears passes low high present on well, ?_, ?_, watered_by_state fun calm => ends calm.2,
      fun r run cycles => (ends (ne_claiming_of_cycling cycles)).cycling r run cycles,
      fun claims simple => of_claims (stillClaims served unbarred claims simple), fun claims live own urgency => ?_⟩
    · rw [(inside_finish _).li, ordered, answer_answer .ack (by rw [inside.sl, frameTaken_own])]
    · exact ((inside.answered s.sl.own .ack).trans (inside_finish _)).further
    · refine claim_finish served.mild served.phase live ?_
      rw [ordered, answer_sb, claim_watered (by rw [frameTaken_bed, claims]) (by rw [frameTaken_claim, frameTaken_bed, urgency]), frameTaken_bed]
      rfl
  · intro l group sound takes
    have h : Group src n l s := ⟨settled, groupBeds_nodup group⟩
    have inside := h.waters.toInside
    refine ⟨_, water_group hears passes low high group, ?_, (inside.trans (inside_finish _)).further, fun b m taken => ⟨?_, fun claims simple => ?_⟩,
      fun b m taken only claims live own urgency => ?_, fun frozen => ?_⟩
    · rw [(inside_finish _).li, inside.li, frameTaken_answer]
    · exact watered_by_state fun calm => watered_of (h.served m taken).taken (h.may sound m taken calm)
    · exact of_claims (stillClaims (h.served m taken) unbarred claims simple)
    · exact claim_finish h.mild h.phase live (h.claim m taken only claims urgency)
    · have may (b : BedId) : MayClaim ((groupOrdered src n l s).bed b) ((groupOrdered src n l s).finish.bed b) := by
        rcases frozen with unclaimed | ⟨under, phase⟩
        · exact h.clean unclaimed b
        · refine finish_frozen b h.mild (h.waters.under ?_) (phase.trans h.phase.symm)
          rw [frameTaken_book, PeerEntries.frameTaken_budget]
          exact under
      refine ⟨fun b m taken r run cycles => (watered_of (h.served m taken).taken (may b)).cycling r run cycles, fun b out => ?_⟩
      obtain ⟨run, need, -, ordered, -⟩ := (may b).kept
      rw [h.passed out] at run need ordered
      exact ⟨need, ordered, run⟩

end Sys2Proof.WaterOrders

/-! PROOFS. The carry of twelfths of one bed under the operations of another (R148). -/

namespace Sys2Proof.Machine

variable {b d : BedId} {s t u v w : State} {c : EndCause}

/-- The bed's carry of twelfths is as before (R148). -/
structure SameCarry (b : BedId) (s t : State) : Prop where
  carry : t.fm.bedCarry.get b = s.fm.bedCarry.get b

namespace SameCarry

theorem refl (b : BedId) (s : State) : SameCarry b s s := ⟨rfl⟩

theorem trans (h : SameCarry b s t) (k : SameCarry b t u) : SameCarry b s u := ⟨k.carry.trans h.carry⟩

theorem of_fm (fm : t.fm = s.fm) : SameCarry b s t := ⟨by rw [fm]⟩

end SameCarry

/-! ### A bed's record -/

theorem carry_modBed (d : BedId) (f : Bed → Bed) (s : State) : SameCarry b s (s.modBed d f) := ⟨rfl⟩

theorem carry_noteOccasion (s : State) : SameCarry b s s.noteOccasion := ⟨rfl⟩

/-- A move between the two states that take credits keeps the bed's own carry too. -/
theorem carry_moveBed_credited {st : BedState} (credited : st.credited = true) (d : BedId) (s : State) : SameCarry b s (s.moveBed d st) := by
  refine ⟨?_⟩
  unfold State.moveBed
  dsimp only
  rw [if_pos credited]
  rfl

section Other

variable (ne : b ≠ d)
include ne

theorem carry_moveBed (st : BedState) (s : State) : SameCarry b s (s.moveBed d st) := by
  refine ⟨?_⟩
  unfold State.moveBed
  dsimp only
  split
  · rfl
  · exact PerBed.get_set_ne _ _ ne

theorem carry_setFaulted (f : BedFault) (s : State) : SameCarry b s (s.setFaulted d f) := (carry_moveBed ne .faulted s).trans (carry_modBed ..)

theorem carry_setIdle (s : State) : SameCarry b s (s.setIdle d) := by
  unfold State.setIdle
  split
  · exact carry_setFaulted ne ..
  · exact (carry_moveBed ne .idle s).trans (carry_modBed ..)

theorem carry_setWaiting (n : Nat) (s : State) : SameCarry b s (s.setWaiting d n) :=
  ((carry_moveBed ne .waiting s).trans (carry_modBed ..)).trans (carry_noteOccasion _)

omit ne in
theorem carry_setUrgency (d : BedId) (r : Urgency) (s : State) : SameCarry b s (s.setUrgency d r) := by
  unfold State.setUrgency
  dsimp only
  split
  · exact .refl ..
  · split
    · exact ⟨rfl⟩
    · split <;> exact ⟨rfl⟩
    · exact ⟨rfl⟩

omit ne in
theorem carry_takeUrgency (d : BedId) (r : Option (Nat × Urgency)) (s : State) : SameCarry b s (s.takeUrgency d r) := by
  unfold State.takeUrgency
  split
  · exact carry_setUrgency ..
  · split
    · exact carry_setUrgency ..
    · exact .refl ..

omit ne in
theorem carry_takeNeed (d : BedId) (r : Option (Nat × Urgency)) (s : State) : SameCarry b s (s.takeNeed d r) := by
  unfold State.takeNeed
  split
  · split
    · exact .refl ..
    · exact carry_modBed ..
  · exact .refl ..

theorem carry_evaluate (fresh : Bool) (s : State) : SameCarry b s (s.evaluate d fresh) := by
  unfold State.evaluate
  dsimp only
  split
  · exact .refl ..
  · split
    · split
      · exact carry_setFaulted ne ..
      · split
        · exact (carry_setWaiting ne ..).trans (carry_modBed ..)
        · exact .refl ..
    · split
      · exact carry_setIdle ne ..
      · split
        · exact carry_setIdle ne ..
        · split
          · exact carry_takeUrgency ..
          · exact (carry_takeNeed ..).trans (carry_takeUrgency ..)
    · split
      · exact carry_takeUrgency ..
      · exact (carry_takeNeed ..).trans (carry_takeUrgency ..)
    · exact .refl ..

theorem carry_bringTargets (s : State) : SameCarry b s (s.bringTargets d) := by
  unfold State.bringTargets
  split
  · exact .refl ..
  · dsimp only
    split
    · exact (carry_modBed ..).trans (carry_evaluate ne ..)
    · exact carry_modBed ..

theorem carry_toIdle (s : State) : SameCarry b s (s.toIdle d) := (carry_setIdle ne s).trans (carry_bringTargets ne _)

theorem carry_toWaiting (n : Nat) (s : State) : SameCarry b s (s.toWaiting d n) := (carry_setWaiting ne n s).trans (carry_bringTargets ne _)

theorem carry_toFaulted (f : BedFault) (s : State) : SameCarry b s (s.toFaulted d f) := (carry_setFaulted ne f s).trans (carry_bringTargets ne _)

theorem carry_enterAfter (a : After) (s : State) : SameCarry b s (s.enterAfter d a) := by
  cases a with
  | soak => exact ⟨(carry_moveBed ne .soaking s).carry⟩
  | wait n => exact carry_toWaiting ne ..
  | idle => exact carry_toIdle ne ..
  | fault f => exact carry_toFaulted ne ..

theorem carry_applyWater (n : Nat) (s : State) : SameCarry b s (s.applyWater d n) := by
  unfold State.applyWater
  refine (carry_modBed d (fun x => { x with ordered := true, skip := false }) s).trans ?_
  dsimp only
  split
  · exact (carry_modBed ..).trans (carry_setUrgency ..)
  · split
    · exact (carry_setWaiting ne ..).trans (carry_modBed ..)
    · exact (carry_modBed ..).trans (carry_setUrgency ..)

theorem carry_applyKept (k : Option Nat) (s : State) : SameCarry b s (s.applyKept d k) := by
  unfold State.applyKept
  split
  · exact .refl ..
  · split
    · exact ⟨rfl⟩
    · split
      · exact .refl ..
      · exact (carry_modBed ..).trans (carry_applyWater ne ..)

omit ne in
theorem carry_offer (n : Notice) (s : State) : SameCarry b s (s.offer n) := .of_fm (by rw [Overdraw.offer_rest])

omit ne in
theorem carry_remove (st bd : Nat) (s : State) : SameCarry b s (s.remove st bd) := .of_fm (by rw [Overdraw.remove_rest])

omit ne in
theorem carry_freeBed (d : BedId) (s : State) : SameCarry b s (s.freeBed d) := (carry_offer ..).trans (carry_remove ..)

theorem carry_bedClosed (s : State) : SameCarry b s (s.bedClosed d) := by
  unfold State.bedClosed
  split
  · refine ((carry_freeBed d s).trans (carry_bringTargets ne _)).trans ?_
    dsimp only
    split
    · exact (carry_enterAfter ne ..).trans (carry_applyKept ne ..)
    · exact carry_toIdle ne ..
  · exact .refl ..

/-! ### The valve drive -/

omit ne in
theorem carry_setValve (d : BedId) (v : ValveState) (s : State) : SameCarry b s (s.setValve d v) := ⟨rfl⟩

omit ne in
theorem carry_freeChannel (d : BedId) (s : State) : SameCarry b s (s.freeChannel d) := ⟨rfl⟩

omit ne in
theorem carry_dropRequest (d : BedId) (s : State) : SameCarry b s { s with vd.queue := s.vd.queue.filter fun r => decide (r.bed ≠ d) } := ⟨rfl⟩

theorem carry_valveClosed (s : State) : SameCarry b s (s.valveClosed d) := (carry_setValve ..).trans (carry_bedClosed ne _)

omit ne in
theorem carry_queueRequest (d : BedId) (x : Direction) (s : State) : SameCarry b s (s.queueRequest d x) :=
  .of_fm (by rw [Overdraw.queueRequest_rest])

theorem carry_closeRequest (s : State) : SameCarry b s (s.closeRequest d) := by
  unfold State.closeRequest
  split
  · exact carry_bedClosed ne _
  · unfold State.closeOpening
    split
    · exact (carry_dropRequest d s).trans (carry_valveClosed ne _)
    · exact carry_queueRequest ..
  · exact (carry_setValve ..).trans (carry_queueRequest ..)
  · exact .refl ..
  · exact carry_queueRequest ..
  · unfold State.closeHeldOpening
    split
    · exact ⟨rfl⟩
    all_goals exact (carry_freeChannel d s).trans (carry_valveClosed ne _)
  · exact (carry_freeChannel d s).trans (carry_valveClosed ne _)
  all_goals exact .refl ..

theorem carry_endCycle (c : EndCause) (s : State) : SameCarry b s (s.endCycle d c) := by
  have ends : SameCarry b s (Overdraw.ending d c s) := (carry_moveBed ne ..).trans (carry_modBed ..)
  unfold State.endCycle
  dsimp only
  split
  · exact ends
  · exact ends.trans (carry_closeRequest ne _)

omit ne in
theorem carry_openRequest (d : BedId) (s : State) : SameCarry b s (s.openRequest d) := by
  unfold State.openRequest
  split
  · split
    · exact (carry_setValve ..).trans (carry_queueRequest ..)
    · unfold State.takeChannel
      dsimp only
      split <;> exact ⟨rfl⟩
  · exact .refl ..

end Other

end Sys2Proof.Machine

/-! PROOFS. A cycle that takes credits, through the work that closes an event: it goes on, or one of that work's own cuts ends it. -/

namespace Sys2Proof.Machine

open HoldJoins (SameFault sameFault_endClaim sameFault_withdraw)
open SkipOrders (unshut_opened)

variable {b d : BedId} {s t u v w x : State} {r : Run} {c : EndCause}

/-! ### A cycle that goes on, and one that is cut -/

/-- The cycle goes on: it takes credits, with its run record, its valve where it was. -/
structure Stays (b : BedId) (s t : State) : Prop where
  credited : (t.bed b).state.credited = true
  run : (t.bed b).run = (s.bed b).run
  valve : t.valve b = s.valve b

/-- The causes by which a window's end or the closing of its event can cut a cycle. -/
def EndCause.cuts (c : EndCause) : Prop := c = .leak ∨ c = .noflow ∨ c = .overdraw ∨ c = .line ∨ c = .shed

theorem EndCause.cuts.plain (h : c.cuts) : c.plain := by
  rcases h with e | e | e | e | e <;> rw [e] <;> exact ⟨nofun, nofun, nofun⟩

/-- A cut has ended the cycle: the bed is in no cycle, and where its valve still has to close it is in CLOSING. -/
structure CutShort (b : BedId) (s t : State) : Prop where
  calm : (t.bed b).state.calm
  ended : s.valve b = .opened → (s.setupOf b).kind = .latch → ∀ r, (s.bed b).run = some r → ∃ c : EndCause, c.cuts ∧ CycleEnded b r c s t

/-- The cycle of the bed goes on, or a cut has ended it. -/
def Fares (b : BedId) (s t : State) : Prop := Stays b s t ∨ CutShort b s t

theorem Stays.of_aside (credited : (s.bed b).state.credited = true) (h : Aside b s t) : Stays b s t :=
  ⟨by rw [h.bed, credited], by rw [h.bed], h.valve⟩

theorem Stays.refl (credited : (s.bed b).state.credited = true) : Stays b s s := ⟨credited, rfl, rfl⟩

theorem Fares.stays (h : Stays b s t) (setup : t.setupOf b = s.setupOf b) (k : Fares b t u) : Fares b s u := by
  rcases k with stays | cut
  · exact .inl ⟨stays.credited, stays.run.trans h.run, stays.valve.trans h.valve⟩
  · refine .inr ⟨cut.calm, fun opened latch r run => ?_⟩
    obtain ⟨c, cuts, ended⟩ := cut.ended (by rw [h.valve, opened]) (by rw [setup, latch]) r (by rw [h.run, run])
    exact ⟨c, cuts, ended.state, ended.run, by rw [ended.valve, h.valve]⟩

theorem Fares.cut (h : CutShort b s t) (k : Aside b t u) : Fares b s u := by
  refine .inr ⟨by rw [k.bed]; exact h.calm, fun opened latch r run => ?_⟩
  obtain ⟨c, cuts, ended⟩ := h.ended opened latch r run
  exact ⟨c, cuts, cycleEnded_after ended k⟩

theorem cutShort_endCycle (cuts : c.cuts) : CutShort b s (s.endCycle b c) :=
  ⟨endCycle_rests b c s, fun opened latch _ run => ⟨c, cuts, cycleEnded_endCycle cuts.plain run (unshut_opened opened latch)⟩⟩

/-! ### The closing work -/

/-- What the closing work further leaves: the carry of a bed that takes credits, each cycle in its course or cut, the draw entry,
and, where the line is not lost, the fault record. -/
structure Tracks (s t : State) : Prop extends Worked s t where
  carries : ∀ b, (t.bed b).state.credited = true → SameCarry b s t
  fares : ∀ b, s.sb.claim.spares b → (s.bed b).state.credited = true → Fares b s t
  draw : t.ownEntry 8 = s.ownEntry 8
  fault : s.lineLost = false → SameFault s t

theorem Inside.notLost (h : Inside s t) (line : s.lineLost = false) : t.lineLost = false := by
  have lost := mt (lineLost_iff t).1
  refine Bool.eq_false_of_not_eq_true (lost fun ⟨due, absent⟩ => ?_)
  rw [h.li, h.now] at due
  refine absurd ((lineLost_iff s).2 ⟨due, ?_⟩) (by rw [line]; nofun)
  exact Bool.eq_false_of_not_eq_true fun present => by rw [h.keepsLine present] at absent; cases absent

namespace Tracks

theorem refl (s : State) : Tracks s s := ⟨.refl s, fun b _ => .refl b s, fun _ _ e => .inl (.refl e), rfl, fun _ => ⟨rfl, rfl⟩⟩

theorem trans (h : Tracks s t) (k : Tracks t u) : Tracks s u where
  toWorked := h.toWorked.trans k.toWorked
  carries b e := by
    have before : (t.bed b).state.credited = true := by
      cases out : (t.bed b).state.credited with
      | true => rfl
      | false => rw [k.credited b out] at e; cases e
    exact (h.carries b before).trans (k.carries b e)
  fares b spares e := by
    rcases h.fares b spares e with stays | cut
    · exact Fares.stays stays (h.setupOf b) (k.fares b (h.claim.spares b spares) stays.credited)
    · exact Fares.cut cut (k.calm b (h.claim.spares b spares) cut.calm)
  draw := k.draw.trans h.draw
  fault line := (h.fault line).trans (k.fault (h.toInside.notLost line))

end Tracks

theorem tracks_ite {p : Prop} [Decidable p] (ht : p → Tracks s t) (hu : ¬p → Tracks s u) : Tracks s (if p then t else u) := by
  split
  · exact ht ‹_›
  · exact hu ‹_›

theorem tracks_foldl {α : Type} {f : State → α → State} (hf : ∀ s a, Tracks s (f s a)) (l : List α) (s : State) : Tracks s (l.foldl f s) := by
  induction l generalizing s with
  | nil => exact .refl s
  | cons a l ih => exact (hf s a).trans (ih _)

/-- An operation that leaves beds, drive and carries. -/
theorem tracks_same (h : Worked s t) (beds : t.bc.beds = s.bc.beds) (vd : t.vd = s.vd) (fm : t.fm = s.fm)
    (draw : t.ownEntry 8 = s.ownEntry 8) (fault : SameFault s t) : Tracks s t where
  toWorked := h
  carries _ _ := .of_fm fm
  fares _ _ e := .inl (.of_aside e (aside_same (by rw [h.sl]) beds vd))
  draw := draw
  fault _ := fault

/-- An operation of one bed that is in no cycle after it. -/
theorem tracks_bed (h : Worked s t) (op : Bedwise d s t) (carry : ∀ b, b ≠ d → SameCarry b s t) (rests : (t.bed d).state.calm)
    (cut : (s.bed d).state.credited = true → CutShort d s t) (draw : t.ownEntry 8 = s.ownEntry 8) : Tracks s t where
  toWorked := h
  carries b e := carry b fun eq => by rw [eq, credited_of_cycling rests.1] at e; cases e
  fares b _ e := by
    by_cases eq : b = d
    · subst eq
      exact .inr (cut e)
    · exact .inl (.of_aside e (op.aside b eq))
  draw := draw
  fault _ := op.fault

theorem val_ne_draw (b : BedId) : (8 : Nat) ≠ b.val := fun e => absurd b.isLt (by omega)

theorem draw_bedwise (op : Bedwise d s t) (unclaimed : (s.bed d).state ≠ .claiming) : t.ownEntry 8 = s.ownEntry 8 := by
  rcases op.book unclaimed with ⟨book, -⟩ | ⟨book, -⟩
  · exact ownEntry_congr op.sl book 8
  · unfold State.ownEntry State.entry
    rw [op.sl, book]
    exact find_removeEntry_ne (val_ne_draw d) _

theorem tracks_endCycle (cycling : (s.bed d).state.cycling = true) (cuts : c.cuts) : Tracks s (s.endCycle d c) :=
  tracks_bed (worked_endCycle cycling c) (bedwise_endCycle d c s) (fun _ ne => carry_endCycle ne c s) (endCycle_rests d c s)
    (fun _ => cutShort_endCycle cuts) (draw_bedwise (bedwise_endCycle d c s) (ne_claiming_of_cycling cycling))

theorem tracks_cut (d : BedId) (cuts : c.cuts) (s : State) : Tracks s (s.cut d c) :=
  tracks_ite (fun h => tracks_endCycle h cuts) fun _ => .refl s

/-! ### The claim's end (R71, R81) -/

theorem tracks_toWaiting (claiming : (s.bed d).state = .claiming) (n : Nat) : Tracks s (s.toWaiting d n) :=
  tracks_bed (worked_toWaiting claiming n) (bedwise_resting (resting_toWaiting d n s)) (fun _ ne => carry_toWaiting ne n s) (toWaiting_calm d n s)
    (fun e => by rw [claiming] at e; cases e) (ownEntry_congr (resting_toWaiting d n s).sl (by rw [toWaiting_sb]) 8)

theorem tracks_noteOccasion (s : State) : Tracks s s.noteOccasion := tracks_same (worked_noteOccasion s) rfl rfl rfl rfl ⟨rfl, rfl⟩

theorem tracks_claim {e : Claim} (h : s.sb.claim.Onward e) : Tracks s { s with sb.claim := e } :=
  tracks_same (worked_claim h) rfl rfl rfl rfl ⟨rfl, rfl⟩

theorem tracks_offer (n : Notice) (kind : n.isTally = false) (shed : n.isShed = false) (s : State) : Tracks s (s.offer n) := by
  have rest := Overdraw.offer_rest n s
  exact tracks_same (worked_offer n kind shed s) (by rw [rest]) (by rw [rest]) (by rw [rest])
    (ownEntry_congr (by rw [rest]) (by rw [offer_claim]) 8) (offer_fault n s)

theorem endClaim_draw (s : State) : s.endClaim.ownEntry 8 = s.ownEntry 8 := by
  have book : s.endClaim.sb.book = ((s.offer (.drop s.sb.claim.bed)).remove s.sl.own s.sb.claim.bed.val).sb.book := rfl
  have setup : s.endClaim.sl = s.sl := (worked_endClaim s).sl
  unfold State.ownEntry State.entry
  rw [setup, book]
  unfold State.remove
  split
  · change (removeEntry _ _ (s.offer (.drop s.sb.claim.bed)).sb.book).find? _ = _
    rw [find_removeEntry_ne (val_ne_draw _), offer_claim]
  · rw [offer_claim]

theorem tracks_endClaim (s : State) : Tracks s s.endClaim := by
  have rest := endClaim_rest s
  exact tracks_same (worked_endClaim s) (by rw [rest]) (by rw [rest]) (by rw [rest]) (endClaim_draw s) (sameFault_endClaim s)

theorem tracks_dropClaim (s : State) : Tracks s s.dropClaim := by
  unfold State.dropClaim
  extract_lets e t
  exact tracks_ite (fun h => (tracks_endClaim s).trans (tracks_toWaiting h _)) fun _ => tracks_endClaim s

theorem tracks_cancel (p : Notice → Bool) (own : ∀ n, p n = true → n.isClaim = true ∨ n.isShed = true) (s : State) : Tracks s (s.cancel p) := by
  have rest := cancel_rest p s
  exact tracks_same (worked_cancel p own s) (by rw [rest]) (by rw [rest]) (by rw [rest]) (ownEntry_congr (by rw [rest]) (by rw [cancel_sb]) 8)
    (by rw [rest]; exact ⟨rfl, rfl⟩)

theorem withdraw_draw (s : State) : s.withdraw.ownEntry 8 = s.ownEntry 8 := by
  have cancelled (p : Notice → Bool) (s : State) : (s.cancel p).ownEntry 8 = s.ownEntry 8 :=
    ownEntry_congr (by rw [cancel_rest]) (by rw [cancel_sb]) 8
  unfold State.withdraw
  split
  · rfl
  · rfl
  · dsimp only
    split
    · exact cancelled Notice.isClaim s
    · exact cancelled Notice.isClaim s
  · exact endClaim_draw s
  · exact endClaim_draw s
  · dsimp only
    split
    · exact cancelled Notice.isShed _
    · exact (endClaim_draw _).trans (cancelled Notice.isShed _)

theorem tracks_withdraw (s : State) : Tracks s s.withdraw := by
  have rest := withdraw_rest s
  exact tracks_same (worked_withdraw s) (by rw [rest]) (by rw [rest]) (by rw [rest]) (withdraw_draw s) (sameFault_withdraw s)

theorem tracks_withdrawToWaiting (claiming : (s.bed d).state = .claiming) : Tracks s (s.withdrawToWaiting d) :=
  (tracks_withdraw s).trans (tracks_toWaiting (by rw [withdraw_bed, claiming]) 0)

/-! ### The join of LINE, and a commit (R18, R70, R100) -/

theorem tracks_holdLine (d : BedId) (s : State) : Tracks s (s.holdBed .line d) := by
  by_cases cycling : (s.bed d).state.cycling = true
  · rw [holdBed_cycling cycling]
    exact tracks_endCycle cycling (.inr (.inr (.inr (.inl rfl))))
  · by_cases claiming : (s.bed d).state = .claiming
    · rw [holdBed_claiming claiming, if_neg fun h => by cases h.1]
      exact tracks_withdrawToWaiting claiming
    · rw [holdBed_calm ⟨by simpa using cycling, claiming⟩]
      exact .refl s

theorem tracks_joinLine (s : State) : Tracks s (s.joinHold .line) := by
  by_cases h : s.bc.holds.has .line = true
  · rw [joinHold_present h]
    exact .refl s
  · have absent : s.bc.holds.has .line = false := by simpa using h
    have joins : Tracks s { s with bc.holds := s.bc.holds.put .line true } :=
      tracks_same (worked_same (inside_putLine s) rfl rfl (.refl _) (fun _ _ _ => rfl) id (fun _ h _ _ => h) fun _ h => h) rfl rfl rfl rfl ⟨rfl, rfl⟩
    rw [joinHold_absent absent]
    exact (joins.trans (tracks_foldl (fun s d => tracks_holdLine d s) allBeds _)).trans (tracks_noteOccasion _)

theorem tracks_ownCommitted (s : State) : Tracks s s.ownCommitted := by
  refine tracks_ite (fun lost => ?_) fun _ => .refl s
  have joins := tracks_joinLine s
  have rest := closeLine_rest s
  have alert (b : BedId) : Aside b (s.joinHold .line) s.closeLine := by
    rw [rest]
    exact aside_same rfl rfl rfl
  refine ⟨worked_closeLine ((lineLost_iff s).1 lost).2, fun b e => ?_, fun b spares e => ?_, ?_, fun line => by rw [line] at lost; cases lost⟩
  · exact (joins.carries b (by rw [← (alert b).bed, e])).trans (.of_fm (by rw [rest]))
  · rcases joins.fares b spares e with stays | cut
    · exact Fares.stays stays (joins.setupOf b) (.inl (.of_aside stays.credited (alert b)))
    · exact Fares.cut cut (alert b)
  · exact (ownEntry_congr (by rw [rest]) (by rw [rest]) 8).trans joins.draw

theorem tracks_committing (s : State) : Tracks s s.committing := by
  have entry : Tracks s (s.putBook (updateEntry s.sl.own s.sb.claim.bed.val (fun e => { e with committed := true, heard := s.now }) s.sb.book)) := by
    refine tracks_same (worked_updateOwn _ (fun e => { e with committed := true, heard := s.now }) (fun _ => ⟨rfl, rfl⟩) s) rfl rfl rfl ?_ ⟨rfl, rfl⟩
    exact PeerNotices.find_updateEntry_ne (f := fun e => { e with committed := true, heard := s.now }) (fun _ => ⟨rfl, rfl⟩) (val_ne_draw _) _
  exact (entry.trans (tracks_claim (e := { s.sb.claim with
    phase := .ending, resolveSince := none, victimSince := none, outcome := none, seniors := [] }) (.ending rfl rfl))).trans
      (tracks_offer (.commit s.sb.claim.bed) rfl rfl _)

theorem tracks_commitClaim (can : ¬ s.sb.claim.inert) : Tracks s s.commitClaim := by
  have before := tracks_committing s
  have drive := driveOnly_openRequest s.sb.claim.bed (s.committing.startCycle s.sb.claim.bed)
  have aside (b : BedId) (ne : b ≠ s.sb.claim.bed) : Aside b s.committing s.opened :=
    (aside_startCycle ne _).trans (aside_openRequest ne _)
  have opens : Tracks s s.opened := by
    refine ⟨worked_opened can, fun b e => ?_, fun b spares e => ?_, ?_, fun _ => ?_⟩
    · by_cases own : b = s.sb.claim.bed
      · rw [own, opened_bed_any] at e
        cases e
      · exact (before.carries b (by rw [← (aside b own).bed, e])).trans
          ((((carry_moveBed own ..).trans (carry_modBed ..))).trans (carry_openRequest ..))
    · have own : b ≠ s.sb.claim.bed := fun eq => (spares.resolve_right can) eq.symm
      rcases before.fares b spares e with stays | cut
      · exact Fares.stays stays (before.setupOf b) (.inl (.of_aside stays.credited (aside b own)))
      · exact Fares.cut cut (aside b own)
    · have book : s.opened.sb = s.committing.sb := (opened_drive s).sb
      exact (ownEntry_congr (show s.opened.sl = s.committing.sl by rw [opened_drive s]; rfl) (by rw [book]) 8).trans before.draw
    · have alert : s.opened.au = s.committing.au := by rw [opened_drive s]; rfl
      exact (before.fault ‹_›).trans ⟨by rw [alert], by rw [alert]⟩
  rw [commitClaim_opened]
  exact opens.trans (tracks_ownCommitted _)

/-! ### The resolution (R69 to R77) -/

theorem tracks_shedClaim (can : ¬ s.sb.claim.inert) (unmade : s.sb.claim.shedMade = false) : Tracks s s.shedClaim := by
  have whole := worked_shedClaim can unmade
  unfold State.shedClaim at whole ⊢
  split
  · exact tracks_dropClaim s
  · rename_i e victim
    rw [victim] at whole
    dsimp only at whole
    split
    · have sheds : Tracks s { s with sb.claim := s.sb.claim.sheds e s.now } := tracks_claim (.resolved can (.inr (.inr rfl)) rfl rfl)
      rw [shedOwn_eq]
      split
      · exact sheds.trans (tracks_cut _ (.inr (.inr (.inr (.inr rfl)))) _)
      · exact sheds
    · rename_i peer
      rw [if_neg peer] at whole
      have rest := Overdraw.offer_rest (.shed e.station e.bed s.sb.claim.bed) { s with sb.claim := s.sb.claim.asks e }
      rw [shedPeer_eq] at whole ⊢
      exact tracks_same whole (by rw [rest]) (by rw [rest]) (by rw [rest]) (ownEntry_congr (by rw [rest]) (by rw [offer_claim]) 8)
        (offer_fault (.shed e.station e.bed s.sb.claim.bed) { s with sb.claim := s.sb.claim.asks e })

theorem tracks_resolve (can : ¬ s.sb.claim.inert) : Tracks s s.resolve :=
  tracks_ite (fun _ => tracks_commitClaim can) fun _ => tracks_ite (fun h => tracks_shedClaim can h.2) fun _ => tracks_dropClaim s

theorem tracks_applyHeld (asking : s.sb.claim.phase = .asking) : Tracks s s.applyHeld := by
  unfold State.applyHeld
  split
  · rename_i held
    have clear : Tracks s { s with sb.claim := { s.sb.claim with outcome := none } } :=
      tracks_claim (.same rfl rfl (by simp [Claim.live, asking, held]) rfl)
    exact clear.trans (tracks_resolve (not_inert_of_asking (c := { s.sb.claim with outcome := none }) asking nofun))
  · exact tracks_endClaim s
  · exact .refl s

theorem tracks_victimLeaves (s : State) : Tracks s s.victimLeaves := by
  unfold State.victimLeaves
  split
  · exact tracks_resolve (not_inert_of_awaiting ‹_›)
  · rename_i asking none
    have holds : Tracks s { s with sb.claim := { s.sb.claim with outcome := some .reResolve } } :=
      tracks_claim (.same rfl rfl (by simp [Claim.live, asking, none]) rfl)
    have cancels := holds.trans (tracks_cancel Notice.isShed (fun _ => .inr) _)
    refine tracks_ite (fun _ => cancels) fun _ => cancels.trans (tracks_applyHeld ?_)
    rw [cancel_sb]
    exact asking
  all_goals exact .refl s

/-! ### The book's steps (R40) -/

theorem tracks_cutOver (e : Entry) (s : State) : Tracks s (s.cutOver e) := by
  unfold State.cutOver
  split
  · split
    · exact tracks_cut _ (.inr (.inr (.inl rfl))) s
    · exact .refl s
  · exact .refl s

theorem tracks_marks (x o : Bool) (s : State) : Tracks s { s with sb.dirty := x, bc.occasion := o } :=
  tracks_same (worked_marks x o s) rfl rfl rfl rfl ⟨rfl, rfl⟩

theorem tracks_checked (s : State) : Tracks s s.checked := by
  have cuts : Tracks { s with sb.dirty := false } (State.overdraw { s with sb.dirty := false }) := tracks_foldl (fun s e => tracks_cutOver e s) _ _
  refine ((tracks_marks false s.bc.occasion s).trans cuts).trans ?_
  obtain ⟨y, e⟩ := clearSaturated_eq (State.overdraw { s with sb.dirty := false })
  have clears := worked_clearSaturated (State.overdraw { s with sb.dirty := false })
  rw [e] at clears
  unfold State.checked
  rw [e]
  exact tracks_same clears rfl rfl rfl rfl ⟨rfl, rfl⟩

theorem tracks_report (s : State) : Tracks s s.report := by
  have lists : Tracks s s.relisted := tracks_claim (.same rfl rfl rfl rfl)
  rw [report_eq]
  split
  · rename_i resolving
    exact tracks_ite (fun _ => lists.trans (tracks_resolve (not_inert_of_resolving (s := s.relisted) resolving))) fun _ => lists
  · exact tracks_ite (fun _ => lists.trans (tracks_victimLeaves _)) fun _ => lists
  · exact tracks_ite (fun _ => lists.trans (tracks_victimLeaves _)) fun _ => lists
  all_goals exact lists

theorem tracks_bookSteps (s : State) : Tracks s s.bookSteps :=
  ((tracks_checked s).trans (tracks_report _)).trans (tracks_noteOccasion _)

theorem tracks_settleBook (n : Nat) (s : State) : Tracks s (s.settleBook n) := by
  induction n generalizing s with
  | zero => exact .refl s
  | succ n ih => exact tracks_ite (fun _ => (tracks_bookSteps s).trans (ih _)) fun _ => .refl s

theorem tracks_bookSettled (s : State) : Tracks s s.bookSettled := (tracks_settleBook settleLaps s).trans (tracks_marks false false _)

end Sys2Proof.Machine

/-! PROOFS. The credits of a window: the shares of its volume, one bed's credit, and the pass over the beds (R116, R118, R147, R148). -/

namespace Sys2Proof.Machine

open HoldJoins (SameFault)

variable {b d : BedId} {s t u v w x : State} {r : Run} {c : EndCause} {n k : Nat}

/-! ### Shares (R148) -/

/-- Whole parts of a volume in the ratio of some of the flows come to no more than it. -/
theorem sum_parts_mul_le (v total : Nat) (flows : List Nat) : (flows.map fun f => v * f / total).sum * total ≤ v * flows.sum := by
  induction flows with
  | nil => simp
  | cons f l ih =>
    rw [List.map_cons, List.sum_cons, List.sum_cons, Nat.add_mul, Nat.mul_add]
    exact Nat.add_le_add (Nat.div_mul_le_self _ _) ih

theorem sum_parts_le (v : Nat) (flows : List Nat) : (flows.map fun f => v * f / flows.sum).sum ≤ v := by
  by_cases none : flows.sum = 0
  · rw [none]
    simp
  · exact Nat.le_of_mul_le_mul_right (sum_parts_mul_le v flows.sum flows) (Nat.pos_of_ne_zero none)

theorem shares_cons (v total f : Nat) (flows : List Nat) : shares v total (f :: flows)
    = (v * f / total + (v - (v * f / total + (flows.map fun g => v * g / total).sum))) :: flows.map fun g => v * g / total := rfl

/-- The first bed's share is what the others leave. -/
theorem shares_head (v f : Nat) (flows : List Nat) : shares v (f :: flows).sum (f :: flows)
    = (v - (flows.map fun g => v * g / (f :: flows).sum).sum) :: flows.map fun g => v * g / (f :: flows).sum := by
  have within := sum_parts_le v (f :: flows)
  rw [List.map_cons, List.sum_cons] at within
  rw [shares_cons]
  generalize (flows.map fun g => v * g / (f :: flows).sum).sum = rest at within ⊢
  generalize v * f / (f :: flows).sum = first at within ⊢
  rw [show first + (v - (first + rest)) = v - rest by omega]

/-! ### A credit of one bed -/

/-- What the credits leave: all but the volumes, and the ends of the cycles that they bring. -/
structure Bills (s t : State) : Prop where
  outer : t.outer = s.outer
  peers : t.peers = s.peers
  sameHolds : t.bc.holds = s.bc.holds
  claim : t.sb.claim = s.sb.claim
  credited : ∀ b, (s.bed b).state.credited = false → (t.bed b).state.credited = false
  rests : ∀ b, (s.bed b).state.credited = false → Aside b s t
  waits : ∃ l, t.tq.queue = s.tq.queue ++ l
  absent : ∀ n, s.hasEntry s.sl.own n = false → t.hasEntry s.sl.own n = false
  draw : t.ownEntry 8 = s.ownEntry 8
  room : t.sb.book.length ≤ s.sb.book.length
  latches : ∀ c, c ≠ .discard → t.latch c = s.latch c
  fault : SameFault s t

namespace Bills

theorem refl (s : State) : Bills s s :=
  ⟨rfl, rfl, rfl, rfl, fun _ => id, fun b _ => .refl b s, ⟨[], by simp⟩, fun _ => id, rfl, le_rfl, fun _ _ => rfl, ⟨rfl, rfl⟩⟩

theorem field {α : Type} (h : Bills s t) (f : State → α) : f t.outer = f s.outer := congrArg f h.outer

theorem sl (h : Bills s t) : t.sl = s.sl := h.field fun y => y.sl
theorem li (h : Bills s t) : t.li = s.li := h.field fun y => y.li
theorem now (h : Bills s t) : t.now = s.now := h.field fun y => y.now

theorem trans (h : Bills s t) (k : Bills t u) : Bills s u where
  outer := k.outer.trans h.outer
  peers := k.peers.trans h.peers
  sameHolds := k.sameHolds.trans h.sameHolds
  claim := k.claim.trans h.claim
  credited b e := k.credited b (h.credited b e)
  rests b e := (h.rests b e).trans (k.rests b (h.credited b e))
  waits := by
    obtain ⟨l, e⟩ := h.waits
    obtain ⟨m, g⟩ := k.waits
    exact ⟨l ++ m, by rw [g, e, List.append_assoc]⟩
  absent n e := by rw [← h.sl]; exact k.absent n (by rw [h.sl]; exact h.absent n e)
  draw := k.draw.trans h.draw
  room := k.room.trans h.room
  latches c ne := (k.latches c ne).trans (h.latches c ne)
  fault := h.fault.trans k.fault

end Bills

theorem hasEntry_own (h : Inside s t) (n : Nat) (absent : s.hasEntry s.sl.own n = false) : t.hasEntry s.sl.own n = false := by
  rw [Overdraw.hasEntry_eq_false_iff] at absent ⊢
  exact fun m => absent (h.names.subset m)

theorem bills_endCycle (credited : (s.bed d).state.credited = true) (c : EndCause) : Bills s (s.endCycle d c) := by
  have op := bedwise_endCycle d c s
  have unclaimed : (s.bed d).state ≠ .claiming := fun e => by rw [e] at credited; cases credited
  have other (b : BedId) (e : (s.bed b).state.credited = false) : b ≠ d := fun eq => by rw [eq, credited] at e; cases e
  refine ⟨op.outer, op.peers, op.sameHolds, op.claim unclaimed, fun b e => by rw [(op.aside b (other b e)).bed, e], fun b e => op.aside b (other b e), ?_,
    fun n => hasEntry_own op.toInside n, draw_bedwise op unclaimed, ?_, op.latches, op.fault⟩
  · obtain ⟨l, e, -⟩ := op.waits
    exact ⟨l, e⟩
  · have names := op.names.length_le
    rwa [Machine.names, Machine.names, List.length_map, List.length_map] at names

theorem bills_addCredit (credited : (s.bed d).state.credited = true) (n : Nat) : Bills s (s.addCredit d n) := by
  have other (b : BedId) (e : (s.bed b).state.credited = false) : b ≠ d := fun eq => by rw [eq, credited] at e; cases e
  have aside (b : BedId) (e : (s.bed b).state.credited = false) : Aside b s (s.addCredit d n) := aside_modBed (other b e) _ s
  exact ⟨rfl, rfl, rfl, rfl, fun b e => by rw [(aside b e).bed, e], aside, ⟨[], by simp [State.addCredit, State.modBed, State.putBed]⟩, fun _ => id, rfl, le_rfl, fun _ _ => rfl, ⟨rfl, rfl⟩⟩

/-- The volumes and the run record with a credit. -/
def Bed.plus (n : Nat) (x : Bed) : Bed :=
  { x with
    delivered := min (x.delivered + n) 20000
    debt := x.debt - n
    run := x.run.map fun r => { r with delivered := r.delivered + n, cycleDelivered := r.cycleDelivered + n } }

theorem bed_addCredit (b : BedId) (n : Nat) (s : State) : (s.addCredit b n).bed b = (s.bed b).plus n := by
  unfold State.addCredit
  rw [State.bed_modBed_same]
  rfl

/-- The credit's end of a cycle, if its tests find one (R116). -/
def State.creditEnd (b : BedId) (n : Nat) (s : State) : Option EndCause :=
  if n = 0 || !(s.bed b).state.credited then none
  else ((s.bed b).plus n).run.bind fun r => endTest (s.setupOf b) ((s.bed b).plus n) r

theorem credit_skipped (h : (n = 0 || !(s.bed b).state.credited) = true) : s.credit b n = s := if_pos h

/-- A credit is added, and ends the cycle where a test holds. -/
theorem credit_eq (some' : n ≠ 0) (credited : (s.bed b).state.credited = true) : s.credit b n = match s.creditEnd b n with
    | some c => (s.addCredit b n).endCycle b c
    | none => s.addCredit b n := by
  have taken : (n = 0 || !(s.bed b).state.credited) = false := by simp [some', credited]
  unfold State.credit State.creditEnd
  rw [taken, if_neg nofun, if_neg nofun, ← bed_addCredit]
  dsimp only
  cases run : ((s.addCredit b n).bed b).run with
  | none => rfl
  | some r =>
    rfl

theorem addCredit_credited (credited : (s.bed b).state.credited = true) : ((s.addCredit b n).bed b).state.credited = true := by
  rw [bed_addCredit]
  exact credited

theorem bills_credit (d : BedId) (n : Nat) (s : State) : Bills s (s.credit d n) := by
  by_cases skips : (n = 0 || !(s.bed d).state.credited) = true
  · rw [credit_skipped skips]
    exact .refl s
  · simp only [Bool.or_eq_true, decide_eq_true_eq, Bool.not_eq_true', not_or, Bool.not_eq_false] at skips
    obtain ⟨some', credited⟩ := skips
    rw [credit_eq some' credited]
    split
    · exact (bills_addCredit credited n).trans (bills_endCycle (addCredit_credited credited) _)
    · exact bills_addCredit credited n

/-- Another bed, its valve and its carry do not hear of a credit. -/
structure Untouched (b : BedId) (s t : State) : Prop extends Aside b s t, SameCarry b s t

theorem Untouched.refl (b : BedId) (s : State) : Untouched b s s := ⟨.refl b s, .refl b s⟩

theorem Untouched.trans (h : Untouched b s t) (k : Untouched b t u) : Untouched b s u :=
  ⟨h.toAside.trans k.toAside, h.toSameCarry.trans k.toSameCarry⟩

theorem untouched_credit (ne : b ≠ d) (n : Nat) (s : State) : Untouched b s (s.credit d n) := by
  by_cases skips : (n = 0 || !(s.bed d).state.credited) = true
  · rw [credit_skipped skips]
    exact .refl b s
  · simp only [Bool.or_eq_true, decide_eq_true_eq, Bool.not_eq_true', not_or, Bool.not_eq_false] at skips
    obtain ⟨some', credited⟩ := skips
    have added : Untouched b s (s.addCredit d n) := ⟨aside_modBed ne _ s, carry_modBed ..⟩
    rw [credit_eq some' credited]
    split
    · exact added.trans ⟨aside_endCycle ne .., carry_endCycle ne ..⟩
    · exact added

/-! ### What a credit makes of its own bed -/

theorem credit_core (b : BedId) (n : Nat) (s : State) (bound : (s.bed b).delivered ≤ 20000) (credited : (s.bed b).state.credited = true) :
    ((s.credit b n).bed b).delivered = min ((s.bed b).delivered + n) 20000 ∧ ((s.credit b n).bed b).debt = (s.bed b).debt - n := by
  by_cases none : n = 0
  · subst none
    rw [credit_skipped rfl]
    exact ⟨(min_eq_left bound).symm, rfl⟩
  · rw [credit_eq none credited]
    split
    · have ends := bedwise_endCycle b ‹EndCause› (s.addCredit b n)
      rw [ends.delivered, ends.debt, bed_addCredit]
      exact ⟨rfl, rfl⟩
    · rw [bed_addCredit]
      exact ⟨rfl, rfl⟩

/-- A credit of 0, or one after which no test holds, lets the cycle go on. -/
theorem credit_goes (credited : (s.bed b).state.credited = true) (untested : s.creditEnd b n = none) (run : (s.bed b).run = some r) :
    ((s.credit b n).bed b).state = (s.bed b).state ∧ (s.credit b n).valve b = s.valve b ∧ (s.credit b n).fm = s.fm
      ∧ ((s.credit b n).bed b).run = some { r with delivered := r.delivered + n, cycleDelivered := r.cycleDelivered + n } := by
  by_cases none : n = 0
  · subst none
    rw [credit_skipped rfl]
    exact ⟨rfl, rfl, rfl, run⟩
  · rw [credit_eq none credited, untested]
    dsimp only
    rw [bed_addCredit]
    exact ⟨rfl, rfl, rfl, by unfold Bed.plus; dsimp only; rw [run]; rfl⟩

/-- Where a test holds the cycle ends with its cause. -/
theorem credit_ends (ends : s.creditEnd b n = some c) (run : (s.bed b).run = some r) :
    s.credit b n = (s.addCredit b n).endCycle b c
      ∧ ((s.addCredit b n).bed b).run = some { r with delivered := r.delivered + n, cycleDelivered := r.cycleDelivered + n } := by
  have taken : (n = 0 || !(s.bed b).state.credited) = false := by
    refine Bool.eq_false_of_not_eq_true fun skips => ?_
    unfold State.creditEnd at ends
    rw [skips] at ends
    cases ends
  simp only [Bool.or_eq_false_iff, decide_eq_false_iff_not, Bool.not_eq_false'] at taken
  refine ⟨by rw [credit_eq taken.1 taken.2, ends], ?_⟩
  rw [bed_addCredit]
  unfold Bed.plus
  dsimp only
  rw [run]
  rfl

theorem creditEnd_plain (ends : s.creditEnd b n = some c) : c.plain := by
  unfold State.creditEnd at ends
  split at ends
  · cases ends
  · obtain ⟨r, -, test⟩ := Option.bind_eq_some_iff.1 ends
    unfold endTest at test
    split at test
    · cases test; exact ⟨nofun, nofun, nofun⟩
    · split at test
      · cases test; exact ⟨nofun, nofun, nofun⟩
      · split at test
        · cases test; exact ⟨nofun, nofun, nofun⟩
        · cases test

/-! ### The pass over the beds -/

/-- The bed's credit in the pass: the bed is untouched up to it and from it on. -/
structure Billed (b : BedId) (n k : Nat) (s x t : State) : Prop where
  before : Bills s x
  aside : Aside b s x
  carry : x.fm.bedCarry.get b = k
  after : Bills (x.credit b n) t
  rest : Untouched b (x.credit b n) t

theorem foldl_bills {α : Type} {f : State → α → State} (keeps : ∀ s a, Bills s (f s a)) (l : List α) (s : State) : Bills s (l.foldl f s) := by
  induction l generalizing s with
  | nil => exact .refl s
  | cons a l ih => exact (keeps s a).trans (ih _)

theorem foldl_untouched {α : Type} {f : State → α → State} {l : List α} (skips : ∀ a ∈ l, ∀ s, Untouched b s (f s a)) (s : State) :
    Untouched b s (l.foldl f s) := by
  induction l generalizing s with
  | nil => exact .refl b s
  | cons a l ih => exact (skips a List.mem_cons_self s).trans (ih (fun e m => skips e (List.mem_cons_of_mem _ m)) _)

theorem foldl_reaches {α : Type} {f : State → α → State} {key : α → BedId} (keeps : ∀ s a, Bills s (f s a))
    (skips : ∀ s a, key a ≠ b → Untouched b s (f s a)) {a : α} (own : key a = b) {l : List α} (m : a ∈ l) (once : (l.map key).Nodup) (s : State) :
    ∃ x, Bills s x ∧ Untouched b s x ∧ Bills (f x a) (l.foldl f s) ∧ Untouched b (f x a) (l.foldl f s) := by
  induction l generalizing s with
  | nil => cases m
  | cons e l ih =>
    obtain ⟨out, once⟩ := List.nodup_cons.1 once
    rcases List.mem_cons.1 m with rfl | m
    · refine ⟨s, .refl s, .refl b s, foldl_bills keeps l _, foldl_untouched (fun e i s => skips s e fun eq => out ?_) _⟩
      rw [own, ← eq]
      exact List.mem_map_of_mem i
    · obtain ⟨x, before, apart, after, rest⟩ := ih m once (f s e)
      have other : key e ≠ b := fun eq => out (by rw [eq, ← own]; exact List.mem_map_of_mem m)
      exact ⟨x, (keeps s e).trans before, (skips s e other).trans apart, after, rest⟩

theorem creditedBeds_nodup (s : State) : s.creditedBeds.Nodup := List.Nodup.filter _ (by decide)

theorem mem_creditedBeds : b ∈ s.creditedBeds ↔ (s.bed b).state.credited = true := by
  unfold State.creditedBeds
  rw [List.mem_filter]
  exact and_iff_right (mem_allBeds b)

/-! ### Metered credits -/

/-- The state in which the credits of a metered station begin. -/
def State.carrying (k : Nat) (s : State) : State := { s with fm.carry := k }

theorem mem_zip_map {α : Type} {f : α → Nat} {a : α} {l : List α} (m : a ∈ l) : (a, f a) ∈ l.zip (l.map f) := by
  induction l with
  | nil => cases m
  | cons e l ih =>
    rcases List.mem_cons.1 m with rfl | m
    · exact List.mem_cons_self
    · exact List.mem_cons_of_mem _ (ih m)

/-- A bed's share of a volume (R148). -/
def State.share (volume : Nat) (b : BedId) (s : State) : Nat :=
  let part := fun b : BedId => volume * (s.setupOf b).flow / (s.creditedBeds.map fun d => (s.setupOf d).flow).sum
  if s.creditedBeds.head? = some b then volume - (s.creditedBeds.tail.map part).sum else part b

theorem share_mem (volume : Nat) (m : b ∈ s.creditedBeds) : (b, s.share volume b)
    ∈ s.creditedBeds.zip (shares volume (s.nominal s.creditedBeds) (s.creditedBeds.map fun d => (s.setupOf d).flow)) := by
  have once := creditedBeds_nodup s
  unfold State.share State.nominal
  dsimp only
  cases beds : s.creditedBeds with
  | nil => rw [beds] at m; cases m
  | cons d l =>
    rw [beds] at m once
    rw [List.map_cons, shares_head, List.zip_cons_cons, List.head?_cons, List.tail_cons, List.map_map]
    by_cases first : d = b
    · subst first
      rw [if_pos rfl]
      exact List.mem_cons_self
    · rw [if_neg (fun e => first (Option.some.inj e))]
      refine List.mem_cons_of_mem _ ?_
      exact mem_zip_map (f := fun b => volume * (s.setupOf b).flow / ((s.setupOf d).flow :: l.map fun d => (s.setupOf d).flow).sum)
        ((List.mem_cons.1 m).resolve_left fun e => first e.symm)

theorem creditMetered_eq {w : Window} (some' : s.creditedBeds ≠ []) : s.creditMetered w = (s.creditedBeds.zip (shares ((10 * w.p + s.fm.carry) / w.k)
    (s.nominal s.creditedBeds) (s.creditedBeds.map fun b => (s.setupOf b).flow))).foldl (fun (s : State) y => State.credit (Prod.fst y) (Prod.snd y) s)
      (s.carrying ((10 * w.p + s.fm.carry) % w.k)) := by
  unfold State.creditMetered
  dsimp only
  rw [if_neg (by simpa using some')]
  rfl

theorem creditMetered_bills {w : Window} (s : State) :
    Bills (s.carrying (if s.creditedBeds = [] then 0 else (10 * w.p + s.fm.carry) % w.k)) (s.creditMetered w) := by
  split
  · rename_i none
    have skips : s.creditMetered w = s.carrying 0 := by
      unfold State.creditMetered
      dsimp only
      rw [if_pos (by rw [none]; rfl)]
      rfl
    rw [skips]
    exact .refl _
  · rename_i some'
    rw [creditMetered_eq some']
    exact foldl_bills (fun (s : State) (y : BedId × Nat) => bills_credit y.1 y.2 s) _ _

theorem creditMetered_at {w : Window} (m : b ∈ s.creditedBeds) : ∃ x, Billed b (s.share ((10 * w.p + s.fm.carry) / w.k) b) (s.fm.bedCarry.get b)
    (s.carrying ((10 * w.p + s.fm.carry) % w.k)) x (s.creditMetered w) := by
  rw [creditMetered_eq (List.ne_nil_of_mem m)]
  have once : ((s.creditedBeds.zip (shares ((10 * w.p + s.fm.carry) / w.k) (s.nominal s.creditedBeds)
      (s.creditedBeds.map fun b => (s.setupOf b).flow))).map Prod.fst).Nodup := by
    rw [List.map_fst_zip (by cases s.creditedBeds <;> simp [shares])]
    exact creditedBeds_nodup s
  obtain ⟨x, before, apart, after, rest⟩ := foldl_reaches (f := fun (s : State) (y : BedId × Nat) => s.credit y.1 y.2) (key := Prod.fst) (fun s y => bills_credit y.1 y.2 s)
    (fun s y ne => untouched_credit (Ne.symm ne) y.2 s) rfl (share_mem _ m) once (s.carrying ((10 * w.p + s.fm.carry) % w.k))
  exact ⟨x, before, apart.toAside, apart.carry, after, rest⟩

/-! ### Nominal credits -/

/-- The state in which a nominal credit is given. -/
def State.nominalCarry (b : BedId) (s : State) : State :=
  { s with fm.bedCarry := s.fm.bedCarry.set b ((5 * (s.setupOf b).flow + s.fm.bedCarry.get b) % 12) }

theorem creditNominal_eq (b : BedId) (s : State) :
    s.creditNominal b = (s.nominalCarry b).credit b ((5 * (s.setupOf b).flow + s.fm.bedCarry.get b) / 12) := rfl

theorem bills_nominalCarry (b : BedId) (s : State) : Bills s (s.nominalCarry b) :=
  ⟨rfl, rfl, rfl, rfl, fun _ => id, fun _ _ => aside_same rfl rfl rfl, ⟨[], by simp [State.nominalCarry]⟩, fun _ => id, rfl, le_rfl, fun _ _ => rfl, ⟨rfl, rfl⟩⟩

theorem bills_creditNominal (b : BedId) (s : State) : Bills s (s.creditNominal b) := by
  rw [creditNominal_eq]
  exact (bills_nominalCarry b s).trans (bills_credit ..)

theorem untouched_creditNominal (ne : b ≠ d) (s : State) : Untouched b s (s.creditNominal d) := by
  rw [creditNominal_eq]
  have set : Untouched b s (s.nominalCarry d) := ⟨aside_same rfl rfl rfl, ⟨PerBed.get_set_ne _ _ ne⟩⟩
  exact set.trans (untouched_credit ne ..)

theorem creditNominal_at (m : b ∈ s.creditedBeds) : ∃ x, Billed b ((5 * (s.setupOf b).flow + s.fm.bedCarry.get b) / 12)
    ((5 * (s.setupOf b).flow + s.fm.bedCarry.get b) % 12) s x (s.creditedBeds.foldl (fun s b => s.creditNominal b) s) := by
  obtain ⟨x, before, apart, after, rest⟩ := foldl_reaches (f := fun s b => s.creditNominal b) (key := id) (fun s b => bills_creditNominal b s)
    (fun s d (ne : d ≠ b) => untouched_creditNominal (Ne.symm ne) s) (a := b) (b := b) rfl m (by rw [List.map_id]; exact creditedBeds_nodup s) s
  rw [creditNominal_eq, apart.setup, apart.carry] at after rest
  refine ⟨x.nominalCarry b, before.trans (bills_nominalCarry b x), apart.toAside.trans (aside_same rfl rfl rfl), ?_, after, rest⟩
  unfold State.nominalCarry
  dsimp only
  rw [PerBed.get_set_same, apart.setup, apart.carry]

/-! ### The credits of a window (R147) -/

/-- The bed's credit for a window (R147, R148). -/
def State.windowCredit (b : BedId) (s : State) : Nat :=
  if s.sl.setup.pulsesPerLitre = 0 then (5 * (s.setupOf b).flow + s.fm.bedCarry.get b) / 12
  else s.share ((10 * s.fm.pulses + s.fm.carry) / s.sl.setup.pulsesPerLitre) b

/-- The carry of the meter after a window. -/
def State.carryLeft (s : State) : Nat :=
  if s.sl.setup.pulsesPerLitre = 0 then s.fm.carry
  else if s.creditedBeds = [] then 0 else (10 * s.fm.pulses + s.fm.carry) % s.sl.setup.pulsesPerLitre

/-- The bed's carry of twelfths after a window. -/
def State.twelfthsLeft (b : BedId) (s : State) : Nat :=
  if s.sl.setup.pulsesPerLitre = 0 then (5 * (s.setupOf b).flow + s.fm.bedCarry.get b) % 12 else s.fm.bedCarry.get b

/-- The state at the end of a window, with its credits. -/
def State.windowCredited (s : State) : State := State.creditWindow s.window (ConfirmTimers.windowed s)

/-- The state of the window's end in which its credits begin. -/
def State.creditStart (s : State) : State := (ConfirmTimers.windowed s).carrying s.carryLeft

theorem windowCredited_nominal (meter : s.sl.setup.pulsesPerLitre = 0) :
    s.windowCredited = s.creditedBeds.foldl (fun s b => s.creditNominal b) (ConfirmTimers.windowed s) :=
  if_neg (by
    change ¬ decide (0 < s.sl.setup.pulsesPerLitre) = true
    simp [meter])

theorem windowCredited_metered (meter : s.sl.setup.pulsesPerLitre ≠ 0) :
    s.windowCredited = (ConfirmTimers.windowed s).creditMetered s.window :=
  if_pos (decide_eq_true (Nat.pos_of_ne_zero meter))

theorem windowCredited_bills (s : State) : Bills s.creditStart s.windowCredited := by
  unfold State.creditStart State.carryLeft
  by_cases meter : s.sl.setup.pulsesPerLitre = 0
  · rw [windowCredited_nominal meter, if_pos meter]
    exact foldl_bills (fun s b => bills_creditNominal b s) _ _
  · rw [windowCredited_metered meter, if_neg meter]
    exact creditMetered_bills (w := s.window) (ConfirmTimers.windowed s)

theorem windowCredited_at (m : b ∈ s.creditedBeds) : ∃ x, Billed b (s.windowCredit b) (s.twelfthsLeft b) s.creditStart x s.windowCredited := by
  unfold State.creditStart State.carryLeft State.windowCredit State.twelfthsLeft
  by_cases meter : s.sl.setup.pulsesPerLitre = 0
  · rw [windowCredited_nominal meter, if_pos meter, if_pos meter, if_pos meter]
    exact creditNominal_at (s := ConfirmTimers.windowed s) m
  · rw [windowCredited_metered meter, if_neg meter, if_neg meter, if_neg meter, if_neg (List.ne_nil_of_mem m)]
    exact creditMetered_at (s := ConfirmTimers.windowed s) (w := s.window) m

end Sys2Proof.Machine

/-! PROOFS. What a window's end does after its credits, and what the event's end leaves of it: one relation that each step keeps
(R147 to R156). -/

namespace Sys2Proof.Machine

open HoldJoins (SameFault)

variable {b d : BedId} {s t u v x : State} {r : Run} {c : EndCause} {n k : Nat} {w : Window}

/-! ### The steps after the credits -/

/-- All that a window's checks and its event's further work leave. -/
def State.shell (s : State) : State :=
  { s.outer with fm.leakRun := 0, fm.noflowRun := 0, fm.stuckRun := 0, fm.drawing := false, fm.quiet := 0 }

/-- `t` comes from `s` by steps of a window's end after its credits, or by the work that closes the event. -/
structure Passes (s t : State) : Prop where
  shell : t.shell = s.shell
  core : ∀ b, (t.bed b).core = (s.bed b).core
  peers : t.peers = s.peers
  line : s.bc.holds.line = true → t.bc.holds.line = true
  claim : s.sb.claim.Onward t.sb.claim
  credited : ∀ b, (s.bed b).state.credited = false → (t.bed b).state.credited = false
  calm : ∀ b, s.sb.claim.spares b → (s.bed b).state.calm → Aside b s t
  notices : ∀ q ∈ s.tq.queue, q.notice.isClaim = false → q.notice.isShed = false → q ∈ t.tq.queue
  absent : ∀ b : BedId, s.hasEntry s.sl.own b.val = false → t.hasEntry s.sl.own b.val = false
  carries : ∀ b, (t.bed b).state.credited = true → SameCarry b s t
  fares : ∀ b, s.sb.claim.spares b → (s.bed b).state.credited = true → Fares b s t

namespace Passes

theorem field {α : Type} (h : Passes s t) (f : State → α) : f t.shell = f s.shell := congrArg f h.shell

theorem now (h : Passes s t) : t.now = s.now := h.field fun x => x.now
theorem sl (h : Passes s t) : t.sl = s.sl := h.field fun x => x.sl
theorem li (h : Passes s t) : t.li = s.li := h.field fun x => x.li
theorem pw (h : Passes s t) : t.pw = s.pw := h.field fun x => x.pw
theorem pulses (h : Passes s t) : t.fm.pulses = s.fm.pulses := h.field fun x => x.fm.pulses
theorem meterCarry (h : Passes s t) : t.fm.carry = s.fm.carry := h.field fun x => x.fm.carry
theorem lastWindow (h : Passes s t) : t.fm.lastWindow = s.fm.lastWindow := h.field fun x => x.fm.lastWindow
theorem windowSince (h : Passes s t) : t.fm.windowSince = s.fm.windowSince := h.field fun x => x.fm.windowSince
theorem lastInterval (h : Passes s t) : t.fm.lastInterval = s.fm.lastInterval := h.field fun x => x.fm.lastInterval

theorem setupOf (h : Passes s t) (b : BedId) : t.setupOf b = s.setupOf b := by unfold State.setupOf; rw [h.sl]

theorem refl (s : State) : Passes s s :=
  ⟨rfl, fun _ => rfl, rfl, id, .refl _, fun _ => id, fun b _ _ => .refl b s, fun _ m _ _ => m, fun _ => id, fun b _ => .refl b s,
    fun _ _ e => .inl (.refl e)⟩

theorem trans (h : Passes s t) (k : Passes t u) : Passes s u where
  shell := k.shell.trans h.shell
  core b := (k.core b).trans (h.core b)
  peers := k.peers.trans h.peers
  line e := k.line (h.line e)
  claim := h.claim.trans k.claim
  credited b e := k.credited b (h.credited b e)
  calm b e y := by
    have a := h.calm b e y
    exact a.trans (k.calm b (h.claim.spares b e) (by rw [a.bed]; exact y))
  notices q m e f := k.notices q (h.notices q m e f) e f
  absent b e := by rw [← h.sl]; exact k.absent b (by rw [h.sl]; exact h.absent b e)
  carries b e := by
    have before : (t.bed b).state.credited = true := by
      cases out : (t.bed b).state.credited with
      | true => rfl
      | false => rw [k.credited b out] at e; cases e
    exact (h.carries b before).trans (k.carries b e)
  fares b spares e := by
    rcases h.fares b spares e with stays | cut
    · exact Fares.stays stays (h.setupOf b) (k.fares b (h.claim.spares b spares) stays.credited)
    · exact Fares.cut cut (k.calm b (h.claim.spares b spares) cut.calm)

theorem notLost (h : Passes s t) (line : s.lineLost = false) : t.lineLost = false := by
  refine Bool.eq_false_of_not_eq_true fun lost => ?_
  obtain ⟨due, absent⟩ := (lineLost_iff t).1 lost
  rw [h.li, h.now] at due
  refine absurd ((lineLost_iff s).2 ⟨due, ?_⟩) (by rw [line]; nofun)
  exact Bool.eq_false_of_not_eq_true fun present => by rw [h.line present] at absent; cases absent

end Passes

theorem Tracks.passes (h : Tracks s t) : Passes s t where
  shell := by
    unfold State.shell
    rw [h.outer]
  core := h.core
  peers := h.peers
  line := h.keepsLine
  claim := h.claim
  credited := h.credited
  calm := h.calm
  notices := h.notices
  absent b := hasEntry_own h.toInside b.val
  carries := h.carries
  fares := h.fares

/-- A step that leaves beds, drive, claim and hold set. -/
theorem passes_same (shell : t.shell = s.shell) (beds : t.bc.beds = s.bc.beds) (vd : t.vd = s.vd) (claim : t.sb.claim = s.sb.claim)
    (holds : t.bc.holds = s.bc.holds) (carries : t.fm.bedCarry = s.fm.bedCarry) (peers : t.peers = s.peers)
    (notices : ∀ q ∈ s.tq.queue, q ∈ t.tq.queue) (absent : ∀ b : BedId, s.hasEntry s.sl.own b.val = false → t.hasEntry s.sl.own b.val = false) :
    Passes s t := by
  have sl : t.sl = s.sl := have same := congrArg (fun y : State => y.sl) shell
    same
  have aside (b : BedId) : Aside b s t := aside_same (by rw [sl]) beds vd
  exact ⟨shell, fun b => by rw [(aside b).bed], peers, fun e => by rw [holds, e], by rw [claim]; exact .refl _, fun b e => by rw [(aside b).bed, e],
    fun b _ _ => aside b, fun q m _ _ => notices q m, absent, fun _ _ => ⟨by rw [carries]⟩, fun b _ e => .inl (.of_aside e (aside b))⟩

/-! ### Confirmation by flow (R149, R150) -/

theorem passes_bedConfirmed (d : BedId) (s : State) : Passes s (s.bedConfirmed d) := by
  unfold State.bedConfirmed
  split
  · rename_i confirming
    have here : (s.moveBed d .running).bed d = { s.bed d with state := .running, backoffEnd := none, soakSince := none } := by
      rw [Overdraw.bed_moveBed, if_pos rfl]
    have only (b : BedId) (p : (s.bed b).state.credited = false ∨ (s.bed b).state.calm) : b ≠ d := by
      rintro rfl
      rw [confirming] at p
      rcases p with p | p
      · cases p
      · exact absurd p.1 nofun
    have aside (b : BedId) (ne : b ≠ d) := aside_moveBed ne .running s
    refine ⟨rfl, fun b => ?_, rfl, id, .refl _, fun b e => ?_, fun b _ e => aside b (only b (.inr e)), fun _ m _ _ => m, fun _ => id,
      fun b _ => carry_moveBed_credited rfl d s, fun b _ e => ?_⟩
    · by_cases eq : b = d
      · rw [eq, here]
        rfl
      · rw [(aside b eq).bed]
    · rw [(aside b (only b (.inl e))).bed, e]
    · by_cases eq : b = d
      · subst eq
        exact .inl ⟨by rw [here]; rfl, by rw [here], rfl⟩
      · exact .inl (.of_aside e (aside b eq))
  · exact .refl s

theorem passes_foldl {α : Type} {f : State → α → State} (hf : ∀ s a, Passes s (f s a)) (l : List α) (s : State) : Passes s (l.foldl f s) := by
  induction l generalizing s with
  | nil => exact .refl s
  | cons a l ih => exact (hf s a).trans (ih _)

theorem passes_ite {p : Prop} [Decidable p] (ht : p → Passes s t) (hu : ¬p → Passes s u) : Passes s (if p then t else u) := by
  split
  · exact ht ‹_›
  · exact hu ‹_›

theorem passes_confirmFlows (w : Window) (s : State) : Passes s (s.confirmFlows w) :=
  passes_ite (fun _ => passes_foldl (fun s b => passes_ite (fun _ => passes_bedConfirmed b s) fun _ => .refl s) allBeds s) fun _ => .refl s

/-! ### Faults and alerts -/

theorem tracks_faultBed (d : BedId) (cuts : c.cuts) (s : State) : Tracks s (s.faultBed d c) :=
  tracks_ite (fun credited => tracks_endCycle (by cases h : (s.bed d).state <;> rw [h] at credited <;> first | rfl | cases credited) cuts) fun _ => .refl s

theorem passes_raise (c : Cause) (bed value peer kind one two : Nat) (s : State) : Passes s (s.raise c bed value peer kind one two) := by
  have rest := raise_same c bed value peer kind one two s
  have inside := inside_raise c bed value peer kind one two s
  exact passes_same (by unfold State.shell; rw [inside.outer]) (by rw [rest]) (by rw [rest]) (by rw [rest]) (by rw [rest]) (by rw [rest]) inside.peers
    (fun q m => by rw [rest]; exact m) fun b => hasEntry_own inside b.val

theorem passes_setPending (c : Cause) (bed value : Nat) (s : State) : Passes s (s.setPending c bed value) := by
  have rest := State.setPending_rest c bed value s
  have inside := inside_setPending c bed value s
  exact passes_same (by unfold State.shell; rw [inside.outer]) (by rw [rest]) (by rw [rest]) (by rw [rest]) (by rw [rest]) (by rw [rest]) inside.peers
    (fun q m => by rw [rest]; exact m) fun b => hasEntry_own inside b.val

/-- The counts of the checks, DRAWING and the quiet count. -/
theorem passes_counts (l n k : Nat) (y : Bool) (q : Nat) (s : State) :
    Passes s { s with fm.leakRun := l, fm.noflowRun := n, fm.stuckRun := k, fm.drawing := y, fm.quiet := q } :=
  passes_same rfl rfl rfl rfl rfl rfl rfl (fun _ m => m) fun _ => id

/-! ### The draw entry (R57, R156) -/

theorem hasEntry_congr (book : t.sb.book = s.sb.book) (st bd : Nat) : t.hasEntry st bd = s.hasEntry st bd := by
  unfold State.hasEntry
  rw [book]

theorem passes_changeDraw {f : Entry → Entry} (keeps : ∀ e, (f e).station = e.station ∧ (f e).bed = e.bed) (s : State) :
    Passes s (s.changeEntry s.sl.own drawBed f) := by
  have inside := inside_updateOwn drawBed f keeps s
  unfold State.changeEntry
  dsimp only
  split
  · exact passes_same rfl rfl rfl rfl rfl rfl inside.peers (fun _ m => m) fun b => hasEntry_own inside b.val
  · exact passes_same rfl rfl rfl rfl rfl rfl inside.peers (fun _ m => m) fun b => hasEntry_own inside b.val

/-- The draw entry as it is placed at a moment (R57, R156). -/
def State.drawEntry (flow : Nat) (s : State) : Entry := ⟨s.sl.own, drawBed, flow, .normal, true, 0, s.now⟩

theorem placeDraw_eq (flow : Nat) (s : State) : s.placeDraw flow =
    if s.hasEntry s.sl.own drawBed then s.changeEntry s.sl.own drawBed fun e => { e with flow := flow }
    else if (s.insert (s.drawEntry flow)).hasEntry (s.insert (s.drawEntry flow)).sl.own drawBed then (s.insert (s.drawEntry flow)).ownCommitted
    else s.insert (s.drawEntry flow) := rfl

/-- The draw entry's insertion where the station has none. -/
theorem insertDraw_eq (absent : s.hasEntry s.sl.own drawBed = false) (flow : Nat) : s.insert (s.drawEntry flow) =
    if s.sb.book.length < 32 then s.putBook (s.sb.book ++ [s.drawEntry flow]) else s.skipInsertion :=
  if_neg (by
    change ¬ s.hasEntry s.sl.own drawBed = true
    rw [absent]
    nofun)

theorem passes_skipInsertion (s : State) : Passes s s.skipInsertion := by
  have marked : Passes s { s with sb.saturated := true } :=
    passes_same rfl rfl rfl rfl rfl rfl rfl (fun _ m => m) fun _ => id
  exact marked.trans (passes_setPending ..)

theorem passes_insertDraw (absent : s.hasEntry s.sl.own drawBed = false) (flow : Nat) : Passes s (s.insert (s.drawEntry flow)) := by
  rw [insertDraw_eq absent]
  split
  · refine passes_same rfl rfl rfl rfl rfl rfl ?_ (fun _ m => m) fun b e => ?_
    · change List.filter _ (s.sb.book ++ [s.drawEntry flow]) = List.filter _ s.sb.book
      rw [List.filter_append]
      simp [State.drawEntry, State.putBook]
    · change (s.sb.book ++ [s.drawEntry flow]).any _ = false
      rw [List.any_append, show s.sb.book.any _ = false from e]
      simp [Entry.named, State.drawEntry, drawBed, val_ne_draw b]
  · exact passes_skipInsertion s

theorem passes_placeDraw (flow : Nat) (s : State) : Passes s (s.placeDraw flow) := by
  rw [placeDraw_eq]
  split
  · exact passes_changeDraw (f := fun e => { e with flow := flow }) (fun _ => ⟨rfl, rfl⟩) s
  · rename_i absent
    have places := passes_insertDraw (by simpa using absent) flow
    exact passes_ite (fun _ => places.trans (tracks_ownCommitted _).passes) fun _ => places

theorem inside_removeDraw (s : State) : Inside s s.removeDraw := by
  unfold State.removeDraw
  split
  · dsimp only
    split
    · exact inside_removeOwn drawBed s
    · have removes := inside_removeOwn drawBed (s.offer (.free drawBed))
      rw [offer_sl] at removes
      exact (inside_offer (.free drawBed) rfl s).trans removes
  · exact .refl s

theorem passes_removeDraw (s : State) : Passes s s.removeDraw := by
  have rest := removeDraw_rest s
  have inside := inside_removeDraw s
  exact passes_same (by unfold State.shell; rw [inside.outer]) (by rw [rest]) (by rw [rest]) (removeDraw_claim s) (by rw [rest]) (by rw [rest])
    inside.peers (fun q m => mem_removeDraw m) fun b => hasEntry_own inside b.val

/-! ### The checks (R152 to R156) -/

theorem passes_fireBranch (f : BedFault) (cuts : c.cuts) (s : State) : Passes s (State.fireBranch w f c s) :=
  (passes_foldl (fun s d => (tracks_faultBed d cuts s).passes) w.running s).trans (passes_raise ..)

theorem passes_leakCheck (w : Window) (s : State) : Passes s (s.leakCheck w) := by
  have counts (n : Nat) : Passes s { s with fm.leakRun := n } := passes_counts n s.fm.noflowRun s.fm.stuckRun s.fm.drawing s.fm.quiet s
  exact passes_ite (fun _ => (counts 0).trans (passes_fireBranch .leak (.inl rfl) _)) fun _ => counts _

theorem passes_noflowCheck (w : Window) (s : State) : Passes s (s.noflowCheck w) := by
  have counts (n : Nat) : Passes s { s with fm.noflowRun := n } := passes_counts s.fm.leakRun n s.fm.stuckRun s.fm.drawing s.fm.quiet s
  exact passes_ite (fun _ => (counts 0).trans (passes_fireBranch .noflow (.inr (.inl rfl)) _)) fun _ => counts _

theorem passes_stuckCheck (w : Window) (s : State) : Passes s (s.stuckCheck w) := by
  unfold State.stuckCheck
  dsimp only
  split
  · have alert := passes_setPending .stuck 8 (instantRate s.fm.lastInterval w.k) s
    generalize s.setPending .stuck 8 (instantRate s.fm.lastInterval w.k) = t at alert ⊢
    exact (alert.trans (passes_counts t.fm.leakRun t.fm.noflowRun 0 true 0 t)).trans (passes_placeDraw ..)
  · exact passes_counts s.fm.leakRun s.fm.noflowRun _ s.fm.drawing s.fm.quiet s

theorem passes_drawStep (w : Window) (s : State) : Passes s (s.drawStep w) := by
  have counts (y : Bool) (q : Nat) : Passes s { s with fm.drawing := y, fm.quiet := q } :=
    passes_counts s.fm.leakRun s.fm.noflowRun s.fm.stuckRun y q s
  exact passes_ite (fun _ => .refl s) fun _ => passes_ite (fun _ => (counts s.fm.drawing 0).trans (passes_placeDraw ..)) fun _ =>
    passes_ite (fun _ => (counts false 0).trans (passes_removeDraw _)) fun _ => counts s.fm.drawing _

theorem passes_checkBranch (w : Window) (s : State) : Passes s (s.checkBranch w) := by
  have checks := ((passes_leakCheck w s).trans (passes_noflowCheck w _)).trans (passes_stuckCheck w _)
  exact passes_ite (fun _ => passes_ite (fun _ => checks.trans (passes_drawStep w _)) fun _ => checks) fun _ => .refl s

/-! ### The end of the event -/

theorem carry_weighOccasion (e : (s.bed b).state.credited = true) : SameCarry b s s.weighOccasion := by
  unfold State.weighOccasion
  split
  · split
    · rename_i d found
      have waits := waiting_of_find found
      have ne : b ≠ d := fun eq => by rw [eq, waits] at e; cases e
      have offers (c : Claim) (n : Notice) : SameCarry b s (State.offer n { s with sb.claim := c }) :=
        ⟨(carry_offer (b := b) n { s with sb.claim := c }).carry⟩
      exact (offers _ _).trans (carry_moveBed ne ..)
    · exact .refl b s
  · exact .refl b s

/-- The end of an event: its closing work, and an offer. -/
theorem finish_tracks (s : State) : ∃ v, Tracks s v ∧ Offered v s.finish ∧ ∀ b, (v.bed b).state.credited = true → SameCarry b v s.finish := by
  refine ⟨s.bookSettled, tracks_bookSettled s, ?_⟩
  have ends : s.finish = (if (s.settleBook settleLaps).bc.occasion then s.bookSettled.weighOccasion else s.bookSettled).offerAlerts := rfl
  rw [ends]
  split
  · have alerts := afterAlerts_offerAlerts s.bookSettled.weighOccasion
    exact ⟨(offered_weighOccasion _).alerts (inside_offerAlerts _) alerts, fun b e => (carry_weighOccasion e).trans (.of_fm alerts.fm)⟩
  · have alerts := afterAlerts_offerAlerts s.bookSettled
    exact ⟨(Offered.refl _).alerts (inside_offerAlerts _) alerts, fun b _ => .of_fm alerts.fm⟩

end Sys2Proof.Machine

/-! PROOFS. The end of a rate window from its beginning to its event's end: the credits (R116, R147, R148). -/

namespace Sys2Proof.RateWindow

open Sys2Proof.Machine Sys2Proof.SkipOrders Sys2Proof.PulsesAndCloses

variable {b d : BedId} {s t u v x y : State} {r : Run} {c e : EndCause} {n k : Nat} {w : Window}

/-! ### A credit, by its tests -/

theorem creditEnd_run (credited : (s.bed b).state.credited = true) (run : (s.bed b).run = some r) : s.creditEnd b n = if n = 0 then none
    else endTest (s.setupOf b) ((s.bed b).plus n) { r with delivered := r.delivered + n, cycleDelivered := r.cycleDelivered + n } := by
  unfold State.creditEnd
  rw [credited, Bool.not_true, Bool.or_false]
  simp only [decide_eq_true_eq]
  refine if_congr Iff.rfl rfl ?_
  rw [show ((s.bed b).plus n).run = some { r with delivered := r.delivered + n, cycleDelivered := r.cycleDelivered + n } from by
    unfold Bed.plus
    dsimp only
    rw [run]
    rfl]
  rfl

/-- Where no test holds the carries of twelfths stay. -/
theorem credit_fm (untested : s.creditEnd b n = none) : (s.credit b n).fm = s.fm := by
  by_cases skips : (n = 0 || !(s.bed b).state.credited) = true
  · rw [credit_skipped skips]
  · simp only [Bool.or_eq_true, decide_eq_true_eq, Bool.not_eq_true', not_or, Bool.not_eq_false] at skips
    rw [credit_eq skips.1 skips.2, untested]
    rfl

theorem credit_rests (ends : s.creditEnd b n = some c) : ((s.credit b n).bed b).state.calm := by
  by_cases skips : (n = 0 || !(s.bed b).state.credited) = true
  · unfold State.creditEnd at ends
    rw [skips] at ends
    cases ends
  · simp only [Bool.or_eq_true, decide_eq_true_eq, Bool.not_eq_true', not_or, Bool.not_eq_false] at skips
    rw [credit_eq skips.1 skips.2, ends]
    exact endCycle_rests ..

/-- The end of a held valve's cycle: its coil is let go at once, and its bed reports CLOSED (R124, R134). -/
theorem endCycle_held (plain : c.plain) (opened : s.valve b = .opened) (held : (s.setupOf b).kind = .held)
    (admits : s.sl.station.admits (.free b.val) = true) : (s.endCycle b c).valve b = .closed
      ∧ (s.endCycle b c).hasEntry s.sl.own b.val = false ∧ ⟨.free b.val, 0, false⟩ ∈ (s.endCycle b c).tq.queue := by
  obtain ⟨v, drive, shut, ends⟩ := endCycle_shut (d := b) plain.1 (.inr (.inl ⟨held, opened⟩))
  have closing : (v.bed b).state = .closing := by rw [drive.bed, Overdraw.ending_state]
  have sl : v.sl = s.sl := by
    have same : v.sl = (Overdraw.ending b c s).sl := by rw [drive]
    rw [same, (bedwise_ending b c s).sl]
  obtain ⟨gone, queue⟩ := freeBed_leaves (s := v) (b := b) (by rw [sl]; exact admits)
  have rests := resting_bedClosed closing
  have sb := rests.sb (by rw [bed_freeBed, closing]; nofun)
  rw [ends]
  refine ⟨by rw [State.valve, bedClosed_vd]; exact shut, ?_, ?_⟩
  · rw [hasEntry_congr (show (v.bedClosed b).sb.book = (v.freeBed b).sb.book by rw [sb]), ← sl]
    exact gone
  · rw [rests.tq, queue]
    exact List.mem_append_right _ (List.mem_singleton.2 rfl)

/-! ### The chain of a window's end -/

/-- The state at the end of the window, its work done and the event not yet closed. -/
def windowDone (s : State) : State := (s.windowCredited.confirmFlows s.window).checkBranch s.window

/-- The moment of the window's end. -/
def windowEnd (s : State) : State := s.advanceTo (s.fm.windowSince + 5 * 12000)

theorem exec_rateWindowEnd (live : s.live = true) : exec .rateWindowEnd s = .next (windowDone (windowEnd s)).finish := by
  simp only [exec, execRateWindowEnd, State.take, live, if_true]
  rfl

theorem passes_windowDone (s : State) : Passes s.windowCredited (windowDone s) :=
  (passes_confirmFlows s.window s.windowCredited).trans (passes_checkBranch s.window _)


/-- A bed that takes credits after an offer took them before. -/
theorem credited_before (h : Offered v t) (credited : (t.bed b).state.credited = true) : (v.bed b).state.credited = true := by
  rcases h.beds b with same | ⟨-, claims⟩
  · rw [← same, credited]
  · rw [claims] at credited
    cases credited

theorem credited_on (h : Passes s t) (credited : (t.bed b).state.credited = true) : (s.bed b).state.credited = true := by
  cases out : (s.bed b).state.credited with
  | true => rfl
  | false => rw [h.credited b out] at credited; cases credited

theorem not_waiting_of_credited {y : BedState} (h : y.credited = true) : y ≠ .waiting := fun e => by rw [e] at h; cases h

/-- The end of a window: the credits, the steps after them, and what closes the event. -/
structure Ends (s t : State) : Prop where
  chain : ∃ v, Passes s.windowCredited v ∧ Offered v t ∧ ∀ b, (v.bed b).state.credited = true → SameCarry b v t

theorem ends_windowDone (s : State) : Ends s (windowDone s).finish := by
  obtain ⟨v, tracks, offers, carries⟩ := finish_tracks (windowDone s)
  exact ⟨v, (passes_windowDone s).trans tracks.passes, offers, carries⟩


theorem Ends.env (h : Ends s t) : t.now = s.now ∧ t.fm.pulses = 0 ∧ t.fm.lastWindow = some (s.fm.pulses, s.now) ∧ t.fm.windowSince = s.now
    ∧ t.pw = s.pw ∧ t.peers = s.peers ∧ t.li = s.li ∧ t.sl = s.sl ∧ t.fm.carry = s.carryLeft := by
  obtain ⟨v, passes, offers, -⟩ := h
  have bills := windowCredited_bills s
  refine ⟨?_, ?_, ?_, ?_, ?_, ?_, ?_, ?_, ?_⟩
  · rw [offers.now, passes.now]
    exact bills.now
  · rw [offers.pulses, passes.pulses]
    exact bills.field fun y => y.fm.pulses
  · rw [offers.lastWindow, passes.lastWindow]
    exact bills.field fun y => y.fm.lastWindow
  · rw [offers.windowSince, passes.windowSince]
    exact bills.field fun y => y.fm.windowSince
  · rw [offers.pw, passes.pw]
    exact bills.field fun y => y.pw
  · rw [offers.peers, passes.peers]
    exact bills.peers
  · rw [offers.li, passes.li]
    exact bills.li
  · rw [offers.sl, passes.sl]
    exact bills.sl
  · rw [offers.meterCarry, passes.meterCarry]
    exact bills.field fun y => y.fm.carry

/-- The volumes of a bed that takes credits (R148). -/
theorem Ends.volumes (h : Ends s t) (sound : BedsSound s) (m : b ∈ s.creditedBeds) :
    (t.bed b).delivered = min ((s.bed b).delivered + s.windowCredit b) 20000 ∧ (t.bed b).debt = (s.bed b).debt - s.windowCredit b := by
  obtain ⟨v, passes, offers, -⟩ := h
  obtain ⟨y, billed⟩ := windowCredited_at m
  have bed : y.bed b = s.bed b := billed.aside.bed
  have credit := credit_core b (s.windowCredit b) y (by rw [bed]; exact (sound b).1) (by rw [bed]; exact mem_creditedBeds.1 m)
  rw [bed] at credit
  have core : (t.bed b).core = ((y.credit b (s.windowCredit b)).bed b).core := by rw [offers.core, passes.core, billed.rest.bed]
  exact ⟨(congrArg (fun z => z.1) core).trans credit.1, (congrArg (fun z => z.2.1) core).trans credit.2⟩

theorem Ends.uncredited (h : Ends s t) (out : (s.bed d).state.credited = false) :
    (t.bed d).delivered = (s.bed d).delivered ∧ (t.bed d).debt = (s.bed d).debt := by
  obtain ⟨v, passes, offers, -⟩ := h
  have bed : s.windowCredited.bed d = s.bed d := ((windowCredited_bills s).rests d out).bed
  have core : (t.bed d).core = (s.bed d).core := by rw [offers.core, passes.core, bed]
  exact ⟨congrArg (fun z => z.1) core, congrArg (fun z => z.2.1) core⟩

/-- The carry of twelfths of a bed that goes on taking credits. -/
theorem Ends.twelfths (h : Ends s t) (m : b ∈ s.creditedBeds) (credited : (t.bed b).state.credited = true) :
    t.fm.bedCarry.get b = s.twelfthsLeft b := by
  obtain ⟨v, passes, offers, carries⟩ := h
  obtain ⟨y, billed⟩ := windowCredited_at m
  have late := credited_before offers credited
  have soon := credited_on passes late
  have untested : y.creditEnd b (s.windowCredit b) = none := by
    cases ends : y.creditEnd b (s.windowCredit b) with
    | none => rfl
    | some c =>
      rw [billed.rest.bed, credited_of_cycling (credit_rests ends).1] at soon
      cases soon
  rw [(carries b late).carry, (passes.carries b late).carry, billed.rest.carry, credit_fm untested, billed.carry]

/-! ### A cycle after its credit -/

theorem spares_of_sound (sound : ClaimSound s) (credited : (s.bed b).state.credited = true) : s.sb.claim.spares b := by
  cases live : s.sb.claim.live with
  | false => exact .inr (.inl live)
  | true =>
    refine .inl fun own => ?_
    have claiming := sound.holds live
    rw [own] at claiming
    rw [claiming] at credited
    cases credited

/-- The run record with a credit. -/
def credited (n : Nat) (r : Run) : Run := { r with delivered := r.delivered + n, cycleDelivered := r.cycleDelivered + n }

section Cycle

variable (h : Ends s t) (m : b ∈ s.creditedBeds) (spares : s.sb.claim.spares b) (run : (s.bed b).run = some r)
include h m spares run

/-- A test that holds ends the cycle with its cause. -/
theorem Ends.tested (some' : s.windowCredit b ≠ 0)
    (test : endTest (s.setupOf b) ((s.bed b).plus (s.windowCredit b)) (credited (s.windowCredit b) r) = some c) :
    ((t.bed b).state.credited = false)
      ∧ (s.valve b = .opened → (s.setupOf b).kind = .latch → CycleEnded b (credited (s.windowCredit b) r) c s t)
      ∧ (s.valve b = .opened → (s.setupOf b).kind = .held → s.sl.station.admits (.free b.val) = true →
          t.valve b = .closed ∧ t.hasEntry s.sl.own b.val = false ∧ ∃ q ∈ t.tq.queue, q.notice = .free b.val) := by
  obtain ⟨v, passes, offers, -⟩ := h
  obtain ⟨y, billed⟩ := windowCredited_at m
  have bed : y.bed b = s.bed b := billed.aside.bed
  have setup : y.setupOf b = s.setupOf b := billed.aside.setup
  have valve : y.valve b = s.valve b := billed.aside.valve
  have sl : y.sl = s.sl := billed.before.sl
  have here : (y.bed b).state.credited = true := by rw [bed]; exact mem_creditedBeds.1 m
  have runs : (y.bed b).run = some r := by rw [bed, run]
  have ends : y.creditEnd b (s.windowCredit b) = some c := by
    rw [creditEnd_run here runs, if_neg some', bed, setup]
    exact test
  obtain ⟨cuts, counted⟩ := credit_ends ends runs
  have claim : s.windowCredited.sb.claim = s.sb.claim := (windowCredited_bills s).claim
  have calm : (s.windowCredited.bed b).state.calm := by
    rw [billed.rest.bed]
    exact credit_rests ends
  have aside := passes.calm b (by rw [claim]; exact spares) calm
  have whole : Aside b (y.credit b (s.windowCredit b)) v := billed.rest.toAside.trans aside
  have plain := creditEnd_plain ends
  refine ⟨?_, fun opened latch => ?_, fun opened held admits => ?_⟩
  · cases out : (t.bed b).state.credited with
    | false => rfl
    | true =>
      have before := credited_before offers out
      rw [aside.bed, credited_of_cycling calm.1] at before
      cases before
  · rw [cuts] at whole
    have ended : CycleEnded b (credited (s.windowCredit b) r) c (y.addCredit b (s.windowCredit b)) v :=
      cycleEnded_after (cycleEnded_endCycle plain counted (unshut_opened (valve.trans opened) (by rw [← latch, ← setup]; rfl))) whole
    have last : CycleEnded b (credited (s.windowCredit b) r) c s v := ⟨ended.state, ended.run, ended.valve.trans (by
      change (if y.valve b = .opened then _ else y.valve b) = _
      rw [valve])⟩
    exact cycleEnded_after last (offers.aside (by rw [last.state]; nofun))
  · obtain ⟨shut, gone, free⟩ := endCycle_held (s := y.addCredit b (s.windowCredit b)) plain (valve.trans opened) (by rw [← held, ← setup]; rfl)
      (by
        change y.sl.station.admits _ = true
        rw [sl]
        exact admits)
    rw [← cuts] at shut gone free
    change (y.credit b (s.windowCredit b)).hasEntry y.sl.own b.val = false at gone
    refine ⟨?_, ?_, ?_⟩
    · rw [State.valve, offers.vd]
      exact whole.valve.trans shut
    · have own : (y.credit b (s.windowCredit b)).sl = s.sl := (bills_credit b _ y).sl.trans sl
      rw [sl, ← own] at gone
      have later := billed.after.absent b.val gone
      have own' : s.windowCredited.sl = s.sl := (windowCredited_bills s).sl
      rw [own, ← own'] at later
      rw [hasEntry_congr offers.book, ← own']
      exact passes.absent b later
    · obtain ⟨l, queue⟩ := billed.after.waits
      obtain ⟨l', queue'⟩ := offers.waits
      refine ⟨⟨.free b.val, 0, false⟩, ?_, rfl⟩
      rw [queue']
      refine List.mem_append_left _ (passes.notices _ ?_ rfl rfl)
      rw [queue]
      exact List.mem_append_left _ free

/-- Where no test holds the cycle goes on, or one of the window's or the event's own cuts ends it. -/
theorem Ends.untested
    (none' : s.windowCredit b = 0 ∨ endTest (s.setupOf b) ((s.bed b).plus (s.windowCredit b)) (credited (s.windowCredit b) r) = none) :
    ((t.bed b).state.credited = true → (t.bed b).run = some (credited (s.windowCredit b) r))
      ∧ (s.valve b = .opened → (s.setupOf b).kind = .latch → (t.bed b).state.credited = true
          ∨ ∃ c : EndCause, c.cuts ∧ CycleEnded b (credited (s.windowCredit b) r) c s t) := by
  obtain ⟨v, passes, offers, -⟩ := h
  obtain ⟨y, billed⟩ := windowCredited_at m
  have bed : y.bed b = s.bed b := billed.aside.bed
  have setup : y.setupOf b = s.setupOf b := billed.aside.setup
  have here : (y.bed b).state.credited = true := by rw [bed]; exact mem_creditedBeds.1 m
  have runs : (y.bed b).run = some r := by rw [bed, run]
  have untested : y.creditEnd b (s.windowCredit b) = none := by
    rw [creditEnd_run here runs, bed, setup]
    rcases none' with zero | test
    · rw [if_pos zero]
    · split
      · rfl
      · exact test
  obtain ⟨state, valve, -, counted⟩ := credit_goes here untested runs
  have claim : s.windowCredited.sb.claim = s.sb.claim := (windowCredited_bills s).claim
  have goes : (s.windowCredited.bed b).state.credited = true := by rw [billed.rest.bed, state, here]
  have record : (s.windowCredited.bed b).run = some (credited (s.windowCredit b) r) := by rw [billed.rest.bed, counted]; rfl
  have stands : s.windowCredited.valve b = s.valve b := by rw [billed.rest.valve, valve, billed.aside.valve]; rfl
  rcases passes.fares b (by rw [claim]; exact spares) goes with stays | cut
  · have aside : Aside b v t := offers.aside (not_waiting_of_credited stays.credited)
    have last : (t.bed b).state.credited = true := by rw [aside.bed, stays.credited]
    exact ⟨fun _ => by rw [aside.bed, stays.run, record], fun _ _ => .inl last⟩
  · refine ⟨fun on => ?_, fun opened latch => .inr ?_⟩
    · have before := credited_before offers on
      rw [credited_of_cycling cut.calm.1] at before
      cases before
    · have kind : s.windowCredited.setupOf b = s.setupOf b := by unfold State.setupOf; rw [(windowCredited_bills s).sl]; rfl
      obtain ⟨c, cuts, ended⟩ := cut.ended (stands.trans opened) (by rw [kind, latch]) _ record
      have last : CycleEnded b (credited (s.windowCredit b) r) c s v := ⟨ended.state, ended.run, by rw [ended.valve, stands]⟩
      exact ⟨c, cuts, cycleEnded_after last (offers.aside (by rw [last.state]; nofun))⟩

end Cycle

end Sys2Proof.RateWindow

/-! PROOFS. The checks of a rate window: the counts, the alerts and the draw entry (R152 to R156). -/

namespace Sys2Proof.RateWindow

open Sys2Proof.Machine
open HoldJoins (SameFault)

variable {b d : BedId} {s t u v x y : State} {r : Run} {c e : EndCause} {n k flow : Nat} {w : Window}

/-! ### The counts of the checks (R153 to R156) -/

/-- The counts of the checks, DRAWING and the quiet count. -/
structure Counts where
  leak : Nat
  noflow : Nat
  stuck : Nat
  drawing : Bool
  quiet : Nat

def countsOf (s : State) : Counts := ⟨s.fm.leakRun, s.fm.noflowRun, s.fm.stuckRun, s.fm.drawing, s.fm.quiet⟩

theorem counts_outer (h : t.outer = s.outer) : countsOf t = countsOf s := by
  have same := congrArg countsOf h
  exact same

theorem counts_inside (h : Inside s t) : countsOf t = countsOf s := counts_outer h.outer

/-- A check's count after a window: back to 0 where it fires. -/
def countAfter (met : Bool) (n : Nat) : Nat := if 3 ≤ countCheck met n then 0 else countCheck met n

theorem countAfter_zero {met : Bool} (h : met = false ∨ 2 ≤ n) : countAfter met n = 0 := by
  unfold countAfter countCheck
  cases met with
  | false => rfl
  | true =>
    have many : 2 ≤ n := h.resolve_left nofun
    rw [if_pos rfl, if_pos (by omega)]

theorem countAfter_next {met : Bool} (h : met = true) (few : n < 2) : countAfter met n = n + 1 := by
  unfold countAfter countCheck
  rw [h, if_pos rfl, if_neg (by omega)]

/-- A check fires at its third window in a row. -/
theorem fires_iff (met : Bool) (n : Nat) : checkLimit ≤ countCheck met n ↔ met = true ∧ 2 ≤ n := by
  unfold countCheck checkLimit
  cases met with
  | false => simp
  | true =>
    simp only [if_true, true_and]
    omega

theorem inside_fireBranch (w : Window) (f : BedFault) (c : EndCause) (s : State) : Inside s (State.fireBranch w f c s) :=
  (foldl_keeps Inside.refl (fun _ _ _ => Inside.trans) (fun s d => (bedwise_faultBed d c s).toInside) w.running s).trans (inside_raise ..)

theorem leakCheck_eq (w : Window) (s : State) : s.leakCheck w =
    if w.leaks = true ∧ 2 ≤ s.fm.leakRun then State.fireBranch w .leak .leak { s with fm.leakRun := countAfter w.leaks s.fm.leakRun }
    else { s with fm.leakRun := countAfter w.leaks s.fm.leakRun } := by
  unfold State.leakCheck
  dsimp only
  by_cases fires : w.leaks = true ∧ 2 ≤ s.fm.leakRun
  · rw [if_pos ((fires_iff ..).2 fires), if_pos fires, countAfter_zero (.inr fires.2)]
  · rw [if_neg (mt (fires_iff ..).1 fires), if_neg fires, show countAfter w.leaks s.fm.leakRun = countCheck w.leaks s.fm.leakRun from
      if_neg (mt (fires_iff ..).1 fires)]

theorem noflowCheck_eq (w : Window) (s : State) : s.noflowCheck w =
    if w.starves = true ∧ 2 ≤ s.fm.noflowRun then State.fireBranch w .noflow .noflow { s with fm.noflowRun := countAfter w.starves s.fm.noflowRun }
    else { s with fm.noflowRun := countAfter w.starves s.fm.noflowRun } := by
  unfold State.noflowCheck
  dsimp only
  by_cases fires : w.starves = true ∧ 2 ≤ s.fm.noflowRun
  · rw [if_pos ((fires_iff ..).2 fires), if_pos fires, countAfter_zero (.inr fires.2)]
  · rw [if_neg (mt (fires_iff ..).1 fires), if_neg fires, show countAfter w.starves s.fm.noflowRun = countCheck w.starves s.fm.noflowRun from
      if_neg (mt (fires_iff ..).1 fires)]

/-- A window counts towards STUCK (R155, R156). -/
def State.strays (w : Window) (s : State) : Bool := w.runsOn && !s.fm.drawing && decide (s.sl.station ≠ .barred)

/-- The state in which STUCK places the draw entry. -/
def stuckAlert (w : Window) (s : State) : State :=
  { s.setPending .stuck 8 (instantRate s.fm.lastInterval w.k) with fm.stuckRun := 0, fm.drawing := true, fm.quiet := 0 }

theorem stuckCheck_eq (w : Window) (s : State) : s.stuckCheck w =
    if State.strays w s = true ∧ 2 ≤ s.fm.stuckRun then State.placeDraw (rateUp w.p w.k) (stuckAlert w s)
    else { s with fm.stuckRun := countAfter (State.strays w s) s.fm.stuckRun } := by
  unfold State.stuckCheck
  dsimp only
  rw [show (w.runsOn && !s.fm.drawing && decide (s.sl.station ≠ StationState.barred)) = State.strays w s from rfl]
  by_cases fires : State.strays w s = true ∧ 2 ≤ s.fm.stuckRun
  · rw [if_pos ((fires_iff ..).2 fires), if_pos fires]
    rfl
  · rw [if_neg (mt (fires_iff ..).1 fires), if_neg fires, show countAfter (State.strays w s) s.fm.stuckRun
      = countCheck (State.strays w s) s.fm.stuckRun from if_neg (mt (fires_iff ..).1 fires)]

/-! ### The draw entry (R57) -/

theorem placeDraw_fm (flow : Nat) (s : State) : countsOf (s.placeDraw flow) = countsOf s := by
  have inserts : countsOf (s.insert (s.drawEntry flow)) = countsOf s := by
    unfold State.insert
    split
    · rfl
    · split
      · rfl
      · unfold State.skipInsertion
        rw [State.setPending_rest]
        rfl
  rw [placeDraw_eq]
  split
  · unfold State.changeEntry
    dsimp only
    split <;> rfl
  · split
    · rw [counts_inside (tracks_ownCommitted _).toInside, inserts]
    · exact inserts

/-- Places and refreshes leave the latches of other causes than SATURATED and LINE. -/
theorem ownCommitted_latch {c : Cause} (line : c ≠ .line) (discard : c ≠ .discard) (s : State) : s.ownCommitted.latch c = s.latch c :=
  (tracks_ownCommitted s).latches c (fun e => absurd e line) discard

theorem insertDraw_latch {c : Cause} (absent : s.hasEntry s.sl.own drawBed = false) (sat : c ≠ .saturated) :
    (s.insert (s.drawEntry flow)).latch c = s.latch c := by
  rw [insertDraw_eq absent]
  split
  · rfl
  · unfold State.skipInsertion
    rw [State.latch_setPending, if_neg sat]
    rfl

theorem placeDraw_latch {c : Cause} (sat : c ≠ .saturated) (line : c ≠ .line) (discard : c ≠ .discard) (flow : Nat) (s : State) :
    (s.placeDraw flow).latch c = s.latch c := by
  rw [placeDraw_eq]
  split
  · unfold State.changeEntry
    dsimp only
    split <;> rfl
  · rename_i absent
    have inserts := insertDraw_latch (flow := flow) (by simpa using absent) sat
    split
    · rw [ownCommitted_latch line discard, inserts]
    · exact inserts

/-- Of the fault record a place can lock the one of a lost line alone. -/
theorem insertDraw_fault (absent : s.hasEntry s.sl.own drawBed = false) : SameFault s (s.insert (s.drawEntry flow)) := by
  rw [insertDraw_eq absent]
  split
  · exact ⟨rfl, rfl⟩
  · unfold State.skipInsertion
    exact ⟨State.setPending_record .., by unfold State.setPending; split <;> rfl⟩

theorem changeEntry_fault (st bd : Nat) (f : Entry → Entry) (s : State) : SameFault s (s.changeEntry st bd f) := by
  unfold State.changeEntry
  dsimp only
  split <;> exact ⟨rfl, rfl⟩

theorem placeDraw_fault (line : s.lineLost = false) (flow : Nat) : SameFault s (s.placeDraw flow) := by
  rw [placeDraw_eq]
  split
  · exact changeEntry_fault ..
  · rename_i absent
    have absent' : s.hasEntry s.sl.own drawBed = false := by simpa using absent
    have inserts := insertDraw_fault (flow := flow) absent'
    split
    · exact inserts.trans ((tracks_ownCommitted _).fault ((passes_insertDraw absent' flow).notLost line))
    · exact inserts

/-- A locked record stays, and the mark of more faults. -/
structure Locked (s t : State) : Prop where
  record : ∀ f, s.au.record = some f → t.au.record = some f
  more : s.au.more = true → t.au.more = true

theorem Locked.trans (h : Locked s t) (k : Locked t u) : Locked s u := ⟨fun f e => k.record f (h.record f e), fun e => k.more (h.more e)⟩

theorem Locked.of_fault (h : SameFault s t) : Locked s t := ⟨fun f e => by rw [h.1, e], fun e => by rw [h.2, e]⟩

theorem Locked.of_worked (h : Worked s t) : Locked s t := ⟨h.record, h.more⟩

theorem placeDraw_locked (flow : Nat) (s : State) : Locked s (s.placeDraw flow) := by
  rw [placeDraw_eq]
  split
  · exact .of_fault (changeEntry_fault ..)
  · rename_i absent
    have inserts := Locked.of_fault (insertDraw_fault (flow := flow) (by simpa using absent : s.hasEntry s.sl.own drawBed = false))
    split
    · exact inserts.trans (.of_worked (tracks_ownCommitted _).toWorked)
    · exact inserts

theorem removeDraw_fault (s : State) : SameFault s s.removeDraw := by
  unfold State.removeDraw
  split
  · dsimp only
    rw [Overdraw.remove_rest]
    split
    · exact ⟨rfl, rfl⟩
    · exact offer_fault ..
  · exact ⟨rfl, rfl⟩

theorem hasEntry_iff (s : State) : s.hasEntry s.sl.own drawBed = (s.ownEntry 8).isSome := by
  exact hasEntry_entry s.sl.own 8 s

/-- A refresh changes the entry's flow. -/
theorem placeDraw_refreshes {e : Entry} (has : s.ownEntry 8 = some e) (flow : Nat) :
    (s.placeDraw flow).ownEntry 8 = some { e with flow := flow } := by
  rw [placeDraw_eq, if_pos (by rw [hasEntry_iff, has]; rfl)]
  have own : (s.changeEntry s.sl.own drawBed fun e => { e with flow := flow }).sl = s.sl := PeerEntries.changeEntry_own ..
  unfold State.ownEntry
  rw [own, show (8 : Nat) = drawBed from rfl, entry_changeEntry s.sl.own drawBed (fun e => { e with flow := flow }) (fun _ => ⟨rfl, rfl⟩) s,
    show s.entry s.sl.own drawBed = some e from has]
  rfl

/-- A place where the book has room. -/
theorem placeDraw_places (absent : s.ownEntry 8 = none) (room : s.sb.book.length < 32) (flow : Nat) :
    (s.placeDraw flow).ownEntry 8 = some (s.drawEntry flow) := by
  have out : s.hasEntry s.sl.own drawBed = false := by rw [hasEntry_iff, absent]; rfl
  have places : (s.insert (s.drawEntry flow)).ownEntry 8 = some (s.drawEntry flow) := by
    rw [insertDraw_eq out, if_pos room]
    change (s.sb.book ++ [s.drawEntry flow]).find? (fun e => e.named s.sl.own 8) = _
    rw [List.find?_append, show s.sb.book.find? (fun e => e.named s.sl.own 8) = none from absent]
    simp [State.drawEntry, Entry.named, drawBed]
  rw [placeDraw_eq, if_neg (by rw [out]; nofun)]
  split
  · rw [(tracks_ownCommitted _).draw, places]
  · exact places

/-- A place that finds the book full. -/
theorem placeDraw_full (absent : s.ownEntry 8 = none) (full : s.sb.book.length = 32) (flow : Nat) :
    (s.placeDraw flow).ownEntry 8 = none ∧ ((s.placeDraw flow).latch .saturated).pending = true
      ∧ ((s.placeDraw flow).latch .saturated).value = 32 := by
  have out : s.hasEntry s.sl.own drawBed = false := by rw [hasEntry_iff, absent]; rfl
  have skips : s.insert (s.drawEntry flow) = s.skipInsertion := by rw [insertDraw_eq out, if_neg (by omega)]
  have book : s.skipInsertion.sb.book = s.sb.book ∧ s.skipInsertion.sl = s.sl := by
    unfold State.skipInsertion
    rw [State.setPending_rest]
    exact ⟨rfl, rfl⟩
  have still : s.skipInsertion.ownEntry 8 = none := by rw [ownEntry_congr book.2 book.1, absent]
  have none' : s.placeDraw flow = s.skipInsertion := by
    rw [placeDraw_eq, if_neg (by rw [out]; nofun), skips, if_neg (by rw [hasEntry_iff, still]; nofun)]
  rw [none']
  refine ⟨still, ?_⟩
  unfold State.skipInsertion
  rw [State.latch_setPending, if_pos rfl, full]
  exact ⟨rfl, rfl⟩

end Sys2Proof.RateWindow

/-! PROOFS. The checks of a rate window, one after the other, and the windows that meet them (R152 to R156). -/

namespace Sys2Proof.RateWindow

open Sys2Proof.Machine
open HoldJoins (SameFault raise_locked)

variable {b d : BedId} {s t u v x y : State} {r : Run} {c e : EndCause} {n k flow : Nat} {w : Window}

/-! ### What a window is judged by (R152) -/

theorem transient_iff (x : BedState) : x.transient = false ↔ x ≠ .opening ∧ x ≠ .confirming ∧ x ≠ .closing := by
  cases x <;> simp [BedState.transient]

theorem steady_iff (s : State) : s.steady = true ↔ 0 < s.sl.setup.pulsesPerLitre ∧ s.fm.lastTransient + 10 * 12000 ≤ s.now
    ∧ ∀ b, (s.bed b).state ≠ .opening ∧ (s.bed b).state ≠ .confirming ∧ (s.bed b).state ≠ .closing
      ∧ ((s.bed b).state ≠ .off → s.valve b ≠ .unknown) := by
  unfold State.steady State.metered
  rw [Bool.and_eq_true, Bool.and_eq_true, decide_eq_true_iff, decide_eq_true_iff, List.all_eq_true]
  constructor
  · rintro ⟨⟨metered, beds⟩, rested⟩
    refine ⟨metered, rested, fun b => ?_⟩
    have here := beds b (mem_allBeds b)
    simp only [Bool.and_eq_true, Bool.not_eq_true', Bool.or_eq_true, decide_eq_true_eq] at here
    obtain ⟨opening, confirming, closing⟩ := (transient_iff _).1 here.1
    exact ⟨opening, confirming, closing, fun on => here.2.resolve_left on⟩
  · rintro ⟨metered, rested, beds⟩
    refine ⟨⟨metered, fun b _ => ?_⟩, rested⟩
    obtain ⟨opening, confirming, closing, known⟩ := beds b
    simp only [Bool.and_eq_true, Bool.not_eq_true', Bool.or_eq_true, decide_eq_true_eq]
    exact ⟨(transient_iff _).2 ⟨opening, confirming, closing⟩, or_iff_not_imp_left.2 known⟩

theorem active_iff (s : State) : s.window.active = true ↔ ∃ b, s.valve b = .opening ∨ s.valve b = .opened ∨ s.valve b = .closing := by
  change (!s.activeValves.isEmpty) = true ↔ _
  rw [Bool.not_eq_true', List.isEmpty_eq_false_iff_exists_mem]
  refine exists_congr fun b => ?_
  unfold State.activeValves
  rw [List.mem_filter, and_iff_right (mem_allBeds b)]
  cases s.valve b <;> simp [ValveState.active]

theorem leaks_iff (s : State) : s.window.leaks = true ↔ s.steady = true ∧ s.runningBeds ≠ []
    ∧ (5 * s.nominal s.runningBeds + 8) * s.sl.setup.pulsesPerLitre < 96 * s.fm.pulses := by
  unfold Window.leaks
  rw [Bool.and_eq_true, Bool.and_eq_true, Bool.not_eq_true', decide_eq_true_iff, and_assoc, List.isEmpty_eq_false_iff]
  rfl

theorem starves_iff (s : State) : s.window.starves = true ↔ s.steady = true ∧ s.runningBeds ≠ []
    ∧ 48 * s.fm.pulses < s.nominal s.runningBeds * s.sl.setup.pulsesPerLitre := by
  unfold Window.starves
  rw [Bool.and_eq_true, Bool.and_eq_true, Bool.not_eq_true', decide_eq_true_iff, and_assoc, List.isEmpty_eq_false_iff]
  rfl

/-- No window both leaks and starves. -/
theorem not_both (s : State) (leaks : s.window.leaks = true) : s.window.starves = false := by
  refine Bool.eq_false_of_not_eq_true fun starves => ?_
  obtain ⟨-, -, much⟩ := (leaks_iff s).1 leaks
  obtain ⟨-, -, little⟩ := (starves_iff s).1 starves
  have more : 5 * (s.nominal s.runningBeds * s.sl.setup.pulsesPerLitre) ≤ (5 * s.nominal s.runningBeds + 8) * s.sl.setup.pulsesPerLitre := by
    rw [Nat.add_mul, Nat.mul_assoc]
    exact Nat.le_add_right _ _
  omega

theorem strays_iff (s : State) (like : x.fm.drawing = s.fm.drawing ∧ x.sl = s.sl) : State.strays s.window x = true ↔ s.steady = true
    ∧ s.window.active = false ∧ s.sl.setup.pulsesPerLitre ≤ 12 * s.fm.pulses ∧ s.fm.drawing = false ∧ s.sl.station ≠ .barred := by
  unfold State.strays Window.runsOn
  rw [like.1, like.2]
  simp only [Bool.and_eq_true, Bool.not_eq_true', decide_eq_true_eq, and_assoc]
  exact Iff.rfl

/-! ### The counts, check by check -/

theorem leakCheck_counts (w : Window) (s : State) :
    countsOf (s.leakCheck w) = { countsOf s with leak := countAfter w.leaks s.fm.leakRun } := by
  rw [leakCheck_eq]
  split
  · rw [counts_inside (inside_fireBranch ..)]
    rfl
  · rfl

theorem noflowCheck_counts (w : Window) (s : State) :
    countsOf (s.noflowCheck w) = { countsOf s with noflow := countAfter w.starves s.fm.noflowRun } := by
  rw [noflowCheck_eq]
  split
  · rw [counts_inside (inside_fireBranch ..)]
    rfl
  · rfl

theorem stuckCheck_counts (w : Window) (s : State) : countsOf (s.stuckCheck w) =
    if State.strays w s = true ∧ 2 ≤ s.fm.stuckRun then { countsOf s with stuck := 0, drawing := true, quiet := 0 }
    else { countsOf s with stuck := countAfter (State.strays w s) s.fm.stuckRun } := by
  rw [stuckCheck_eq]
  split
  · rw [placeDraw_fm]
    unfold stuckAlert
    rw [State.setPending_rest]
    rfl
  · rfl

theorem drawStep_active (active : w.active = true) : s.drawStep w = s := if_pos active

theorem drawStep_flows (still : w.active = false) (flows : w.k ≤ 24 * w.p) :
    s.drawStep w = State.placeDraw (rateUp w.p w.k) { s with fm.quiet := 0 } := by
  unfold State.drawStep
  rw [still, if_neg nofun, if_pos flows]

theorem drawStep_ends (still : w.active = false) (dry : ¬ w.k ≤ 24 * w.p) (quiet : 2 ≤ s.fm.quiet) :
    s.drawStep w = State.removeDraw { s with fm.drawing := false, fm.quiet := 0 } := by
  unfold State.drawStep
  rw [still, if_neg nofun, if_neg dry, if_pos (by omega)]

theorem drawStep_waits (still : w.active = false) (dry : ¬ w.k ≤ 24 * w.p) (quiet : s.fm.quiet < 2) :
    s.drawStep w = { s with fm.quiet := s.fm.quiet + 1 } := by
  unfold State.drawStep
  rw [still, if_neg nofun, if_neg dry, if_neg (by omega)]

/-- The draw table leaves the counts of the checks. -/
theorem drawStep_counts (w : Window) (s : State) : (s.drawStep w).fm.leakRun = s.fm.leakRun ∧ (s.drawStep w).fm.noflowRun = s.fm.noflowRun
    ∧ (s.drawStep w).fm.stuckRun = s.fm.stuckRun := by
  have reads (t : State) (h : ∃ y q, countsOf t = { countsOf s with drawing := y, quiet := q }) :
      t.fm.leakRun = s.fm.leakRun ∧ t.fm.noflowRun = s.fm.noflowRun ∧ t.fm.stuckRun = s.fm.stuckRun := by
    obtain ⟨y, q, h⟩ := h
    exact ⟨congrArg Counts.leak h, congrArg Counts.noflow h, congrArg Counts.stuck h⟩
  refine reads _ ?_
  unfold State.drawStep
  split
  · exact ⟨_, _, rfl⟩
  · split
    · exact ⟨_, _, placeDraw_fm ..⟩
    · split
      · exact ⟨false, 0, counts_inside (inside_removeDraw { s with fm.drawing := false, fm.quiet := 0 })⟩
      · exact ⟨_, _, rfl⟩

/-! ### What the checks of a branch leave (R153, R154) -/

theorem book_length (h : Inside s t) : t.sb.book.length ≤ s.sb.book.length := by
  have names := h.names.length_le
  rwa [Machine.names, Machine.names, List.length_map, List.length_map] at names

theorem fireBranch_draw (w : Window) (f : BedFault) (cuts : c.cuts) (s : State) : (State.fireBranch w f c s).ownEntry 8 = s.ownEntry 8 := by
  have faults : Tracks s (w.running.foldl (fun s b => s.faultBed b c) s) := tracks_foldl (fun s d => tracks_faultBed d cuts s) w.running s
  unfold State.fireBranch
  rw [raise_same]
  exact faults.draw

theorem fireBranch_length (w : Window) (f : BedFault) (c : EndCause) (s : State) :
    (State.fireBranch w f c s).sb.book.length ≤ s.sb.book.length := book_length (inside_fireBranch w f c s)

theorem leakCheck_draw (w : Window) (s : State) : (s.leakCheck w).ownEntry 8 = s.ownEntry 8 ∧ (s.leakCheck w).sb.book.length ≤ s.sb.book.length := by
  rw [leakCheck_eq]
  split
  · exact ⟨fireBranch_draw w .leak (.inl rfl) _,
      fireBranch_length w .leak .leak { s with fm.leakRun := countAfter w.leaks s.fm.leakRun }⟩
  · exact ⟨rfl, le_rfl⟩

theorem noflowCheck_draw (w : Window) (s : State) :
    (s.noflowCheck w).ownEntry 8 = s.ownEntry 8 ∧ (s.noflowCheck w).sb.book.length ≤ s.sb.book.length := by
  rw [noflowCheck_eq]
  split
  · exact ⟨fireBranch_draw w .noflow (.inr (.inl rfl)) _,
      fireBranch_length w .noflow .noflow { s with fm.noflowRun := countAfter w.starves s.fm.noflowRun }⟩
  · exact ⟨rfl, le_rfl⟩

/-- A branch check without a bed in RUNNING is a count alone. -/
theorem leakCheck_bare (bare : w.leaks = false) (s : State) : s.leakCheck w = { s with fm.leakRun := 0 } := ConfirmTimers.leakCheck_unmet bare

theorem noflowCheck_bare (bare : w.starves = false) (s : State) : s.noflowCheck w = { s with fm.noflowRun := 0 } := ConfirmTimers.noflowCheck_unmet bare

/-- The alert of a branch check, with its fault (R153, R154, R173). -/
theorem fireBranch_alert (w : Window) (f : BedFault) (c : EndCause) (s : State) :
    ((State.fireBranch w f c s).latch f.cause).pending = true
      ∧ ((State.fireBranch w f c s).latch f.cause).value = word16 (rateDown w.p w.k)
      ∧ (∀ b rest, w.running = b :: rest → ((State.fireBranch w f c s).latch f.cause).bed = b.val
        ∧ (s.au.record = none → (State.fireBranch w f c s).au.record
            = some ⟨f.cause, b.val, 0, 0, word16 (rateDown w.p w.k), word16 w.expected, s.clockMinute⟩))
      ∧ (s.au.record ≠ none → (State.fireBranch w f c s).au.record = s.au.record ∧ (State.fireBranch w f c s).au.more = true) := by
  have faults : SameFault s (w.running.foldl (fun s b => s.faultBed b c) s) :=
    foldl_keeps (R := SameFault) (fun _ => ⟨rfl, rfl⟩) (fun _ _ _ => SameFault.trans) (fun s d => (bedwise_faultBed d c s).fault) w.running s
  have inside : Inside s (w.running.foldl (fun s b => s.faultBed b c) s) :=
    foldl_keeps Inside.refl (fun _ _ _ => Inside.trans) (fun s d => (bedwise_faultBed d c s).toInside) w.running s
  unfold State.fireBranch
  dsimp only
  generalize w.running.foldl (fun s b => s.faultBed b c) s = t at faults inside
  refine ⟨by rw [raise_pending], by rw [raise_pending], fun b rest head => ⟨?_, fun none => ?_⟩, fun some' => ?_⟩
  · rw [raise_pending, head]
    rfl
  · rw [raise_record _ _ _ _ _ _ _ (faults.1.trans none), head]
    have clock : t.clockMinute = s.clockMinute := by
      unfold State.clockMinute
      rw [inside.pw]
    rw [clock]
    rfl
  · obtain ⟨f', record⟩ := Option.ne_none_iff_exists'.1 some'
    obtain ⟨stays, more⟩ := raise_locked f.cause ((w.running.head?.map Fin.val).getD 15) (rateDown w.p w.k) 0 0 (rateDown w.p w.k) w.expected
      (faults.1.trans record)
    exact ⟨stays.trans record.symm, more⟩

/-! ### Later checks (R155, R156) -/

/-- A later check leaves the alert of a branch check, and the fault record that it locked. -/
structure Later (c : Cause) (s t : State) : Prop where
  latch : t.latch c = s.latch c
  locked : Locked s t

theorem Later.trans {c : Cause} (h : Later c s t) (k : Later c t u) : Later c s u := ⟨k.latch.trans h.latch, h.locked.trans k.locked⟩

theorem later_same (c : Cause) (au : t.au = s.au) : Later c s t := ⟨by rw [State.latch, au]; rfl, .of_fault ⟨by rw [au], by rw [au]⟩⟩

theorem branch_cause {c : Cause} (own : c = .leak ∨ c = .noflow ∨ c = .stuck) : c ≠ .saturated ∧ c ≠ .line ∧ c ≠ .discard := by
  rcases own with e | e | e <;> rw [e] <;> exact ⟨nofun, nofun, nofun⟩

theorem later_placeDraw {c : Cause} (own : c = .leak ∨ c = .noflow ∨ c = .stuck) (flow : Nat) (s : State) : Later c s (s.placeDraw flow) :=
  have ⟨sat, line, discard⟩ := branch_cause own
  ⟨placeDraw_latch sat line discard flow s, placeDraw_locked flow s⟩

theorem later_stuckCheck {c : Cause} (own : c = .leak ∨ c = .noflow) (w : Window) (s : State) : Later c s (s.stuckCheck w) := by
  rw [stuckCheck_eq]
  split
  · have alert : Later c s (stuckAlert w s) := by
      refine ⟨?_, ⟨fun f e => ?_, fun e => ?_⟩⟩
      · change (s.setPending .stuck 8 (instantRate s.fm.lastInterval w.k)).latch c = _
        rw [State.latch_setPending, if_neg (by rcases own with e | e <;> rw [e] <;> nofun)]
      · change (s.setPending .stuck 8 (instantRate s.fm.lastInterval w.k)).au.record = _
        rw [State.setPending_record, e]
      · change (s.setPending .stuck 8 (instantRate s.fm.lastInterval w.k)).au.more = _
        unfold State.setPending
        split <;> exact e
    exact alert.trans (later_placeDraw (own.elim .inl (.inr ∘ .inl)) ..)
  · exact later_same c rfl

theorem later_drawStep {c : Cause} (own : c = .leak ∨ c = .noflow ∨ c = .stuck) (w : Window) (s : State) : Later c s (s.drawStep w) := by
  unfold State.drawStep
  split
  · exact later_same c rfl
  · split
    · have places := later_placeDraw own (rateUp w.p w.k) { s with fm.quiet := 0 }
      exact ⟨places.latch, ⟨places.locked.record, places.locked.more⟩⟩
    · split
      · exact ⟨removeDraw_latch (branch_cause own).2.2 { s with fm.drawing := false, fm.quiet := 0 },
          .of_fault (removeDraw_fault { s with fm.drawing := false, fm.quiet := 0 })⟩
      · exact later_same c rfl

theorem later_finish {c : Cause} (line : c ≠ .line) (discard : c ≠ .discard) (s : State) : ((s.finish.latch c).pending = (s.latch c).pending
    ∧ (s.finish.latch c).bed = (s.latch c).bed ∧ (s.finish.latch c).value = (s.latch c).value) ∧ Locked s s.finish := by
  obtain ⟨v, tracks, offers, -⟩ := finish_tracks s
  exact ⟨PeerNotices.latch_finish (fun e => absurd e line) discard,
    (Locked.of_worked tracks.toWorked).trans (.of_fault ⟨offers.sameRecord, offers.more⟩)⟩

end Sys2Proof.RateWindow

/-! PROOFS. A rate window whose checks fire: the beds that were RUNNING, and the draw entry (R153 to R156). -/

namespace Sys2Proof.RateWindow

open Sys2Proof.Machine Sys2Proof.SkipOrders
open HoldJoins (SameFault)

variable {b d : BedId} {s t u v x y : State} {r : Run} {c e : EndCause} {n k flow : Nat} {w : Window} {f : BedFault}

/-! ### Up to the checks -/

/-- The state in which a window's checks begin. -/
def confirmed (s : State) : State := s.windowCredited.confirmFlows s.window

theorem bills_bedConfirmed (d : BedId) (s : State) : Bills s (s.bedConfirmed d) := by
  unfold State.bedConfirmed
  split
  · rename_i confirming
    have other (b : BedId) (e : (s.bed b).state.credited = false) : b ≠ d := fun eq => by rw [eq, confirming] at e; cases e
    have aside (b : BedId) (e : (s.bed b).state.credited = false) : Aside b s (s.moveBed d .running) := aside_moveBed (other b e) .running s
    exact ⟨rfl, rfl, rfl, rfl, fun b e => by rw [(aside b e).bed, e], aside, ⟨[], by simp [State.moveBed, State.modBed, State.putBed]⟩, fun _ => id, rfl, le_rfl,
      fun _ _ => rfl, ⟨rfl, rfl⟩⟩
  · exact .refl s

theorem bills_ite {p : Prop} [Decidable p] (ht : p → Bills s t) (hu : ¬p → Bills s u) : Bills s (if p then t else u) := by
  split
  · exact ht ‹_›
  · exact hu ‹_›

theorem bills_confirmFlows (w : Window) (s : State) : Bills s (s.confirmFlows w) :=
  bills_ite (fun _ => foldl_bills (fun s b => bills_ite (fun _ => bills_bedConfirmed b s) fun _ => .refl s) allBeds s) fun _ => .refl s

theorem bills_confirmed (s : State) : Bills s.creditStart (confirmed s) := (windowCredited_bills s).trans (bills_confirmFlows ..)

theorem confirmFlows_sb (w : Window) (s : State) : (s.confirmFlows w).sb = s.sb := by
  have one (d : BedId) (s : State) : (if s.confirmedByFlow w d then s.bedConfirmed d else s).sb = s.sb := by
    split
    · unfold State.bedConfirmed
      split <;> rfl
    · rfl
  unfold State.confirmFlows
  split
  · exact foldl_keeps (R := fun s t : State => t.sb = s.sb) (fun _ => rfl) (fun _ _ _ h k => k.trans h) (fun s d => one d s) allBeds s
  · rfl

/-- A bed out of CONFIRMING does not hear of the confirmations. -/
theorem aside_confirmFlows (w : Window) (out : (s.bed b).state ≠ .confirming) : Aside b s (s.confirmFlows w) := by
  have one (d : BedId) (s : State) (out : (s.bed b).state ≠ .confirming) : Aside b s (if s.confirmedByFlow w d then s.bedConfirmed d else s) := by
    split
    · unfold State.bedConfirmed
      split
      · rename_i confirming
        exact aside_moveBed (d := d) (fun eq => out (by rw [eq]; exact confirming)) .running s
      · exact .refl b s
    · exact .refl b s
  have pass (l : List BedId) (s : State) (out : (s.bed b).state ≠ .confirming) :
      Aside b s (l.foldl (fun s d => if s.confirmedByFlow w d then s.bedConfirmed d else s) s) := by
    induction l generalizing s with
    | nil => exact .refl b s
    | cons d l ih =>
      have here := one d s out
      exact here.trans (ih _ (by rw [here.bed]; exact out))
  unfold State.confirmFlows
  split
  · exact pass allBeds s out
  · exact .refl b s

/-! ### The size of a share -/

theorem share_le (volume : Nat) (m : b ∈ s.creditedBeds) : s.share volume b ≤ volume := by
  unfold State.share
  dsimp only
  split
  · exact Nat.sub_le _ _
  · refine Nat.div_le_of_le_mul ?_
    rw [Nat.mul_comm]
    exact Nat.mul_le_mul_right _ (List.le_sum_of_mem (List.mem_map_of_mem m))

/-- A bed of a metered station far enough from its end tests goes on after its credit. -/
theorem running_goes (metered : 0 < s.sl.setup.pulsesPerLitre) (state : (s.bed b).state = .running) (run : (s.bed b).run = some r)
    (need : r.delivered + (10 * s.fm.pulses + s.fm.carry) / s.sl.setup.pulsesPerLitre < r.need)
    (cycle : r.cycleDelivered + (10 * s.fm.pulses + s.fm.carry) / s.sl.setup.pulsesPerLitre < 10 * (s.setupOf b).cycle)
    (cap : (s.bed b).delivered + (10 * s.fm.pulses + s.fm.carry) / s.sl.setup.pulsesPerLitre < 10 * (s.setupOf b).cap) :
    ((confirmed s).bed b).state = .running ∧ ((confirmed s).bed b).run = some (credited (s.windowCredit b) r)
      ∧ (confirmed s).valve b = s.valve b := by
  have m : b ∈ s.creditedBeds := mem_creditedBeds.2 (by rw [state]; rfl)
  obtain ⟨y, billed⟩ := windowCredited_at m
  have bed : y.bed b = s.bed b := billed.aside.bed
  have setup : y.setupOf b = s.setupOf b := billed.aside.setup
  have here : (y.bed b).state.credited = true := by rw [bed, state]; rfl
  have runs : (y.bed b).run = some r := by rw [bed, run]
  have small : s.windowCredit b ≤ (10 * s.fm.pulses + s.fm.carry) / s.sl.setup.pulsesPerLitre := by
    unfold State.windowCredit
    rw [if_neg (Nat.ne_of_gt metered)]
    exact share_le _ m
  have untested : y.creditEnd b (s.windowCredit b) = none := by
    rw [creditEnd_run here runs, bed, setup]
    split
    · rfl
    · unfold endTest
      have below : min ((s.bed b).delivered + s.windowCredit b) 20000 < 10 * (s.setupOf b).cap := lt_of_le_of_lt (min_le_left _ _) (by omega)
      rw [if_neg (by dsimp only; omega), if_neg (by simp [Bed.plus, Nat.not_le.2 below]), if_neg (by dsimp only; omega)]
  obtain ⟨same, valve, -, counted⟩ := credit_goes here untested runs
  have after : (s.windowCredited.bed b).state = .running := by rw [billed.rest.bed, same, bed, state]
  have aside : Aside b s.windowCredited (confirmed s) := aside_confirmFlows s.window (by rw [after]; nofun)
  refine ⟨by rw [aside.bed, after], ?_, ?_⟩
  · rw [aside.bed, billed.rest.bed, counted]
    rfl
  · rw [aside.valve, billed.rest.valve, valve, billed.aside.valve]
    rfl

/-! ### A branch check that fires (R122, R153, R154) -/

theorem runningBeds_nodup (s : State) : s.runningBeds.Nodup := List.Nodup.filter _ (by decide)

theorem mem_runningBeds : b ∈ s.runningBeds ↔ (s.bed b).state = .running := by
  unfold State.runningBeds
  rw [List.mem_filter, and_iff_right (mem_allBeds b), decide_eq_true_iff]

theorem aside_faultBed (ne : b ≠ d) (c : EndCause) (s : State) : Aside b s (s.faultBed d c) := (bedwise_faultBed d c s).aside b ne

/-- The fault that a branch check's cause leads to. -/
def BranchCause (f : BedFault) (c : EndCause) : Prop := f = .leak ∧ c = .leak ∨ f = .noflow ∧ c = .noflow

theorem BranchCause.cuts (h : BranchCause f c) : c.cuts := by
  rcases h with ⟨-, e⟩ | ⟨-, e⟩
  · exact .inl e
  · exact .inr (.inl e)

theorem BranchCause.after (h : BranchCause f c) (soak : Nat) : afterCause (some c) soak = .fault f := by
  rcases h with ⟨e, e'⟩ | ⟨e, e'⟩ <;> rw [e, e'] <;> rfl

/-- One bed of a branch check that fires: untouched before its fault, and after it. -/
theorem fireBranch_at (f : BedFault) (c : EndCause) (m : b ∈ w.running) (once : w.running.Nodup) (s : State) :
    ∃ x, Inside s x ∧ Aside b s x ∧ Aside b (x.faultBed b c) (State.fireBranch w f c s) := by
  obtain ⟨x, inside, before, -, after⟩ := foldl_at (R := Inside) Inside.refl (fun _ _ _ => Inside.trans)
    (fun s d => (bedwise_faultBed d c s).toInside) once m (fun d ne s => aside_faultBed (Ne.symm ne) c s) s
  refine ⟨x, inside, before, after.trans ?_⟩
  unfold State.fireBranch
  dsimp only
  rw [raise_same]
  exact aside_same rfl rfl rfl

theorem fireBranch_uncredited (f : BedFault) (c : EndCause) (m : b ∈ w.running) (once : w.running.Nodup) (s : State) :
    ((State.fireBranch w f c s).bed b).state.credited = false := by
  obtain ⟨x, -, -, after⟩ := fireBranch_at f c m once s
  rw [after.bed]
  exact faultBed_uncredited b c x

/-- A latching bed's cycle ends with the check's cause and goes to CLOSING. -/
theorem fireBranch_latch (h : BranchCause f c) (m : b ∈ w.running) (once : w.running.Nodup) (credits : (s.bed b).state.credited = true)
    (run : (s.bed b).run = some r) (opened : s.valve b = .opened) (latch : (s.setupOf b).kind = .latch) :
    CycleEnded b r c s (State.fireBranch w f c s) := by
  obtain ⟨x, inside, before, after⟩ := fireBranch_at f c m once s
  have faults : x.faultBed b c = x.endCycle b c := if_pos (by rw [before.bed]; exact credits)
  rw [faults] at after
  have unshut : ¬ x.shutsAtOnce b := unshut_opened (by rw [before.valve, opened]) (by rw [before.setup, latch])
  exact cycleEnded_before before (cycleEnded_after (cycleEnded_endCycle h.cuts.plain (by rw [before.bed, run]) unshut) after)

/-- CLOSED, reported to a bed whose cycle a fault has ended: FAULTED (R88, R124). -/
theorem bedClosed_faulted (closing : (s.bed b).state = .closing) (run : (s.bed b).run = some r) (ended : r.endCause = some c)
    (h : BranchCause f c) : ((s.bedClosed b).bed b).state = .faulted ∧ ((s.bedClosed b).bed b).fault = some f := by
  have freed : ((s.freeBed b).bed b).state = .closing := by rw [bed_freeBed, closing]
  obtain ⟨y, brings, bed⟩ : ∃ y, (s.freeBed b).bringTargets b = y ∧ (y.bed b).run = some r ∧ (y.bed b).targets = none := by
    refine ⟨_, rfl, ?_⟩
    rw [bringTargets_closing_eq freed]
    split
    · rename_i none
      exact ⟨by rw [bed_freeBed, run], none⟩
    · rw [State.bed_modBed_same]
      exact ⟨by rw [bed_freeBed, run], rfl⟩
  obtain ⟨runs, targets⟩ := bed
  have faulted : y.toFaulted b f = y.setFaulted b f := toFaulted_eq f targets
  have last : ((y.setFaulted b f).bed b).state = .faulted ∧ ((y.setFaulted b f).bed b).fault = some f := by
    rw [bed_setFaulted]
    exact ⟨rfl, rfl⟩
  unfold State.bedClosed
  rw [if_pos closing]
  dsimp only
  rw [brings, runs]
  dsimp only
  rw [ended, h.after, show y.limited r (.fault f) = .fault f from rfl, show y.enterAfter b (.fault f) = y.setFaulted b f from faulted]
  unfold State.applyKept
  split
  · exact last
  · rw [if_pos last.1]
    exact last

/-- A held bed lets its valve go at once and goes to FAULTED. -/
theorem fireBranch_held (h : BranchCause f c) (m : b ∈ w.running) (once : w.running.Nodup) (credits : (s.bed b).state.credited = true)
    (run : (s.bed b).run = some r) (opened : s.valve b = .opened) (held : (s.setupOf b).kind = .held) :
    ((State.fireBranch w f c s).bed b).state = .faulted ∧ ((State.fireBranch w f c s).bed b).fault = some f
      ∧ (State.fireBranch w f c s).valve b = .closed := by
  obtain ⟨x, inside, before, after⟩ := fireBranch_at f c m once s
  have faults : x.faultBed b c = x.endCycle b c := if_pos (by rw [before.bed]; exact credits)
  obtain ⟨v, drive, shut, ends⟩ := endCycle_shut (s := x) (d := b) h.cuts.plain.1
    (.inr (.inl ⟨by rw [before.setup, held], by rw [before.valve, opened]⟩))
  have closing : (v.bed b).state = .closing := by rw [drive.bed, Overdraw.ending_state]
  have runs := run_ending (d := b) (c := c) (s := x) (r := r) (by rw [before.bed, run])
  rw [← drive.bed] at runs
  obtain ⟨state, fault⟩ := bedClosed_faulted closing runs rfl h
  rw [faults, ends] at after
  exact ⟨by rw [after.bed, state], by rw [after.bed, fault], by rw [after.valve, State.valve, bedClosed_vd]; exact shut⟩

end Sys2Proof.RateWindow

/-! PROOFS. A rate window's checks through the event's end (R152 to R156). -/

namespace Sys2Proof.RateWindow

open Sys2Proof.Machine
open HoldJoins (SameFault)

variable {b d : BedId} {s t u v x y : State} {r : Run} {c e : EndCause} {n k flow : Nat} {w : Window} {f : BedFault}

/-- The state after the branch checks, in which STUCK is judged. -/
def branched (s : State) : State := ((confirmed s).leakCheck s.window).noflowCheck s.window

theorem confirmed_sl (s : State) : (confirmed s).sl = s.sl := (bills_confirmed s).sl

theorem confirmed_counts (s : State) : countsOf (confirmed s) = countsOf s :=
  (counts_outer (bills_confirmed s).outer).trans rfl

theorem windowDone_unmetered (unmetered : s.sl.setup.pulsesPerLitre = 0) : windowDone s = confirmed s := by
  refine if_neg ?_
  unfold State.metered
  rw [show (s.windowCredited.confirmFlows s.window).sl = s.sl from confirmed_sl s, unmetered]
  nofun

theorem windowDone_metered (metered : 0 < s.sl.setup.pulsesPerLitre) : windowDone s =
    if s.fm.drawing = true then State.drawStep s.window ((branched s).stuckCheck s.window) else (branched s).stuckCheck s.window := by
  have meters : (confirmed s).metered = true := by
    unfold State.metered
    rw [confirmed_sl]
    exact decide_eq_true metered
  have draws : (confirmed s).fm.drawing = s.fm.drawing := congrArg Counts.drawing (confirmed_counts s)
  refine (if_pos meters).trans ?_
  rw [← draws]
  rfl

theorem branched_passes (s : State) : Passes (confirmed s) (branched s) := (passes_leakCheck s.window _).trans (passes_noflowCheck s.window _)

theorem branched_counts (s : State) : countsOf (branched s) = { countsOf s with
    leak := countAfter s.window.leaks s.fm.leakRun, noflow := countAfter s.window.starves s.fm.noflowRun } := by
  have leak := leakCheck_counts s.window (confirmed s)
  have before := confirmed_counts s
  have noflow : ((confirmed s).leakCheck s.window).fm.noflowRun = (confirmed s).fm.noflowRun := congrArg Counts.noflow leak
  unfold branched
  rw [noflowCheck_counts, leak, noflow, before]
  rw [show (confirmed s).fm.leakRun = s.fm.leakRun from congrArg Counts.leak before,
    show (confirmed s).fm.noflowRun = s.fm.noflowRun from congrArg Counts.noflow before]

theorem branched_sl (s : State) : (branched s).sl = s.sl := (branched_passes s).sl.trans (confirmed_sl s)

theorem branched_now (s : State) : (branched s).now = s.now := (branched_passes s).now.trans (bills_confirmed s).now

theorem branched_draw (s : State) : (branched s).ownEntry 8 = s.ownEntry 8 ∧ (branched s).sb.book.length ≤ s.sb.book.length := by
  obtain ⟨draw, room⟩ := leakCheck_draw s.window (confirmed s)
  obtain ⟨draw', room'⟩ := noflowCheck_draw s.window ((confirmed s).leakCheck s.window)
  have bills := bills_confirmed s
  exact ⟨draw'.trans (draw.trans bills.draw), room'.trans (room.trans bills.room)⟩

/-- Without a bed in RUNNING the branch checks are counts alone. -/
theorem branched_idle (none : s.runningBeds = []) : (branched s).sb = (confirmed s).sb ∧ (branched s).au = (confirmed s).au := by
  have leaks : s.window.leaks = false := Bool.eq_false_of_not_eq_true fun e => ((leaks_iff s).1 e).2.1 none
  have starves : s.window.starves = false := Bool.eq_false_of_not_eq_true fun e => ((starves_iff s).1 e).2.1 none
  unfold branched
  rw [leakCheck_bare leaks, noflowCheck_bare starves]
  exact ⟨rfl, rfl⟩

theorem runningBeds_nil (none : s.creditedBeds = []) : s.runningBeds = [] := by
  refine List.eq_nil_iff_forall_not_mem.2 fun b m => ?_
  have credits : b ∈ s.creditedBeds := mem_creditedBeds.2 (by rw [mem_runningBeds.1 m]; rfl)
  rw [none] at credits
  cases credits

theorem branched_uncredited (metered : 0 < s.sl.setup.pulsesPerLitre) (none : s.creditedBeds = []) : (branched s).sb = s.sb := by
  rw [(branched_idle (runningBeds_nil none)).1]
  unfold confirmed
  rw [confirmFlows_sb, windowCredited_metered (Nat.ne_of_gt metered)]
  unfold State.creditMetered
  dsimp only
  rw [if_pos (show (ConfirmTimers.windowed s).creditedBeds.isEmpty = true by
    rw [show (ConfirmTimers.windowed s).creditedBeds = s.creditedBeds from rfl, none]
    rfl)]
  rfl

theorem strays_branched (s : State) : State.strays s.window (branched s) = true ↔ s.steady = true
    ∧ s.window.active = false ∧ s.sl.setup.pulsesPerLitre ≤ 12 * s.fm.pulses ∧ s.fm.drawing = false ∧ s.sl.station ≠ .barred :=
  strays_iff s ⟨congrArg Counts.drawing (branched_counts s), branched_sl s⟩

/-! ### The counts at the end of the event -/

theorem finish_counts (s : State) : countsOf s.finish = countsOf s := counts_inside (inside_finish s)

theorem finish_draw (s : State) : s.finish.ownEntry 8 = s.ownEntry 8 := by
  obtain ⟨v, tracks, offers, -⟩ := finish_tracks s
  rw [ownEntry_congr offers.sl offers.book, tracks.draw]

theorem done_counts (metered : 0 < s.sl.setup.pulsesPerLitre) : (windowDone s).fm.leakRun = countAfter s.window.leaks s.fm.leakRun
    ∧ (windowDone s).fm.noflowRun = countAfter s.window.starves s.fm.noflowRun
    ∧ (windowDone s).fm.stuckRun = countAfter (State.strays s.window (branched s)) s.fm.stuckRun := by
  have before := branched_counts s
  have stuck : (branched s).fm.stuckRun = s.fm.stuckRun := congrArg Counts.stuck before
  have checks : ((branched s).stuckCheck s.window).fm.leakRun = countAfter s.window.leaks s.fm.leakRun
      ∧ ((branched s).stuckCheck s.window).fm.noflowRun = countAfter s.window.starves s.fm.noflowRun
      ∧ ((branched s).stuckCheck s.window).fm.stuckRun = countAfter (State.strays s.window (branched s)) s.fm.stuckRun := by
    have counts := stuckCheck_counts s.window (branched s)
    rw [stuck, before] at counts
    split at counts
    · rename_i fires
      rw [countAfter_zero (.inr fires.2)]
      exact ⟨congrArg Counts.leak counts, congrArg Counts.noflow counts, congrArg Counts.stuck counts⟩
    · exact ⟨congrArg Counts.leak counts, congrArg Counts.noflow counts, congrArg Counts.stuck counts⟩
  rw [windowDone_metered metered]
  split
  · obtain ⟨leak, noflow, stuck⟩ := drawStep_counts s.window ((branched s).stuckCheck s.window)
    rw [leak, noflow, stuck]
    exact checks
  · exact checks

/-! ### The draw entry at the end of the event -/

/-- The state in which a window's end places the draw entry. -/
structure Placing (s y : State) : Prop where
  draw : y.ownEntry 8 = s.ownEntry 8
  room : y.sb.book.length ≤ s.sb.book.length
  bare : s.creditedBeds = [] → y.sb.book = s.sb.book
  sl : y.sl = s.sl
  now : y.now = s.now
  drawing : y.fm.drawing = true
  quiet : y.fm.quiet = 0

/-- In DRAWING the check of STUCK is a count alone. -/
theorem stuckCheck_drawing (drawing : s.fm.drawing = true) (w : Window) : s.stuckCheck w = { s with fm.stuckRun := 0 } := by
  have still : State.strays w s = false := by
    unfold State.strays
    rw [drawing, Bool.not_true, Bool.and_false, Bool.false_and]
  rw [stuckCheck_eq, still, if_neg (fun h => by cases h.1)]
  rfl

theorem stuckAlert_rest (w : Window) (s : State) : stuckAlert w s = { s with
    au := (s.setPending .stuck 8 (instantRate s.fm.lastInterval w.k)).au, fm.stuckRun := 0, fm.drawing := true, fm.quiet := 0 } := by
  unfold stuckAlert
  rw [State.setPending_rest]

theorem placing_stuck (metered : 0 < s.sl.setup.pulsesPerLitre) : Placing s (stuckAlert s.window (branched s)) := by
  rw [stuckAlert_rest]
  exact ⟨(branched_draw s).1, (branched_draw s).2, fun none => by rw [branched_uncredited metered none], branched_sl s, branched_now s, rfl, rfl⟩

theorem done_stuck (metered : 0 < s.sl.setup.pulsesPerLitre) (strays : State.strays s.window (branched s) = true) (third : 2 ≤ s.fm.stuckRun) :
    windowDone s = State.placeDraw (rateUp s.fm.pulses s.sl.setup.pulsesPerLitre) (stuckAlert s.window (branched s)) := by
  have undrawn := ((strays_branched s).1 strays).2.2.2.1
  have stuck : (branched s).fm.stuckRun = s.fm.stuckRun := congrArg Counts.stuck (branched_counts s)
  rw [windowDone_metered metered, undrawn, if_neg nofun, stuckCheck_eq, if_pos ⟨strays, by rw [stuck]; exact third⟩]
  rfl

theorem done_drawing (metered : 0 < s.sl.setup.pulsesPerLitre) (drawing : s.fm.drawing = true) :
    windowDone s = State.drawStep s.window { branched s with fm.stuckRun := 0 } := by
  have draws : (branched s).fm.drawing = true := (congrArg Counts.drawing (branched_counts s)).trans drawing
  rw [windowDone_metered metered, if_pos drawing, stuckCheck_drawing draws]

theorem branched_quiet (s : State) : (branched s).fm.quiet = s.fm.quiet := congrArg Counts.quiet (branched_counts s)

theorem branched_drawing (s : State) : (branched s).fm.drawing = s.fm.drawing := congrArg Counts.drawing (branched_counts s)

theorem done_places (metered : 0 < s.sl.setup.pulsesPerLitre)
    (places : State.strays s.window (branched s) = true ∧ 2 ≤ s.fm.stuckRun
      ∨ s.fm.drawing = true ∧ s.window.active = false ∧ s.sl.setup.pulsesPerLitre ≤ 24 * s.fm.pulses) :
    ∃ y, Placing s y ∧ windowDone s = y.placeDraw (rateUp s.fm.pulses s.sl.setup.pulsesPerLitre) := by
  rcases places with ⟨strays, third⟩ | ⟨drawing, still, flows⟩
  · exact ⟨_, placing_stuck metered, done_stuck metered strays third⟩
  · refine ⟨{ branched s with fm.stuckRun := 0, fm.quiet := 0 }, ⟨(branched_draw s).1, (branched_draw s).2,
      fun none => congrArg SupplyBook.book (branched_uncredited metered none), branched_sl s, branched_now s,
      (branched_drawing s).trans drawing, rfl⟩, ?_⟩
    rw [done_drawing metered drawing, drawStep_flows still flows]
    rfl

/-- The draw entry after it was placed (R57, R156). -/
theorem placing_finish (h : Placing s y) (flow : Nat) :
    (y.placeDraw flow).finish.fm.drawing = true ∧ (y.placeDraw flow).finish.fm.quiet = 0
      ∧ (∀ e, s.ownEntry 8 = some e → (y.placeDraw flow).finish.ownEntry 8 = some { e with flow := flow })
      ∧ (s.ownEntry 8 = none → s.sb.book.length < 32 →
          (y.placeDraw flow).finish.ownEntry 8 = some ⟨s.sl.own, 8, flow, .normal, true, 0, s.now⟩)
      ∧ (s.ownEntry 8 = none → s.sb.book.length = 32 → s.creditedBeds = [] → (y.placeDraw flow).finish.ownEntry 8 = none
          ∧ ((y.placeDraw flow).finish.latch .saturated).pending = true ∧ ((y.placeDraw flow).finish.latch .saturated).value = 32) := by
  have counts : countsOf (y.placeDraw flow).finish = countsOf y := (finish_counts _).trans (placeDraw_fm flow y)
  refine ⟨(congrArg Counts.drawing counts).trans h.drawing, (congrArg Counts.quiet counts).trans h.quiet, fun e has => ?_, fun none room => ?_,
    fun none full idle => ?_⟩
  · rw [finish_draw, placeDraw_refreshes (h.draw.trans has)]
  · rw [finish_draw, placeDraw_places (h.draw.trans none) (lt_of_le_of_lt h.room room)]
    unfold State.drawEntry
    rw [h.sl, h.now]
    rfl
  · obtain ⟨out, pending, value⟩ := placeDraw_full (h.draw.trans none) (by rw [h.bare idle, full]) flow
    obtain ⟨⟨same, -, same'⟩, -⟩ := later_finish (c := .saturated) nofun nofun (y.placeDraw flow)
    exact ⟨by rw [finish_draw, out], by rw [same, pending], by rw [same', value]⟩

/-! ### The alerts at the end of the event -/

theorem notLost_confirmed (line : s.lineLost = false) : (confirmed s).lineLost = false := by
  have bills := bills_confirmed s
  unfold State.lineLost
  rw [bills.li, bills.now, bills.sameHolds]
  exact line

/-- STUCK's alert (R155, R173). -/
theorem stuck_alert (metered : 0 < s.sl.setup.pulsesPerLitre) (strays : State.strays s.window (branched s) = true) (third : 2 ≤ s.fm.stuckRun) :
    ((windowDone s).finish.latch .stuck).pending = true ∧ ((windowDone s).finish.latch .stuck).bed = 8
      ∧ ((windowDone s).finish.latch .stuck).value = word16 (instantRate s.fm.lastInterval s.sl.setup.pulsesPerLitre)
      ∧ (s.runningBeds = [] → s.lineLost = false → SameFault s (windowDone s).finish) := by
  have interval : (branched s).fm.lastInterval = s.fm.lastInterval :=
    (branched_passes s).lastInterval.trans ((bills_confirmed s).field fun y => y.fm.lastInterval)
  have latch : (windowDone s).latch .stuck = ⟨true, ((branched s).latch .stuck).armed, 8, word16 (instantRate s.fm.lastInterval s.sl.setup.pulsesPerLitre)⟩ := by
    rw [done_stuck metered strays third, (later_placeDraw (.inr (.inr rfl)) ..).latch]
    change ((branched s).setPending .stuck 8 (instantRate (branched s).fm.lastInterval s.sl.setup.pulsesPerLitre)).latch .stuck = _
    rw [State.latch_setPending_same, interval]
  obtain ⟨⟨pending, bed, value⟩, -⟩ := later_finish (c := .stuck) nofun nofun (windowDone s)
  refine ⟨by rw [pending, latch], by rw [bed, latch], by rw [value, latch], fun idle line => ?_⟩
  have quiet : (branched s).lineLost = false := (branched_passes s).notLost (notLost_confirmed line)
  have alert : SameFault (branched s) (stuckAlert s.window (branched s)) := by
    refine ⟨State.setPending_record .., ?_⟩
    change ((branched s).setPending .stuck 8 (instantRate (branched s).fm.lastInterval s.sl.setup.pulsesPerLitre)).au.more = _
    unfold State.setPending
    split <;> rfl
  have still : (stuckAlert s.window (branched s)).lineLost = false := by
    rw [stuckAlert_rest]
    exact quiet
  have first : SameFault s (branched s) := by
    unfold SameFault
    rw [(branched_idle idle).2]
    exact (bills_confirmed s).fault
  have done : SameFault s (windowDone s) := by
    rw [done_stuck metered strays third]
    exact (first.trans alert).trans (placeDraw_fault still _)
  have last : (windowDone s).lineLost = false := by
    rw [done_stuck metered strays third]
    exact (passes_placeDraw ..).notLost still
  obtain ⟨v, tracks, offers, -⟩ := finish_tracks (windowDone s)
  exact (done.trans (tracks.fault last)).trans ⟨offers.sameRecord, offers.more⟩

/-- The branch check that fires, in the course of the window's end. -/
theorem done_fires (metered : 0 < s.sl.setup.pulsesPerLitre)
    (fires : f = .leak ∧ c = .leak ∧ s.window.leaks = true ∧ 2 ≤ s.fm.leakRun ∨ f = .noflow ∧ c = .noflow ∧ s.window.starves = true ∧ 2 ≤ s.fm.noflowRun) :
    ∃ l n : Nat, Passes (State.fireBranch s.window f c { confirmed s with fm.leakRun := l, fm.noflowRun := n }) (windowDone s)
      ∧ Later f.cause (State.fireBranch s.window f c { confirmed s with fm.leakRun := l, fm.noflowRun := n }) (windowDone s) := by
  have before := confirmed_counts s
  have leakRun : (confirmed s).fm.leakRun = s.fm.leakRun := congrArg Counts.leak before
  have noflowRun : (confirmed s).fm.noflowRun = s.fm.noflowRun := congrArg Counts.noflow before
  have own : f.cause = .leak ∨ f.cause = .noflow := by
    rcases fires with ⟨e, -⟩ | ⟨e, -⟩ <;> rw [e]
    · exact .inl rfl
    · exact .inr rfl
  obtain ⟨l, n, passes, later⟩ : ∃ l n : Nat, Passes (State.fireBranch s.window f c { confirmed s with fm.leakRun := l, fm.noflowRun := n }) (branched s)
      ∧ Later f.cause (State.fireBranch s.window f c { confirmed s with fm.leakRun := l, fm.noflowRun := n }) (branched s) := by
    rcases fires with ⟨ef, ec, leaks, third⟩ | ⟨ef, ec, starves, third⟩
    · have starves := not_both s leaks
      rw [ef, ec]
      refine ⟨countAfter s.window.leaks (confirmed s).fm.leakRun, (confirmed s).fm.noflowRun, ?_⟩
      have eq : branched s = { (State.fireBranch s.window .leak .leak { confirmed s with fm.leakRun := countAfter s.window.leaks (confirmed s).fm.leakRun })
          with fm.noflowRun := 0 } := by
        unfold branched
        rw [noflowCheck_bare starves, leakCheck_eq, if_pos ⟨leaks, by rw [leakRun]; exact third⟩]
      rw [eq]
      generalize State.fireBranch s.window .leak .leak { confirmed s with fm.leakRun := countAfter s.window.leaks (confirmed s).fm.leakRun } = y
      exact ⟨passes_counts y.fm.leakRun 0 y.fm.stuckRun y.fm.drawing y.fm.quiet y, later_same _ rfl⟩
    · have leaks : s.window.leaks = false := Bool.eq_false_of_not_eq_true fun leaks => by rw [not_both s leaks] at starves; cases starves
      rw [ef, ec]
      refine ⟨0, countAfter s.window.starves (confirmed s).fm.noflowRun, ?_⟩
      have eq : branched s = State.fireBranch s.window .noflow .noflow
          { confirmed s with fm.leakRun := 0, fm.noflowRun := countAfter s.window.starves (confirmed s).fm.noflowRun } := by
        unfold branched
        rw [leakCheck_bare leaks, noflowCheck_eq, if_pos ⟨starves, by
          change 2 ≤ (confirmed s).fm.noflowRun
          rw [noflowRun]
          exact third⟩]
      rw [eq]
      exact ⟨.refl _, later_same _ rfl⟩
  refine ⟨l, n, passes.trans ?_, later.trans ?_⟩
  · rw [windowDone_metered metered]
    exact passes_ite (fun _ => (passes_stuckCheck ..).trans (passes_drawStep ..)) fun _ => passes_stuckCheck ..
  · rw [windowDone_metered metered]
    split
    · exact (later_stuckCheck own ..).trans (later_drawStep (own.elim .inl (.inr ∘ .inl)) ..)
    · exact later_stuckCheck own ..

end Sys2Proof.RateWindow

/-! PROOFS. The end of a rate window: the statement (R147 to R156). -/

namespace Sys2Proof.RateWindow

open Sys2Proof.Machine
open HoldJoins (SameFault)

variable {b d : BedId} {s t u v x y : State} {r : Run} {c e : EndCause} {n k flow : Nat} {f : BedFault}

/-- Out of DRAWING a window before the third is a count alone. -/
theorem done_counting (metered : 0 < s.sl.setup.pulsesPerLitre) (undrawn : s.fm.drawing = false) (few : s.fm.stuckRun < 2) :
    windowDone s = { branched s with fm.stuckRun := countAfter (State.strays s.window (branched s)) (branched s).fm.stuckRun } := by
  have stuck : (branched s).fm.stuckRun = s.fm.stuckRun := congrArg Counts.stuck (branched_counts s)
  rw [windowDone_metered metered, undrawn, if_neg nofun, stuckCheck_eq, if_neg fun h => absurd h.2 (by rw [stuck]; omega)]

/-- In DRAWING without an active valve and without flow. -/
theorem done_dry (metered : 0 < s.sl.setup.pulsesPerLitre) (drawing : s.fm.drawing = true) (still : s.window.active = false)
    (dry : 24 * s.fm.pulses < s.sl.setup.pulsesPerLitre) :
    (s.fm.quiet < 2 → (windowDone s).finish.fm.drawing = true ∧ (windowDone s).finish.fm.quiet = s.fm.quiet + 1
        ∧ (windowDone s).finish.ownEntry 8 = s.ownEntry 8)
      ∧ (2 ≤ s.fm.quiet → (windowDone s).finish.fm.drawing = false ∧ (windowDone s).finish.fm.quiet = 0
        ∧ (windowDone s).finish.ownEntry 8 = none
        ∧ (s.ownEntry 8 ≠ none → s.sl.station.admits (.free 8) = true → ∃ q ∈ (windowDone s).finish.tq.queue, q.notice = .free 8)) := by
  have low : ¬ s.window.k ≤ 24 * s.window.p := Nat.not_le.2 dry
  have quiet := branched_quiet s
  have counts := finish_counts (windowDone s)
  constructor
  · intro few
    have waits : windowDone s = { branched s with fm.stuckRun := 0, fm.quiet := s.fm.quiet + 1 } := by
      rw [done_drawing metered drawing, drawStep_waits still low (by rw [← quiet] at few; exact few), ← quiet]
    rw [finish_draw]
    rw [waits] at counts ⊢
    exact ⟨(congrArg Counts.drawing counts).trans ((branched_drawing s).trans drawing), congrArg Counts.quiet counts, (branched_draw s).1⟩
  · intro many
    have ends : windowDone s = State.removeDraw { branched s with fm.stuckRun := 0, fm.drawing := false, fm.quiet := 0 } := by
      rw [done_drawing metered drawing, drawStep_ends still low (by rw [← quiet] at many; exact many)]
    have removed := counts_inside (inside_removeDraw { branched s with fm.stuckRun := 0, fm.drawing := false, fm.quiet := 0 })
    have gone := hasEntry_removeDraw { branched s with fm.stuckRun := 0, fm.drawing := false, fm.quiet := 0 }
    have sl := (inside_removeDraw { branched s with fm.stuckRun := 0, fm.drawing := false, fm.quiet := 0 }).sl
    have frees := removeDraw_frees (s := { branched s with fm.stuckRun := 0, fm.drawing := false, fm.quiet := 0 })
    rw [finish_draw]
    rw [← ends] at removed gone sl frees
    refine ⟨congrArg Counts.drawing (counts.trans removed), congrArg Counts.quiet (counts.trans removed), ?_, fun some' admits => ?_⟩
    · rw [← sl] at gone
      have absent := (hasEntry_iff (windowDone s)).symm.trans gone
      exact Option.isNone_iff_eq_none.1 (Option.isSome_eq_false_iff.1 absent)
    · have has : (branched s).hasEntry (branched s).sl.own drawBed = true := by
        rw [hasEntry_iff, (branched_draw s).1]
        exact Option.isSome_iff_ne_none.2 some'
      obtain ⟨q, m, free⟩ := frees (by
        change (branched s).sl.station.admits (.free 8) = true
        rw [branched_sl, admits]) has
      exact ⟨q, SkyAndClock.notices_finish m (by rw [free]; rfl) (by rw [free]; rfl), free⟩

theorem admits_free_of_live (live : s.live = true) (configured : s.sl.station ≠ .unconfigured) (n : Nat) :
    s.sl.station.admits (.free n) = true := by
  have loaded : s.sl.station ≠ .loading := of_decide_eq_true live
  cases station : s.sl.station with
  | loading => exact absurd station loaded
  | unconfigured => exact absurd station configured
  | _ => rfl

theorem lineLost_of (h : s.now < s.li.lossSince + 25 * 12000 ∨ s.bc.holds.line = true) : s.lineLost = false := by
  refine Bool.eq_false_of_not_eq_true fun lost => ?_
  obtain ⟨due, absent⟩ := (lineLost_iff s).1 lost
  rcases h with early | held
  · omega
  · rw [held] at absent
    cases absent

/-! ### The beds of a branch check that fires (R122, R153, R154) -/

/-- Where a branch check fires, every bed that was RUNNING is out of CONFIRMING and RUNNING; one whose credit ends nothing closes
with the check's cause, or is FAULTED. -/
theorem fired_beds (metered : 0 < s.sl.setup.pulsesPerLitre) (sound : ClaimSound s)
    (fires : f = .leak ∧ c = .leak ∧ s.window.leaks = true ∧ 2 ≤ s.fm.leakRun ∨ f = .noflow ∧ c = .noflow ∧ s.window.starves = true ∧ 2 ≤ s.fm.noflowRun)
    (m : b ∈ s.runningBeds) :
    ((windowDone s).finish.bed b).state.credited = false
      ∧ ∀ r, (s.bed b).run = some r → r.delivered + (10 * s.fm.pulses + s.fm.carry) / s.sl.setup.pulsesPerLitre < r.need →
        r.cycleDelivered + (10 * s.fm.pulses + s.fm.carry) / s.sl.setup.pulsesPerLitre < 10 * (s.setupOf b).cycle →
        (s.bed b).delivered + (10 * s.fm.pulses + s.fm.carry) / s.sl.setup.pulsesPerLitre < 10 * (s.setupOf b).cap → s.valve b = .opened →
        ((s.setupOf b).kind = .latch → ((windowDone s).finish.bed b).state = .closing ∧ (windowDone s).finish.valve b = .closing
          ∧ ((windowDone s).finish.bed b).run.map (·.endCause) = some (some c))
        ∧ ((s.setupOf b).kind = .held → ((windowDone s).finish.bed b).state = .faulted ∧ (windowDone s).finish.valve b = .closed
          ∧ ((windowDone s).finish.bed b).fault = some f) := by
  obtain ⟨l, n, passes, -⟩ := done_fires metered fires
  have branch : BranchCause f c := fires.imp (fun h => ⟨h.1, h.2.1⟩) fun h => ⟨h.1, h.2.1⟩
  have running := mem_runningBeds.1 m
  have claim : (confirmed s).sb.claim = s.sb.claim := (bills_confirmed s).claim
  have spares : (confirmed s).sb.claim.spares b := by
    rw [claim]
    exact spares_of_sound sound (by rw [running]; rfl)
  have fired := passes_fireBranch (w := s.window) f branch.cuts { confirmed s with fm.leakRun := l, fm.noflowRun := n }
  have later := fired.claim.spares b spares
  refine ⟨credited_finish _ b (passes.credited b (fireBranch_uncredited f c m (runningBeds_nodup s) _)), fun r run need cycle cap opened => ?_⟩
  obtain ⟨state, record, valve⟩ := running_goes metered running run need cycle cap
  have setup : (confirmed s).setupOf b = s.setupOf b := by unfold State.setupOf; rw [confirmed_sl]
  obtain ⟨v, tracks, offers, -⟩ := finish_tracks (windowDone s)
  have aside (calm : ((State.fireBranch s.window f c { confirmed s with fm.leakRun := l, fm.noflowRun := n }).bed b).state.calm)
      (rests : ((State.fireBranch s.window f c { confirmed s with fm.leakRun := l, fm.noflowRun := n }).bed b).state ≠ .waiting) :
      Aside b (State.fireBranch s.window f c { confirmed s with fm.leakRun := l, fm.noflowRun := n }) (windowDone s).finish := by
    have after := (passes.trans tracks.passes).calm b later calm
    exact after.trans (offers.aside (by rw [after.bed]; exact rests))
  constructor
  · intro latch
    have ended : CycleEnded b (credited (s.windowCredit b) r) c { confirmed s with fm.leakRun := l, fm.noflowRun := n } _ :=
      fireBranch_latch (w := s.window) branch m (runningBeds_nodup s) (by
        change ((confirmed s).bed b).state.credited = true
        rw [state]; rfl) record (valve.trans opened) (by rw [← latch, ← setup]; rfl)
    have after := aside (by rw [ended.state]; exact ⟨rfl, nofun⟩) (by rw [ended.state]; nofun)
    refine ⟨by rw [after.bed, ended.state], ?_, by rw [after.bed, ended.run]; rfl⟩
    rw [after.valve, ended.valve]
    exact if_pos (valve.trans opened)
  · intro held
    obtain ⟨faulted, fault, shut⟩ := fireBranch_held (w := s.window) (s := { confirmed s with fm.leakRun := l, fm.noflowRun := n }) branch m (runningBeds_nodup s) (by
        change ((confirmed s).bed b).state.credited = true
        rw [state]; rfl) record (valve.trans opened) (by rw [← held, ← setup]; rfl)
    have after := aside (by rw [faulted]; exact ⟨rfl, nofun⟩) (by rw [faulted]; nofun)
    exact ⟨by rw [after.bed, faulted], by rw [after.valve, shut], by rw [after.bed, fault]⟩

/-- The alert of a branch check that fires, and its fault (R153, R154, R173). -/
theorem fired_alert (metered : 0 < s.sl.setup.pulsesPerLitre)
    (fires : f = .leak ∧ c = .leak ∧ s.window.leaks = true ∧ 2 ≤ s.fm.leakRun ∨ f = .noflow ∧ c = .noflow ∧ s.window.starves = true ∧ 2 ≤ s.fm.noflowRun) :
    ((windowDone s).finish.latch f.cause).pending = true
      ∧ ((windowDone s).finish.latch f.cause).value = word16 (24 * s.fm.pulses / s.sl.setup.pulsesPerLitre)
      ∧ (∀ b rest, s.runningBeds = b :: rest → ((windowDone s).finish.latch f.cause).bed = b.val
        ∧ (s.au.record = none → (windowDone s).finish.au.record = some ⟨f.cause, b.val, 0, 0,
            word16 (24 * s.fm.pulses / s.sl.setup.pulsesPerLitre), word16 (s.nominal s.runningBeds), s.clockMinute⟩))
      ∧ (s.au.record ≠ none → (windowDone s).finish.au.record = s.au.record ∧ (windowDone s).finish.au.more = true) := by
  obtain ⟨l, n, -, later⟩ := done_fires metered fires
  have cause : f.cause ≠ .line ∧ f.cause ≠ .discard := by
    rcases fires with ⟨e, -⟩ | ⟨e, -⟩ <;> rw [e] <;> exact ⟨nofun, nofun⟩
  obtain ⟨⟨pending, bed, value⟩, locked⟩ := later_finish cause.1 cause.2 (windowDone s)
  have kept := later.locked.trans locked
  have before : (confirmed s).au.record = s.au.record := (bills_confirmed s).fault.1
  have clock : (confirmed s).clockMinute = s.clockMinute := by
    have pw : (confirmed s).pw = s.pw := (bills_confirmed s).field fun y => y.pw
    unfold State.clockMinute
    rw [pw]
  obtain ⟨pends, values, first, more⟩ := fireBranch_alert s.window f c { confirmed s with fm.leakRun := l, fm.noflowRun := n }
  refine ⟨by rw [pending, later.latch, pends], by rw [value, later.latch, values]; rfl, fun b rest runs => ?_, fun some' => ?_⟩
  · obtain ⟨head, locks⟩ := first b rest runs
    refine ⟨by rw [bed, later.latch, head], fun none => ?_⟩
    have record := locks (before.trans none)
    rw [show State.clockMinute { confirmed s with fm.leakRun := l, fm.noflowRun := n } = s.clockMinute from clock] at record
    exact kept.record _ record
  · obtain ⟨stays, marks⟩ := more (by
      change (confirmed s).au.record ≠ none
      rw [before]
      exact some')
    obtain ⟨g, record⟩ := Option.ne_none_iff_exists'.1 some'
    have here : (State.fireBranch s.window f c { confirmed s with fm.leakRun := l, fm.noflowRun := n }).au.record = some g := by
      rw [stays]
      exact before.trans record
    exact ⟨(kept.record g here).trans record.symm, kept.more marks⟩

/-! ### The statement -/

theorem finish_now (s : State) : s.finish.now = s.now := (inside_finish s).now

/-- Settles O44: the credits bed by bed, the shares' arithmetic, and the checks in their order. -/
theorem rateWindowCreditsItsVolume : Obligations.RateWindowCreditsItsVolume := by
  refine ⟨?_, ?_, ?_⟩
  · intro s sound live k volume part credit
    have h := ends_windowDone (windowEnd s)
    have claimed (claims : ClaimSound s) : ClaimSound (windowEnd s) := ⟨claims.holds, claims.idle, claims.entry, claims.claims, claims.sheds,
      claims.sending, claims.asking, claims.held, claims.offered, claims.barred⟩
    have admits (configured : s.sl.station ≠ .unconfigured) (n : Nat) := admits_free_of_live live configured n
    obtain ⟨now, pulses, last, since, pw, peers, li, sl, carry⟩ := h.env
    refine ⟨_, exec_rateWindowEnd live, now, pulses, by rw [last, now]; rfl, since.trans now.symm, pw, peers, li, sl,
      fun b m => h.volumes (s := windowEnd s) sound m, fun d out => h.uncredited (s := windowEnd s) out, fun meter => ?_, fun none b m on => ?_,
      fun _ claims b m r run => ?_⟩
    · rw [carry]
      exact if_neg (Nat.ne_of_gt meter)
    · rw [h.twelfths (s := windowEnd s) m on]
      exact if_pos none
    · have spares : (windowEnd s).sb.claim.spares b := spares_of_sound (claimed claims) (mem_creditedBeds.1 m)
      intro r' x
      have plus : ((windowEnd s).bed b).plus ((windowEnd s).windowCredit b) = x := by
        change (s.bed b).plus _ = _
        unfold Bed.plus
        rw [run]
        rfl
      refine ⟨fun c some' test => ?_, fun untested => ?_⟩
      · obtain ⟨out, latch, held⟩ := h.tested (s := windowEnd s) m spares run (Nat.ne_of_gt some') (c := c) (by rw [plus]; exact test)
        obtain ⟨confirming, running⟩ := not_credited out
        refine ⟨confirming, running, fun opened kind => ?_, fun opened kind configured => held opened kind (admits configured _)⟩
        obtain ⟨state, record, valve⟩ := latch opened kind
        exact ⟨state, record, valve⟩
      · obtain ⟨goes, cut⟩ := h.untested (s := windowEnd s) m spares run (untested.imp_right fun e => by rw [plus]; exact e)
        refine ⟨goes, fun opened kind => (cut opened kind).imp_right fun ⟨c, cuts, ended⟩ => ⟨c, cuts, ended.state, ended.run, ended.valve⟩⟩
  · intro v f flows some' total
    have within := sum_parts_le v (f :: flows)
    have shares' := shares_head v f flows
    rw [List.map_cons, List.sum_cons] at within
    have others : (flows.map fun g => v * g / (f :: flows).sum).sum ≤ v := le_trans (Nat.le_add_left _ _) within
    refine ⟨?_, ?_, ?_, ?_⟩
    · rw [shares', List.sum_cons]
      exact Nat.sub_add_cancel others
    · rw [shares']
      simp
    · rw [shares']
      rfl
    · intro x first
      rw [shares'] at first
      obtain rfl := Option.mem_some_iff.1 first
      exact Nat.le_sub_of_add_le within
  · intro s settled live sound ends p k runs expected steady active leaks starves flows
    have claims : ClaimSound (windowEnd s) := ⟨sound.holds, sound.idle, sound.entry, sound.claims, sound.sheds, sound.sending, sound.asking,
      sound.held, sound.offered, sound.barred⟩
    have counts := finish_counts (windowDone (windowEnd s))
    have leaks_ : (windowEnd s).window.leaks = true ↔ leaks := (leaks_iff _).trans (and_congr_left' (steady_iff (windowEnd s)))
    have starves_ : (windowEnd s).window.starves = true ↔ starves := (starves_iff _).trans (and_congr_left' (steady_iff (windowEnd s)))
    have active_ : (windowEnd s).window.active = true ↔ active := active_iff (windowEnd s)
    have still_ : (windowEnd s).window.active = false ↔ ¬ active := by rw [← active_, Bool.not_eq_true]
    have flows_ : State.strays (windowEnd s).window (branched (windowEnd s)) = true ↔ flows :=
      (strays_branched (windowEnd s)).trans (and_congr (steady_iff (windowEnd s)) (and_congr_left' still_))
    refine ⟨_, exec_rateWindowEnd live, ?_, fun meter => ?_, fun none => ?_, fun f c fires => ?_, fun strays third => ?_, fun places => ?_,
      fun meter drawing open' => ?_, fun meter drawing still dry => ?_⟩
    · exact (ends_windowDone (windowEnd s)).env.1
    · obtain ⟨leak, noflow, stuck⟩ := done_counts (s := windowEnd s) meter
      have leakRun := (congrArg Counts.leak counts).trans leak
      have noflowRun := (congrArg Counts.noflow counts).trans noflow
      have stuckRun := (congrArg Counts.stuck counts).trans stuck
      refine ⟨fun h => leakRun.trans (countAfter_zero (h.imp_left fun n => ?_)), fun h few => leakRun.trans (countAfter_next (leaks_.2 h) few),
        fun h => noflowRun.trans (countAfter_zero (h.imp_left fun n => ?_)), fun h few => noflowRun.trans (countAfter_next (starves_.2 h) few),
        fun h => stuckRun.trans (countAfter_zero (h.imp_left fun n => ?_)), fun h few => ⟨stuckRun.trans (countAfter_next (flows_.2 h) few), ?_⟩⟩
      · exact Bool.eq_false_of_not_eq_true (mt leaks_.1 n)
      · exact Bool.eq_false_of_not_eq_true (mt starves_.1 n)
      · exact Bool.eq_false_of_not_eq_true (mt flows_.1 n)
      · have undrawn : (windowEnd s).fm.drawing = false := h.2.2.2.1
        have done : windowDone (windowEnd s) = _ := done_counting meter undrawn few
        rw [done] at counts ⊢
        exact (congrArg Counts.drawing counts).trans ((branched_drawing (windowEnd s)).trans undrawn)
    · have done := windowDone_unmetered (s := windowEnd s) none
      rw [done] at counts
      have same := counts.trans (confirmed_counts (windowEnd s))
      rw [done]
      exact ⟨congrArg Counts.leak same, congrArg Counts.noflow same, congrArg Counts.stuck same, congrArg Counts.drawing same, congrArg Counts.quiet same⟩
    · have meter : 0 < s.sl.setup.pulsesPerLitre := by
        rcases fires with ⟨-, -, h, -⟩ | ⟨-, -, h, -⟩
        · exact h.1.1
        · exact h.1.1
      have fires' : f = .leak ∧ c = .leak ∧ (windowEnd s).window.leaks = true ∧ 2 ≤ s.fm.leakRun
          ∨ f = .noflow ∧ c = .noflow ∧ (windowEnd s).window.starves = true ∧ 2 ≤ s.fm.noflowRun := by
        rw [leaks_, starves_]
        exact fires
      obtain ⟨pending, value, first, more⟩ := fired_alert (s := windowEnd s) meter fires'
      refine ⟨pending, value, first, more, fun b m => ?_⟩
      obtain ⟨out, beds⟩ := fired_beds (s := windowEnd s) meter claims fires' m
      obtain ⟨confirming, running⟩ := not_credited out
      exact ⟨running, confirming, beds⟩
    · have meter : 0 < s.sl.setup.pulsesPerLitre := strays.1.1
      have strays' := flows_.2 strays
      obtain ⟨y, placing, done⟩ := done_places (s := windowEnd s) meter (.inl ⟨strays', third⟩)
      obtain ⟨drawing, quiet, -⟩ := placing_finish placing (rateUp s.fm.pulses s.sl.setup.pulsesPerLitre)
      obtain ⟨pending, bed, value, fault⟩ := stuck_alert (s := windowEnd s) meter strays' third
      rw [← show windowDone (windowEnd s) = y.placeDraw (rateUp s.fm.pulses s.sl.setup.pulsesPerLitre) from done] at drawing quiet
      exact ⟨drawing, quiet, pending, bed, value, fun idle line => fault idle (lineLost_of (s := windowEnd s) line)⟩
    · have meter : 0 < s.sl.setup.pulsesPerLitre := places.elim (fun h => h.1.1.1) fun h => h.1
      obtain ⟨y, placing, done⟩ := done_places (s := windowEnd s) meter
        (places.imp (fun h => ⟨flows_.2 h.1, h.2⟩) fun h => ⟨h.2.1, still_.2 h.2.2.1, h.2.2.2⟩)
      rw [done]
      exact placing_finish placing _
    · have done : windowDone (windowEnd s) = { branched (windowEnd s) with fm.stuckRun := 0 } := by
        rw [done_drawing (s := windowEnd s) meter drawing, drawStep_active (active_.2 open')]
      rw [finish_draw]
      rw [done] at counts ⊢
      exact ⟨(congrArg Counts.drawing counts).trans ((branched_drawing (windowEnd s)).trans drawing),
        (congrArg Counts.quiet counts).trans (branched_quiet (windowEnd s)), (branched_draw (windowEnd s)).1⟩
    · have dried := done_dry (s := windowEnd s) meter drawing (still_.2 still) dry
      exact ⟨dried.1, fun many => ⟨(dried.2 many).1, (dried.2 many).2.1, (dried.2 many).2.2.1,
        fun has configured => (dried.2 many).2.2.2 has (admits_free_of_live live configured 8)⟩⟩

end Sys2Proof.RateWindow

/-! PROOFS. The valves' bounds: the clauses kept through an event, and what they read of a state (R56, R61, R114, R130). -/

namespace Sys2Proof.Machine

/-- What the claim's clauses read of the claim record. -/
def Claim.core (c : Claim) : Phase × BedId × Option HeldOutcome × Bool := (c.phase, c.bed, c.outcome, c.withdrawn)

/-- What the drive's clauses read of the valve drive. -/
def ValveDrive.moves (v : ValveDrive) :
    PerBed ValveState × List Request × Generator × List BedId × Option Channel × Option Channel :=
  (v.valves, v.queue, v.generator, v.closures, v.channelA, v.channelB)

/-- CLAIMs and SHEDs that wait. -/
def State.claims (s : State) : Nat := s.tq.queue.countP fun q => q.notice.isClaim
def State.sheds (s : State) : Nat := s.tq.queue.countP fun q => q.notice.isShed

/-- The bed's own entry is COMMITTED. -/
def State.owns (s : State) (b : BedId) : Prop := ∃ e, s.ownEntry b.val = some e ∧ e.committed = true

/-- The clauses of `ClaimSound`, the one of BARRED only where `p` asks for it: the entry to BARRED takes the station state
first and withdraws the claim in the course of the beds (R187). -/
structure ClaimKept (p : Prop) (s : State) : Prop where
  holds : s.sb.claim.live = true → (s.bed s.sb.claim.bed).state = .claiming
  idle : s.sb.claim.underWay = true → (s.bed s.sb.claim.bed).state.busy = false
  entry : s.sb.claim.underWay = true → s.sb.claim.phase ≠ .sending → s.hasEntry s.sl.own s.sb.claim.bed.val = true
  claims : s.claims ≤ 1
  sheds : s.sheds ≤ 1
  sending : s.holdsNotice Notice.isClaim = true → s.sb.claim.phase = .sending
  asking : s.holdsNotice Notice.isShed = true → s.sb.claim.phase = .asking
  held : s.sb.claim.outcome.isSome = true → s.sb.claim.phase = .asking
  offered : s.sl.station ≠ .active → s.sl.station ≠ .barred → s.sb.claim.phase = .none
  barred : p → s.sl.station = .barred → s.sb.claim.live = false

/-- All that is kept past LOADING. -/
structure Kept (p : Prop) (s : State) : Prop where
  bounds : ValveBounds s
  claim : ClaimKept p s
  drive : DriveKept s
  live : s.sl.station ≠ .loading

variable {p : Prop} {b d : BedId} {s t u : State}

theorem claimKept_iff (s : State) : ClaimKept True s ↔ ClaimSound s := by
  constructor
  · intro h
    exact ⟨h.holds, h.idle, h.entry, h.claims, h.sheds, h.sending, h.asking, h.held, h.offered, h.barred trivial⟩
  · intro h
    exact ⟨h.holds, h.idle, h.entry, h.claims, h.sheds, h.sending, h.asking, h.held, h.offered, fun _ => h.barred⟩

theorem Kept.sound (h : Kept True s) : ValvesSound s := ⟨h.bounds, (claimKept_iff s).1 h.claim, h.drive⟩

theorem kept_of_sound (h : ValvesSound s) (live : s.live = true) : Kept True s :=
  ⟨h.bounds, (claimKept_iff s).2 h.claim, h.drive, of_decide_eq_true live⟩

/-! ### What a claim that may commit is -/

theorem underWay_of_live {c : Claim} (live : c.live = true) : c.underWay = true := by
  unfold Claim.live at live
  unfold Claim.underWay
  cases phase : c.phase <;> rw [phase] at live
  case none => cases live
  case ending => cases live
  all_goals rfl

theorem Claim.underWay_iff (c : Claim) : c.underWay = true ↔ c.phase ≠ .none ∧ c.phase ≠ .ending := by
  simp [Claim.underWay]

theorem phase_of_core {c e : Claim} (h : c.core = e.core) : c.phase = e.phase := congrArg (·.1) h
theorem bed_of_core {c e : Claim} (h : c.core = e.core) : c.bed = e.bed := congrArg (·.2.1) h
theorem outcome_of_core {c e : Claim} (h : c.core = e.core) : c.outcome = e.outcome := congrArg (·.2.2.1) h

theorem live_of_core {c e : Claim} (h : c.core = e.core) : c.live = e.live := by
  obtain ⟨phase, bed, outcome, withdrawn⟩ : c.phase = e.phase ∧ c.bed = e.bed ∧ c.outcome = e.outcome ∧ c.withdrawn = e.withdrawn := by
    simpa [Claim.core] using h
  unfold Claim.live
  rw [phase, outcome, withdrawn]

theorem underWay_of_core {c e : Claim} (h : c.core = e.core) : c.underWay = e.underWay := by
  unfold Claim.underWay
  rw [phase_of_core h]

/-! ### A notice of a sort waits -/

theorem holdsNotice_iff (q : Notice → Bool) (s : State) : s.holdsNotice q = true ↔ 0 < s.tq.queue.countP fun x => q x.notice := by
  unfold State.holdsNotice
  rw [List.any_eq_true, List.countP_pos_iff]

theorem claims_pos (s : State) : s.holdsNotice Notice.isClaim = true ↔ 0 < s.claims := holdsNotice_iff ..
theorem sheds_pos (s : State) : s.holdsNotice Notice.isShed = true ↔ 0 < s.sheds := holdsNotice_iff ..

/-! ### What the clauses read, and what keeps them -/

theorem setupOf_congr (setup : t.sl.setup = s.sl.setup) (b : BedId) : t.setupOf b = s.setupOf b := by
  unfold State.setupOf
  rw [setup]

theorem activeValves_mono (valves : ∀ b, (t.valve b).active = true → (s.valve b).active = true) :
    t.activeValves.length ≤ s.activeValves.length :=
  (List.monotone_filter_right allBeds valves).length_le

theorem activeHeld_eq (s : State) : s.activeHeld = allBeds.filter fun b => (s.valve b).active && decide ((s.setupOf b).kind = .held) := by
  unfold State.activeHeld State.activeValves
  rw [List.filter_filter]
  exact List.filter_congr fun b _ => Bool.and_comm ..

theorem activeHeld_mono (setup : t.sl.setup = s.sl.setup) (valves : ∀ b, (t.valve b).active = true → (s.valve b).active = true) :
    t.activeHeld.length ≤ s.activeHeld.length := by
  rw [activeHeld_eq, activeHeld_eq]
  refine (List.monotone_filter_right allBeds fun b h => ?_).length_le
  rw [Bool.and_eq_true, setupOf_congr setup] at h
  rw [Bool.and_eq_true]
  exact ⟨valves b h.1, h.2⟩

theorem activeValves_nil (s : State) : s.activeValves = [] ↔ ∀ b, (s.valve b).active = false := by
  unfold State.activeValves
  rw [List.filter_eq_nil_iff]
  exact ⟨fun h b => by simpa using h b (mem_allBeds b), fun h b _ => by simp [h b]⟩

/-- The bounds stay where no valve becomes active, and the active ones keep entry and bed. -/
theorem ValveBounds.frame (h : ValveBounds s) (setup : t.sl.setup = s.sl.setup)
    (station : t.sl.station ≠ .active → t.sl.station ≠ .barred → s.sl.station ≠ .active ∧ s.sl.station ≠ .barred)
    (valves : ∀ b, (t.valve b).active = true → (s.valve b).active = true)
    (owned : ∀ b, (t.valve b).active = true → s.owns b → t.owns b)
    (busy : ∀ b, (t.valve b).active = true → (s.bed b).state.busy = true → (t.bed b).state.busy = true)
    (live : t.sb.claim.live = true → s.sb.claim.live = true ∧ t.sb.claim.bed = s.sb.claim.bed) : ValveBounds t where
  four := (activeValves_mono valves).trans h.four
  two := (activeHeld_mono setup valves).trans h.two
  owned b active := owned b active (h.owned b (valves b active))
  cycle b active := busy b active (h.cycle b (valves b active))
  early a c := by
    have still := (activeValves_nil s).1 (h.early (station a c).1 (station a c).2)
    exact (activeValves_nil t).2 fun b => Bool.eq_false_iff.2 fun active =>
      absurd (valves b active) (by rw [still b]; nofun)
  room l := by
    obtain ⟨before, bed⟩ := live l
    obtain ⟨three, one⟩ := h.room before
    rw [bed, setupOf_congr setup]
    exact ⟨(activeValves_mono valves).trans three, fun k => (activeHeld_mono setup valves).trans (one k)⟩

/-- The claim's clauses stay where the record stays, its bed stays in CLAIMING and out of a cycle, its entry in the book, and no
CLAIM or SHED comes. -/
theorem ClaimKept.frame (h : ClaimKept p s) (station : t.sl.station = s.sl.station) (own : t.sl.own = s.sl.own)
    (core : t.sb.claim.core = s.sb.claim.core)
    (holds : s.sb.claim.live = true → (s.bed s.sb.claim.bed).state = .claiming → (t.bed s.sb.claim.bed).state = .claiming)
    (idle : s.sb.claim.underWay = true → (s.bed s.sb.claim.bed).state.busy = false → (t.bed s.sb.claim.bed).state.busy = false)
    (entry : s.sb.claim.underWay = true → s.hasEntry s.sl.own s.sb.claim.bed.val = true →
      t.hasEntry s.sl.own s.sb.claim.bed.val = true)
    (claims : t.claims ≤ s.claims) (sheds : t.sheds ≤ s.sheds) : ClaimKept p t := by
  have bed := bed_of_core core
  have phase := phase_of_core core
  refine ⟨?_, ?_, ?_, claims.trans h.claims, sheds.trans h.sheds, ?_, ?_, ?_, ?_, ?_⟩
  · rw [live_of_core core, bed]
    exact fun l => holds l (h.holds l)
  · rw [underWay_of_core core, bed]
    exact fun l => idle l (h.idle l)
  · rw [underWay_of_core core, phase, own, bed]
    exact fun l n => entry l (h.entry l n)
  · rw [claims_pos, phase]
    exact fun n => h.sending ((claims_pos s).2 (n.trans_le claims))
  · rw [sheds_pos, phase]
    exact fun n => h.asking ((sheds_pos s).2 (n.trans_le sheds))
  · rw [outcome_of_core core, phase]
    exact h.held
  · rw [station, phase]
    exact h.offered
  · rw [station, live_of_core core]
    exact h.barred

theorem valve_of_moves (h : t.vd.moves = s.vd.moves) (b : BedId) : t.valve b = s.valve b := by
  unfold State.valve
  rw [show t.vd.valves = s.vd.valves from congrArg (·.1) h]

theorem DriveKept.frame (h : DriveKept s) (setup : t.sl.setup = s.sl.setup) (station : t.sl.station = .loading → s.sl.station = .loading)
    (moves : t.vd.moves = s.vd.moves) : DriveKept t := by
  have valve := valve_of_moves moves
  have setups := setupOf_congr setup
  obtain ⟨-, queue, generator, closures, a, c⟩ : t.vd.valves = s.vd.valves ∧ t.vd.queue = s.vd.queue ∧ t.vd.generator = s.vd.generator
      ∧ t.vd.closures = s.vd.closures ∧ t.vd.channelA = s.vd.channelA ∧ t.vd.channelB = s.vd.channelB := by
    simpa [ValveDrive.moves] using moves
  have pulsing (b : BedId) : t.pulsing b = s.pulsing b := by unfold State.pulsing; rw [generator]
  have channel (b : BedId) : t.channelOf b = s.channelOf b := by unfold State.channelOf; rw [a, c]
  refine ⟨?_, ?_, ?_, ?_, ?_, ?_, ?_⟩
  · simpa only [queue, setups] using h.requests
  · simpa only [queue, valve, pulsing] using h.opens
  · simpa only [generator, setups, valve] using h.pulse
  · simpa only [closures, setups, valve, pulsing] using h.closures
  · simpa only [channel, setups, valve] using h.channels
  · simpa only [a, c] using h.apart
  · intro loading
    unfold State.driveAtRest
    rw [queue, generator, closures, a, c]
    exact h.rest (station loading)

/-! ### Operations that touch nothing the clauses read -/

/-- `t` is like `s` to the clauses: no entry of the station's own goes or falls back to PENDING, no CLAIM or SHED comes, and the
rest that they read is the same. -/
structure Alike (s t : State) : Prop where
  station : t.sl.station = s.sl.station
  own : t.sl.own = s.sl.own
  setup : t.sl.setup = s.sl.setup
  claim : t.sb.claim.core = s.sb.claim.core
  states : ∀ b, (t.bed b).state = (s.bed b).state
  entered : ∀ b : BedId, s.hasEntry s.sl.own b.val = true → t.hasEntry s.sl.own b.val = true
  owned : ∀ b, s.owns b → t.owns b
  moves : t.vd.moves = s.vd.moves
  claims : t.claims ≤ s.claims
  sheds : t.sheds ≤ s.sheds

namespace Alike

theorem refl (s : State) : Alike s s := ⟨rfl, rfl, rfl, rfl, fun _ => rfl, fun _ => id, fun _ => id, rfl, le_rfl, le_rfl⟩

theorem trans (h : Alike s t) (k : Alike t u) : Alike s u where
  station := k.station.trans h.station
  own := k.own.trans h.own
  setup := k.setup.trans h.setup
  claim := k.claim.trans h.claim
  states b := (k.states b).trans (h.states b)
  entered b e := h.own ▸ k.entered b (h.own.symm ▸ h.entered b e)
  owned b o := k.owned b (h.owned b o)
  moves := k.moves.trans h.moves
  claims := k.claims.trans h.claims
  sheds := k.sheds.trans h.sheds

theorem valve (h : Alike s t) (b : BedId) : t.valve b = s.valve b := valve_of_moves h.moves b

end Alike

theorem ValveBounds.alike (h : ValveBounds s) (like : Alike s t) : ValveBounds t :=
  h.frame like.setup (fun a c => ⟨like.station ▸ a, like.station ▸ c⟩) (fun b a => like.valve b ▸ a) (fun b _ => like.owned b)
    (fun b _ k => (like.states b).symm ▸ k) fun l => ⟨live_of_core like.claim ▸ l, bed_of_core like.claim⟩

theorem ClaimKept.alike (h : ClaimKept p s) (like : Alike s t) : ClaimKept p t :=
  h.frame like.station like.own like.claim (fun _ k => (like.states _).trans k) (fun _ k => (like.states _).symm ▸ k)
    (fun _ k => like.entered _ k) like.claims like.sheds

theorem DriveKept.alike (h : DriveKept s) (like : Alike s t) : DriveKept t := h.frame like.setup (fun l => like.station ▸ l) like.moves

theorem Kept.alike (h : Kept p s) (like : Alike s t) : Kept p t :=
  ⟨h.bounds.alike like, h.claim.alike like, h.drive.alike like, like.station ▸ h.live⟩

theorem ValvesSound.alike (h : ValvesSound s) (like : Alike s t) : ValvesSound t :=
  ⟨h.bounds.alike like, (claimKept_iff t).1 (((claimKept_iff s).2 h.claim).alike like), h.drive.alike like⟩

/-- All that the clauses read, as it stands. -/
def State.view (s : State) :=
  (s.sl.station, s.sl.own, s.sl.setup, s.sb.claim.core, s.sb.book, s.bc.beds, s.vd.moves, s.tq.queue)

theorem owns_congr (own : t.sl.own = s.sl.own) (book : t.sb.book = s.sb.book) (b : BedId) : t.owns b ↔ s.owns b := by
  unfold State.owns State.ownEntry State.entry
  rw [own, book]

theorem alike_of_view (h : t.view = s.view) : Alike s t := by
  obtain ⟨station, own, setup, claim, book, beds, moves, queue⟩ : t.sl.station = s.sl.station ∧ t.sl.own = s.sl.own
      ∧ t.sl.setup = s.sl.setup ∧ t.sb.claim.core = s.sb.claim.core ∧ t.sb.book = s.sb.book ∧ t.bc.beds = s.bc.beds
      ∧ t.vd.moves = s.vd.moves ∧ t.tq.queue = s.tq.queue := by
    simpa only [State.view, Prod.mk.injEq] using h
  refine ⟨station, own, setup, claim, fun b => ?_, fun b k => ?_, fun b k => ?_, moves, ?_, ?_⟩
  · unfold State.bed
    rw [beds]
  · unfold State.hasEntry at k ⊢
    rwa [book]
  · exact (owns_congr own book b).2 k
  · unfold State.claims
    rw [queue]
  · unfold State.sheds
    rw [queue]

theorem Kept.view (h : Kept p s) (same : t.view = s.view) : Kept p t := h.alike (alike_of_view same)
theorem ValvesSound.view (h : ValvesSound s) (same : t.view = s.view) : ValvesSound t := h.alike (alike_of_view same)

end Sys2Proof.Machine

/-! PROOFS. The valves' bounds: the beds' operations keep them (R87 to R98, R105, R107). -/

namespace Sys2Proof.Machine

variable {p : Prop} {b d : BedId} {s t u : State}

/-! ### Marks, notices and the alert unit -/

theorem alike_noteOccasion (s : State) : Alike s s.noteOccasion := alike_of_view rfl
theorem alike_noteRefusal (k : OrderKind) (r : RefusalReason) (s : State) : Alike s (s.noteRefusal k r) := alike_of_view rfl
theorem alike_advanceTo (n : Nat) (s : State) : Alike s (s.advanceTo n) := alike_of_view rfl
theorem alike_disarm (c : Cause) (s : State) : Alike s (s.disarm c) := alike_of_view rfl
theorem alike_rearm (c : Cause) (s : State) : Alike s (s.rearm c) := alike_of_view rfl

theorem alike_answer (n : Nat) (r : Reply) (s : State) : Alike s (s.answer n r) := by
  unfold State.answer
  split
  · exact alike_of_view rfl
  · exact .refl s

theorem alike_setPending (c : Cause) (bed value : Nat) (s : State) : Alike s (s.setPending c bed value) := by
  rw [State.setPending_rest]
  exact alike_of_view rfl

theorem alike_takeFault (c : Cause) (bed peer kind one two : Nat) (s : State) : Alike s (s.takeFault c bed peer kind one two) := by
  rw [State.takeFault_rest]
  exact alike_of_view rfl

theorem alike_raise (c : Cause) (bed value peer kind one two : Nat) (s : State) : Alike s (s.raise c bed value peer kind one two) :=
  (alike_setPending c bed value s).trans (alike_takeFault ..)

/-- A state whose queue has no more CLAIMs and SHEDs is like the one before. -/
theorem alike_queue (q : List Queued) (claims : State.claims { s with tq.queue := q } ≤ s.claims)
    (sheds : State.sheds { s with tq.queue := q } ≤ s.sheds) : Alike s { s with tq.queue := q } :=
  ⟨rfl, rfl, rfl, rfl, fun _ => rfl, fun _ => id, fun _ => id, rfl, claims, sheds⟩

/-- A notice other than a CLAIM or a SHED is offered. -/
theorem alike_offer {n : Notice} (claim : n.isClaim = false) (shed : n.isShed = false) (s : State) : Alike s (s.offer n) := by
  unfold State.offer
  split
  · refine alike_queue _ (le_of_eq ?_) (le_of_eq ?_)
    · simp [State.claims, List.countP_append, claim]
    · simp [State.sheds, List.countP_append, shed]
  · split
    · exact alike_setPending ..
    · exact .refl s

/-- A list of operations, each of which leaves a state like the one before. -/
theorem alike_foldl {α : Type} {f : State → α → State} (like : ∀ s a, Alike s (f s a)) (l : List α) (s : State) : Alike s (l.foldl f s) := by
  induction l generalizing s with
  | nil => exact .refl s
  | cons a l ih => exact (like s a).trans (ih _)

/-- What each of a list of operations keeps, the list keeps. -/
theorem foldl_holds {α : Type} {P : State → Prop} {f : State → α → State} (keeps : ∀ s a, P s → P (f s a)) (l : List α) (h : P s) :
    P (l.foldl f s) := by
  induction l generalizing s with
  | nil => exact h
  | cons a l ih => exact ih (keeps s a h)

theorem Kept.foldl {α : Type} {f : State → α → State} (keeps : ∀ s a, Kept p s → Kept p (f s a)) (l : List α) (h : Kept p s) :
    Kept p (l.foldl f s) := foldl_holds (P := Kept p) keeps l h

theorem Kept.forBeds {f : BedId → State → State} (keeps : ∀ b s, Kept p s → Kept p (f b s)) (h : Kept p s) : Kept p (s.forBeds f) :=
  Kept.foldl (fun s b => keeps b s) allBeds h

/-! ### A bed's record -/

/-- A bed's record changes and its state stays. -/
theorem alike_modBed {f : Bed → Bed} (state : (f (s.bed b)).state = (s.bed b).state) : Alike s (s.modBed b f) := by
  refine ⟨rfl, rfl, rfl, rfl, fun d => ?_, fun _ => id, fun _ => id, rfl, le_rfl, le_rfl⟩
  rw [State.bed_modBed]
  split
  next h => rw [h]; exact state
  next => rfl

theorem Kept.modBed {f : Bed → Bed} (h : Kept p s) (state : (f (s.bed b)).state = (s.bed b).state) : Kept p (s.modBed b f) :=
  h.alike (alike_modBed state)

theorem state_moveBed (b d : BedId) (st : BedState) (s : State) : ((s.moveBed b st).bed d).state = if d = b then st else (s.bed d).state := by
  rw [Overdraw.bed_moveBed]
  split <;> rfl

/-- A bed moves: its valve stays where it is, so the bed may leave the cycles only with an inactive valve; the bed of a claim that may
commit stays in CLAIMING; the bed of a claim under way joins no cycle. -/
theorem Kept.moveBed {st : BedState} (h : Kept p s) (shut : (s.valve b).active = true → st.busy = true)
    (spared : s.sb.claim.live = true → s.sb.claim.bed ≠ b) (still : s.sb.claim.underWay = true → s.sb.claim.bed = b → st.busy = false) :
    Kept p (s.moveBed b st) where
  bounds := by
    refine h.bounds.frame rfl (fun a c => ⟨a, c⟩) (fun _ => id) (fun _ _ => id) (fun d active k => ?_) fun l => ⟨l, rfl⟩
    rw [state_moveBed]
    split
    next e => subst e; exact shut active
    next => exact k
  claim := by
    refine h.claim.frame rfl rfl rfl (fun l k => ?_) (fun l k => ?_) (fun _ => id) le_rfl le_rfl
    · rw [state_moveBed, if_neg (spared l)]
      exact k
    · rw [state_moveBed]
      split
      next e => exact still l e
      next => exact k
  drive := h.drive.frame rfl id rfl
  live := h.live

/-- The bed's valve is inactive and no claim that may commit waits for the bed: it may rest. -/
def State.mayRest (b : BedId) (s : State) : Prop :=
  (s.valve b).active = false ∧ (s.sb.claim.live = true → s.sb.claim.bed ≠ b)

theorem Kept.inactive (h : Kept p s) (calm : (s.bed b).state.busy = false) : (s.valve b).active = false :=
  Bool.eq_false_iff.2 fun active => by rw [h.bounds.cycle b active] at calm; cases calm

/-- A bed that is in no cycle and not in CLAIMING may rest. -/
theorem Kept.mayRest (h : Kept p s) (calm : (s.bed b).state.busy = false) (out : (s.bed b).state ≠ .claiming) : s.mayRest b :=
  ⟨h.inactive calm, fun live e => out (e ▸ h.claim.holds live)⟩

/-- A bed moves to a state of rest. -/
theorem Kept.rest {st : BedState} (h : Kept p s) (free : s.mayRest b) (calm : st.busy = false) : Kept p (s.moveBed b st) :=
  h.moveBed (fun active => by rw [free.1] at active; cases active) free.2 fun _ _ => calm

/-- A bed that is in a cycle, or of no claim under way, moves within the cycles. -/
theorem Kept.cycle {st : BedState} (h : Kept p s) (spared : s.sb.claim.underWay = true → s.sb.claim.bed ≠ b) (busy : st.busy = true) :
    Kept p (s.moveBed b st) :=
  h.moveBed (fun _ => busy) (fun live => spared (underWay_of_live live)) fun l e => absurd e (spared l)

theorem Kept.spared (h : Kept p s) (busy : (s.bed b).state.busy = true) (way : s.sb.claim.underWay = true) : s.sb.claim.bed ≠ b :=
  fun e => by rw [← e, h.claim.idle way] at busy; cases busy

/-! ### The resting states -/

theorem Kept.setFaulted (h : Kept p s) (free : s.mayRest b) (f : BedFault) : Kept p (s.setFaulted b f) :=
  (h.rest free rfl).modBed rfl

theorem Kept.setIdle (h : Kept p s) (free : s.mayRest b) : Kept p (s.setIdle b) := by
  unfold State.setIdle
  split
  · exact h.setFaulted free .probe
  · exact (h.rest free rfl).modBed rfl

theorem Kept.setWaiting (h : Kept p s) (free : s.mayRest b) (n : Nat) : Kept p (s.setWaiting b n) :=
  ((h.rest free rfl).modBed rfl).alike (alike_noteOccasion _)

theorem Kept.setOff (h : Kept p s) (free : s.mayRest b) : Kept p (s.setOff b) := (h.rest free rfl).modBed rfl

/-! ### Urgencies -/

/-- Entries change in their place, and none of a bed of the station's own falls back to PENDING. -/
theorem alike_updateEntry {st bd : Nat} {f : Entry → Entry}
    (keeps : ∀ e : Entry, e.named st bd = true → (f e).named st bd = true)
    (committed : st = s.sl.own → bd < 8 → ∀ e, e.committed = true → (f e).committed = true) (x : Bool) :
    Alike s { s with sb.book := updateEntry st bd f s.sb.book, sb.dirty := x } := by
  have kept (e : Entry) (n m : Nat) : (if e.named st bd = true then f e else e).named n m = e.named n m := by
    split
    next h =>
      have k := keeps e h
      simp only [Entry.named, Bool.and_eq_true, beq_iff_eq] at h k ⊢
      rw [h.1, h.2, k.1, k.2]
    next => rfl
  have same (n m : Nat) : (fun e : Entry => e.named n m) ∘ (fun e => if e.named st bd = true then f e else e)
      = fun e => e.named n m := funext fun e => kept e n m
  refine ⟨rfl, rfl, rfl, rfl, fun _ => rfl, fun b k => ?_, fun b ⟨e, found, c⟩ => ?_, rfl, le_rfl, le_rfl⟩
  · unfold State.hasEntry updateEntry
    rw [List.any_map, same]
    exact k
  · refine ⟨if e.named st bd = true then f e else e, ?_, ?_⟩
    · unfold State.ownEntry State.entry updateEntry at *
      rw [List.find?_map, same, found]
      rfl
    · split
      next h =>
        have named : e.named s.sl.own b.val = true := List.find?_some (p := fun e : Entry => e.named s.sl.own b.val) found
        simp only [Entry.named, Bool.and_eq_true, beq_iff_eq] at h named
        exact committed (h.1.symm.trans named.1) (h.2.symm.trans named.2 ▸ b.isLt) e c
      next => exact c

theorem alike_setUrgency (b : BedId) (r : Urgency) (s : State) : Alike s (s.setUrgency b r) := by
  unfold State.setUrgency
  extract_lets x m
  have mod : Alike s m := alike_modBed rfl
  have claim : Alike s { m with sb.claim.urgency := r } := mod.trans (alike_of_view rfl)
  split
  · exact .refl s
  · split
    · exact mod.trans (alike_noteOccasion _)
    · split
      · exact claim.trans (alike_updateEntry (f := fun e => { e with urgency := r }) (fun _ => id) (fun _ _ _ => id) true)
      · exact claim
    · exact mod

theorem alike_takeUrgency (b : BedId) (r : Option (Nat × Urgency)) (s : State) : Alike s (s.takeUrgency b r) := by
  unfold State.takeUrgency
  split
  · exact alike_setUrgency ..
  · split
    · exact alike_setUrgency ..
    · exact .refl s

theorem alike_takeNeed (b : BedId) (r : Option (Nat × Urgency)) (s : State) : Alike s (s.takeNeed b r) := by
  unfold State.takeNeed
  split
  · split
    · exact .refl s
    · exact alike_modBed rfl
  · exact .refl s

/-! ### Evaluations and targets -/

theorem Kept.evaluate (h : Kept p s) (b : BedId) (fresh : Bool) : Kept p (s.evaluate b fresh) := by
  unfold State.evaluate
  extract_lets x result
  clear_value result
  split
  · exact h
  · split
    next idle =>
      have free : s.mayRest b := h.mayRest (by rw [idle]; rfl) (by rw [idle]; nofun)
      split
      · exact h.setFaulted free .probe
      · split
        · exact (h.setWaiting free 0).modBed rfl
        · exact h
    next waiting =>
      have free : s.mayRest b := h.mayRest (by rw [waiting]; rfl) (by rw [waiting]; nofun)
      split
      · exact h.setIdle free
      · split
        · exact h.setIdle free
        · split
          · exact h.alike (alike_takeUrgency ..)
          · exact h.alike ((alike_takeNeed ..).trans (alike_takeUrgency ..))
    next =>
      split
      · exact h.alike (alike_takeUrgency ..)
      · exact h.alike ((alike_takeNeed ..).trans (alike_takeUrgency ..))
    next => exact h

theorem Kept.bringTargets (h : Kept p s) (b : BedId) : Kept p (s.bringTargets b) := by
  unfold State.bringTargets
  split
  · exact h
  next start stop _ =>
    have mod := h.modBed (b := b) (f := fun x => { x with start := start, stop := stop, targets := none }) rfl
    dsimp only
    split
    · exact mod.evaluate b false
    · exact mod

theorem Kept.toIdle (h : Kept p s) (free : s.mayRest b) : Kept p (s.toIdle b) := (h.setIdle free).bringTargets b
theorem Kept.toWaiting (h : Kept p s) (free : s.mayRest b) (n : Nat) : Kept p (s.toWaiting b n) := (h.setWaiting free n).bringTargets b
theorem Kept.toFaulted (h : Kept p s) (free : s.mayRest b) (f : BedFault) : Kept p (s.toFaulted b f) := (h.setFaulted free f).bringTargets b

/-! ### Orders to a bed -/

theorem Kept.applyWater (h : Kept p s) (b : BedId) (n : Nat) : Kept p (s.applyWater b n) := by
  unfold State.applyWater
  extract_lets m x r
  have mod : Kept p m := h.modBed rfl
  split
  · exact (mod.modBed rfl).alike (alike_setUrgency ..)
  · split
    next idle =>
      exact (mod.setWaiting (mod.mayRest (by rw [idle]; rfl) (by rw [idle]; nofun)) 0).modBed rfl
    next => exact (mod.modBed rfl).alike (alike_setUrgency ..)

theorem Kept.applyKept (h : Kept p s) (b : BedId) (kept : Option Nat) : Kept p (s.applyKept b kept) := by
  unfold State.applyKept
  split
  · exact h
  · split
    · exact h.alike (alike_noteRefusal ..)
    · split
      · exact h
      · exact Kept.applyWater (h.modBed rfl) b _

theorem Kept.enterAfter (h : Kept p s) (free : s.mayRest b) (a : After) : Kept p (s.enterAfter b a) := by
  unfold State.enterAfter
  cases a with
  | soak => exact (h.rest free rfl).modBed rfl
  | wait n => exact h.toWaiting free n
  | idle => exact h.toIdle free
  | fault f => exact h.toFaulted free f

theorem Kept.bedConfirmed (h : Kept p s) (b : BedId) : Kept p (s.bedConfirmed b) := by
  unfold State.bedConfirmed
  split
  next confirming => exact h.cycle (h.spared (by rw [confirming]; rfl)) rfl
  next => exact h

theorem Kept.bedOpened (h : Kept p s) (b : BedId) : Kept p (s.bedOpened b) := by
  unfold State.bedOpened
  split
  next opening =>
    extract_lets m
    have timed : Kept p { m with fm.confirms := m.fm.confirms.set b (some m.now) } :=
      (h.cycle (h.spared (by rw [opening]; rfl)) rfl).view rfl
    split
    · exact timed.bedConfirmed b
    · exact timed
  next => exact h

end Sys2Proof.Machine

/-! PROOFS. The valves' bounds: the book's operations keep them (R37 to R40, R56, R57). -/

namespace Sys2Proof.Machine

variable {p : Prop} {b d : BedId} {s t u : State}

/-- A search among what a filter keeps, where the filter keeps all that is sought. -/
theorem find_filter_of_imp {α : Type} {keep sought : α → Bool} (imp : ∀ a, sought a = true → keep a = true) (l : List α) :
    (l.filter keep).find? sought = l.find? sought := by
  rw [List.find?_filter]
  congr 1
  funext a
  cases h : sought a with
  | false => simp
  | true => simp [imp a h]

theorem entered_iff (n : Nat) (s : State) : s.hasEntry s.sl.own n = true ↔ ∃ e, s.ownEntry n = some e := by
  rw [hasEntry_entry, Option.isSome_iff_exists]
  rfl

/-- Entries leave the book, none of a bed of the station's own. -/
theorem alike_filterBook {keep : Entry → Bool} (own : ∀ e : Entry, e.station = s.sl.own → e.bed < 8 → keep e = true) (x : Bool) :
    Alike s { s with sb.book := s.sb.book.filter keep, sb.dirty := x } := by
  have same (b : BedId) : State.ownEntry { s with sb.book := s.sb.book.filter keep, sb.dirty := x } b.val = s.ownEntry b.val := by
    refine find_filter_of_imp (fun e named => ?_) s.sb.book
    simp only [Entry.named, Bool.and_eq_true, beq_iff_eq] at named
    exact own e named.1 (named.2 ▸ b.isLt)
  refine ⟨rfl, rfl, rfl, rfl, fun _ => rfl, fun b k => ?_, fun b ⟨e, found, c⟩ => ⟨e, (same b).trans found, c⟩, rfl, le_rfl, le_rfl⟩
  obtain ⟨e, found⟩ := (entered_iff ..).1 k
  exact (entered_iff ..).2 ⟨e, (same b).trans found⟩

/-- The book changes: the active valves keep their entries, the claim its own. -/
theorem Kept.rebook (h : Kept p s) (l : List Entry) (x : Bool)
    (owned : ∀ d, (s.valve d).active = true → s.owns d → State.owns { s with sb.book := l, sb.dirty := x } d)
    (entry : s.sb.claim.underWay = true → s.hasEntry s.sl.own s.sb.claim.bed.val = true →
      State.hasEntry { s with sb.book := l, sb.dirty := x } s.sl.own s.sb.claim.bed.val = true) :
    Kept p { s with sb.book := l, sb.dirty := x } where
  bounds := h.bounds.frame rfl (fun a c => ⟨a, c⟩) (fun _ => id) owned (fun _ _ => id) fun l => ⟨l, rfl⟩
  claim := h.claim.frame rfl rfl rfl (fun _ => id) (fun _ => id) entry le_rfl le_rfl
  drive := h.drive.frame rfl id rfl
  live := h.live

/-! ### An entry leaves -/

theorem alike_remove {st bd : Nat} (other : st = s.sl.own → 8 ≤ bd) : Alike s (s.remove st bd) := by
  unfold State.remove
  split
  · refine alike_filterBook (fun e own bed => ?_) true
    simp only [Entry.named, Bool.not_eq_true', Bool.and_eq_false_iff, beq_eq_false_iff_ne]
    rcases eq_or_ne st s.sl.own with o | o
    · exact .inr fun k => absurd (other o) (by omega)
    · exact .inl fun k => o (k.symm.trans own)
  · exact .refl s

/-- The own entry of a bed leaves: its valve is inactive, and no claim under way is for the bed. -/
theorem Kept.removeOwn (h : Kept p s) (shut : (s.valve b).active = false)
    (spared : s.sb.claim.underWay = true → s.sb.claim.bed ≠ b) : Kept p (s.remove s.sl.own b.val) := by
  have same {d : BedId} (ne : d ≠ b) :
      (removeEntry s.sl.own b.val s.sb.book).find? (fun e => e.named s.sl.own d.val) = s.ownEntry d.val :=
    find_removeEntry_ne (Fin.val_ne_of_ne ne) s.sb.book
  unfold State.remove
  split
  · refine h.rebook _ true (fun d active ⟨e, found, c⟩ => ⟨e, ?_, c⟩) fun way k => ?_
    · refine (same fun e => ?_).trans found
      rw [e, shut] at active
      cases active
    · obtain ⟨e, found⟩ := (entered_iff ..).1 k
      exact (entered_iff _ { s with sb.book := removeEntry s.sl.own b.val s.sb.book, sb.dirty := true }).2 ⟨e, (same (spared way)).trans found⟩
  · exact h

theorem Kept.freeBed (h : Kept p s) (shut : (s.valve b).active = false)
    (spared : s.sb.claim.underWay = true → s.sb.claim.bed ≠ b) : Kept p (s.freeBed b) := by
  have rest : (s.offer (.free b.val)) = { s with tq := (s.offer (.free b.val)).tq, au := (s.offer (.free b.val)).au } := Overdraw.offer_rest ..
  have offered : Kept p (s.offer (.free b.val)) := h.alike (alike_offer rfl rfl s)
  have own : (s.offer (.free b.val)).sl.own = s.sl.own := by rw [rest]
  have freed := offered.removeOwn (b := b) (by rw [rest]; exact shut) (by rw [rest]; exact spared)
  rw [own] at freed
  exact freed

/-! ### An entry changes or joins -/

theorem alike_changeEntry {st bd : Nat} {f : Entry → Entry} (keeps : ∀ e, (f e).station = e.station ∧ (f e).bed = e.bed)
    (committed : st = s.sl.own → bd < 8 → ∀ e, e.committed = true → (f e).committed = true) : Alike s (s.changeEntry st bd f) := by
  have named (e : Entry) (h : e.named st bd = true) : (f e).named st bd = true := by
    unfold Entry.named
    rw [(keeps e).1, (keeps e).2]
    exact h
  unfold State.changeEntry
  dsimp only
  split
  · exact alike_updateEntry named committed s.sb.dirty
  · exact alike_updateEntry named committed true

/-- An entry joins the book's end. -/
theorem alike_append (e : Entry) (x : Bool) : Alike s { s with sb.book := s.sb.book ++ [e], sb.dirty := x } := by
  refine ⟨rfl, rfl, rfl, rfl, fun _ => rfl, fun b k => ?_, fun b ⟨f, found, c⟩ => ⟨f, ?_, c⟩, rfl, le_rfl, le_rfl⟩
  · unfold State.hasEntry at *
    rw [List.any_append, k]
    rfl
  · unfold State.ownEntry State.entry at *
    rw [List.find?_append, found]
    rfl

theorem alike_skipInsertion (s : State) : Alike s s.skipInsertion := by
  have marked : Alike s { s with sb.saturated := true } := alike_of_view rfl
  exact marked.trans (alike_setPending ..)

theorem alike_insert {e : Entry} (committed : e.station = s.sl.own → e.bed < 8 → e.committed = true) : Alike s (s.insert e) := by
  unfold State.insert
  split
  · exact alike_updateEntry (fun _ _ => by simp [Entry.named]) (fun o l _ _ => committed o l) true
  · split
    · exact alike_append e true
    · exact alike_skipInsertion s

/-- The own entry of a bed with an inactive valve is placed. -/
theorem Kept.insertOwn (h : Kept p s) {e : Entry} (bed : e.bed = b.val) (shut : (s.valve b).active = false) :
    Kept p (s.insert e) := by
  unfold State.insert
  split
  · refine h.rebook _ true (fun d active ⟨f, found, c⟩ => ⟨f, ?_, c⟩) fun way k => ?_
    · have ne : d.val ≠ b.val := fun k => by rw [Fin.ext k, shut] at active; cases active
      refine Eq.trans ?_ found
      unfold updateEntry State.ownEntry State.entry
      dsimp only
      induction s.sb.book with
      | nil => rfl
      | cons x l ih =>
        rw [List.map_cons, List.find?_cons, List.find?_cons, ih]
        by_cases named : x.named e.station e.bed = true
        · have out : (fun f : Entry => f.named s.sl.own d.val) e = false := by simp [Entry.named, bed, ne.symm]
          have gone : x.named s.sl.own d.val = false := by
            simp only [Entry.named, Bool.and_eq_true, beq_iff_eq, bed] at named
            simp [Entry.named, named.2, ne.symm]
          rw [if_pos named, gone, show e.named s.sl.own d.val = false from out]
        · rw [if_neg named]
    · unfold State.hasEntry updateEntry at *
      rw [List.any_map]
      refine Eq.trans ?_ k
      congr 1
      funext x
      show Entry.named (if x.named e.station e.bed = true then e else x) _ _ = _
      split
      next named =>
        simp only [Entry.named, Bool.and_eq_true, beq_iff_eq] at named ⊢
        rw [named.1, named.2]
      next => rfl
  · split
    · exact h.alike (alike_append e true)
    · exact h.alike (alike_skipInsertion s)

/-! ### CLOSED is reported -/

theorem Kept.bedClosed (h : Kept p s) (shut : (s.valve b).active = false) : Kept p (s.bedClosed b) := by
  unfold State.bedClosed
  split
  next closing =>
    have spared := h.spared (b := b) (by rw [closing]; rfl)
    have freed := h.freeBed shut spared
    have still : ((s.freeBed b).bed b).state = .closing := by rw [bed_freeBed]; exact closing
    have brought := freed.bringTargets b
    have stays : (((s.freeBed b).bringTargets b).bed b).state = .closing := bringTargets_closing still
    have free : State.mayRest b ((s.freeBed b).bringTargets b) := by
      refine ⟨?_, fun live => brought.spared (by rw [stays]; rfl) (underWay_of_live live)⟩
      rw [valve_of_moves (congrArg ValveDrive.moves ((resting_bringTargets b (s.freeBed b)).vd.trans (freeBed_vd b s)))]
      exact shut
    dsimp only
    split
    · exact (brought.enterAfter free _).applyKept b _
    · exact brought.toIdle free
  next => exact h

end Sys2Proof.Machine

/-! PROOFS. The valves' bounds: the valve drive's operations keep them (R129 to R134). -/

namespace Sys2Proof.Machine

variable {p : Prop} {b d : BedId} {s t u : State} {v : ValveState} {c : Channel}

/-! ### Taken channels -/

/-- A hold channel is taken. -/
def State.taken (s : State) (c : Channel) : Prop := s.vd.channelA = some c ∨ s.vd.channelB = some c

theorem taken_of_channelOf (h : s.channelOf b = some c) : c.bed = b ∧ s.taken c := by
  rw [channelOf_eq] at h
  split at h
  next x found =>
    obtain ⟨a, own⟩ := Option.filter_eq_some_iff.1 found
    cases h
    exact ⟨of_decide_eq_true own, .inl a⟩
  next =>
    obtain ⟨a, own⟩ := Option.filter_eq_some_iff.1 h
    exact ⟨of_decide_eq_true own, .inr a⟩

theorem channelOf_none : s.channelOf b = none ↔ ∀ c, s.taken c → c.bed ≠ b := by
  rw [channelOf_eq]
  constructor
  · intro h c taken
    split at h
    next => cases h
    next out =>
      rcases taken with a | a
      · simpa [a] using out
      · simpa [a] using h
  · intro h
    rw [Option.filter_eq_none_iff.2 fun c a => by simpa using h c (.inl a)]
    exact Option.filter_eq_none_iff.2 fun c a => by simpa using h c (.inr a)

theorem DriveKept.channelOf_taken (h : DriveKept s) (taken : s.taken c) : s.channelOf c.bed = some c := by
  rw [channelOf_eq]
  rcases taken with a | a
  · rw [a, Option.filter_some, if_pos (decide_eq_true rfl)]
  · rw [Option.filter_eq_none_iff.2 fun x k => by simpa using h.apart x c k a, a]
    simp

theorem DriveKept.held (h : DriveKept s) (taken : s.taken c) : (s.setupOf c.bed).kind = .held ∧ s.valve c.bed = c.valveState :=
  h.channels c.bed c (h.channelOf_taken taken)

/-! ### The drive changes and the valves stay -/

theorem Kept.redrive (h : Kept p s) {w : ValveDrive} (valves : w.valves = s.vd.valves) (drive : DriveKept { s with vd := w }) :
    Kept p { s with vd := w } := by
  have valve (b : BedId) : State.valve { s with vd := w } b = s.valve b := congrArg (PerBed.get · b) valves
  refine ⟨?_, ?_, drive, h.live⟩
  · exact h.bounds.frame rfl (fun a c => ⟨a, c⟩) (fun b k => valve b ▸ k) (fun _ _ => id) (fun _ _ => id) fun l => ⟨l, rfl⟩
  · exact h.claim.frame rfl rfl rfl (fun _ => id) (fun _ => id) (fun _ => id) le_rfl le_rfl

theorem DriveKept.pulsing_request (h : DriveKept s) (pulsing : s.pulsing b = true) : ⟨b, .opens⟩ ∉ s.vd.queue :=
  fun m => by rw [(h.opens b m).2] at pulsing; cases pulsing

theorem pulsing_of {r : Request} {rsv : Bool} {x : Nat} (pulse : s.vd.generator = .pulse r rsv x) : s.pulsing r.bed = true := by
  unfold State.pulsing
  rw [pulse]
  exact decide_eq_true rfl

/-- The generator takes the next valve of the closure list, or the queue's head. -/
theorem Kept.kick (h : Kept p s) : Kept p s.kick := by
  have drive := h.drive
  unfold State.kick
  split
  next idle =>
    have still (d : BedId) : s.pulsing d = false := by unfold State.pulsing; rw [idle]
    split
    next b rest list =>
      obtain ⟨once, closures⟩ := list ▸ drive.closures
      refine h.redrive (w := { s.vd with closures := rest, generator := .pulse ⟨b, .closes⟩ true s.now }) rfl
        ⟨drive.requests, fun d m => ⟨(drive.opens d m).1, decide_eq_false fun e : b = d => ?_⟩, fun r _ _ e => ?_,
          ⟨(List.nodup_cons.1 once).2, fun d m => ?_⟩, drive.channels, drive.apart, fun l => absurd l h.live⟩
      · subst e
        have shut := (closures b List.mem_cons_self).2.2
        rw [(drive.opens b m).1] at shut
        simp at shut
      · cases e
        exact ⟨(closures b List.mem_cons_self).1, nofun⟩
      · obtain ⟨latch, -, shut⟩ := closures d (List.mem_cons_of_mem b m)
        exact ⟨latch, decide_eq_false fun e : b = d => (List.nodup_cons.1 once).1 (e ▸ m), shut⟩
    next none =>
      split
      · split
        next r rest queue =>
          obtain ⟨once, latch⟩ := queue ▸ drive.requests
          rw [List.map_cons, List.nodup_cons] at once
          refine h.redrive (w := { s.vd with queue := rest, generator := .pulse r false s.now }) rfl
            ⟨⟨once.2, fun x m => latch x (List.mem_cons_of_mem r m)⟩,
              fun d m => ⟨(drive.opens d (queue ▸ List.mem_cons_of_mem r m)).1, decide_eq_false fun e : r.bed = d => ?_⟩,
              fun x _ _ e => ?_, ⟨none ▸ List.nodup_nil, fun d m => ?_⟩, drive.channels, drive.apart, fun l => absurd l h.live⟩
          · exact once.1 (e ▸ List.mem_map_of_mem (f := fun r : Request => r.bed) m)
          · cases e
            refine ⟨latch r List.mem_cons_self, fun opens => (drive.opens r.bed ?_).1⟩
            rw [queue, ← opens]
            exact List.mem_cons_self
          · rw [show s.vd.closures = [] from none] at m
            cases m
        next => exact h
      · exact h
  next => exact h
  next => exact h

/-- A request joins: of a latching bed, an open one with its valve in OPENING and no pulse of the bed. -/
theorem Kept.queueRequest {x : Direction} (h : Kept p s) (latch : (s.setupOf b).kind = .latch)
    (opens : x = .opens → s.valve b = .opening ∧ s.pulsing b = false) : Kept p (s.queueRequest b x) := by
  have drive := h.drive
  unfold State.queueRequest
  split
  next => exact h
  next out =>
    have other : ∀ r ∈ s.vd.queue, r.bed ≠ b := fun r m e => out ((queued_iff b s).2 ⟨r, m, e⟩)
    refine Kept.kick (h.redrive (w := { s.vd with queue := s.vd.queue ++ [Request.mk b x] }) rfl
      ⟨⟨?_, fun r m => ?_⟩, fun d m => ?_, drive.pulse, drive.closures, drive.channels, drive.apart, fun l => absurd l h.live⟩)
    · rw [List.map_append, List.nodup_append]
      refine ⟨drive.requests.1, by simp, fun a m e k => ?_⟩
      obtain ⟨r, inside, rfl⟩ := List.mem_map.1 m
      rw [List.map_singleton, List.mem_singleton] at k
      exact k ▸ other r inside
    · rcases List.mem_append.1 m with m | m
      · exact drive.requests.2 r m
      · rw [List.mem_singleton] at m
        subst m
        exact latch
    · rcases List.mem_append.1 m with m | m
      · exact drive.opens d m
      · rw [List.mem_singleton] at m
        cases m
        exact opens rfl

/-! ### A valve changes state -/

/-- Nothing of the drive holds the bed's valve to a state: no open request or open pulse, no closure, no channel. -/
structure Undriven (b : BedId) (s : State) : Prop where
  request : ⟨b, .opens⟩ ∉ s.vd.queue
  pulse : ∀ rsv x, s.vd.generator ≠ .pulse ⟨b, .opens⟩ rsv x
  closure : b ∉ s.vd.closures
  channel : s.channelOf b = none

theorem valve_setValve (b d : BedId) (v : ValveState) (s : State) : (s.setValve b v).valve d = if d = b then v else s.valve d :=
  PerBed.get_set ..

theorem DriveKept.setValve (h : DriveKept s) (free : Undriven b s) (live : s.sl.station ≠ .loading) (v : ValveState) :
    DriveKept (s.setValve b v) := by
  have other {d : BedId} (ne : d ≠ b) : (s.setValve b v).valve d = s.valve d := by rw [valve_setValve, if_neg ne]
  refine ⟨h.requests, fun d m => ?_, fun r rsv x pulse => ?_, ⟨h.closures.1, fun d m => ?_⟩, fun d c k => ?_, h.apart,
    fun l => absurd l live⟩
  · rw [other fun e => free.request (e ▸ m)]
    exact h.opens d m
  · refine ⟨(h.pulse r rsv x pulse).1, fun opens => ?_⟩
    rw [other fun e => free.pulse rsv x (by rw [← e, ← opens]; exact pulse)]
    exact (h.pulse r rsv x pulse).2 opens
  · rw [other fun e => free.closure (e ▸ m)]
    exact h.closures.2 d m
  · rw [other fun e => by subst e; exact nomatch free.channel.symm.trans k]
    exact h.channels d c k

/-- An undriven valve moves, and is active after only if it was. -/
theorem Kept.setValve (h : Kept p s) (free : Undriven b s) (active : v.active = true → (s.valve b).active = true) :
    Kept p (s.setValve b v) where
  bounds := h.bounds.frame rfl (fun a c => ⟨a, c⟩) (fun d k => by
      rw [valve_setValve] at k
      split at k
      next e => exact e ▸ active k
      next => exact k) (fun _ _ => id) (fun _ _ => id) fun l => ⟨l, rfl⟩
  claim := h.claim.frame rfl rfl rfl (fun _ => id) (fun _ => id) (fun _ => id) le_rfl le_rfl
  drive := h.drive.setValve free h.live v
  live := h.live

theorem Kept.valveClosed (h : Kept p s) (free : Undriven b s) : Kept p (s.valveClosed b) :=
  (h.setValve free fun k => absurd k (by decide)).bedClosed (by rw [valve_setValve, if_pos rfl]; rfl)

/-- A held valve without a channel is undriven. -/
theorem DriveKept.undriven_held (h : DriveKept s) (held : (s.setupOf b).kind = .held) (out : s.channelOf b = none) : Undriven b s where
  request m := by have := h.requests.2 _ m; rw [held] at this; cases this
  pulse rsv x k := by have := (h.pulse _ rsv x k).1; rw [held] at this; cases this
  closure m := by have := (h.closures.2 b m).1; rw [held] at this; cases this
  channel := out

theorem DriveKept.latch_channel (h : DriveKept s) (latch : (s.setupOf b).kind = .latch) : s.channelOf b = none := by
  cases k : s.channelOf b with
  | none => rfl
  | some c => have := (h.channels b c k).1; rw [latch] at this; cases this

/-- A latching valve is undriven without an open request, an open pulse and a closure of it. -/
theorem DriveKept.undriven_latch (h : DriveKept s) (latch : (s.setupOf b).kind = .latch) (request : ⟨b, .opens⟩ ∉ s.vd.queue)
    (pulse : ∀ rsv x, s.vd.generator ≠ .pulse ⟨b, .opens⟩ rsv x) (closure : b ∉ s.vd.closures) : Undriven b s :=
  ⟨request, pulse, closure, h.latch_channel latch⟩

/-- A latching valve that is OPEN is undriven. -/
theorem DriveKept.undriven_open (h : DriveKept s) (latch : (s.setupOf b).kind = .latch) (open' : s.valve b = .opened) : Undriven b s := by
  refine h.undriven_latch latch (fun m => ?_) (fun rsv x k => ?_) fun m => ?_
  · have := (h.opens b m).1
    rw [open'] at this
    cases this
  · have := (h.pulse _ rsv x k).2 rfl
    rw [open'] at this
    cases this
  · have := (h.closures.2 b m).2.2
    rw [open'] at this
    simp at this

/-! ### Channels -/

/-- The channels change: each taken one is of a held bed whose valve stands where the channel says. -/
theorem Kept.rechannel (h : Kept p s) (a e : Option Channel)
    (held : ∀ c, a = some c ∨ e = some c → (s.setupOf c.bed).kind = .held ∧ s.valve c.bed = c.valveState)
    (apart : ∀ c d, a = some c → e = some d → c.bed ≠ d.bed) : Kept p { s with vd.channelA := a, vd.channelB := e } := by
  have drive := h.drive
  refine h.redrive (w := { s.vd with channelA := a, channelB := e }) rfl
    ⟨drive.requests, drive.opens, drive.pulse, drive.closures, fun d c k => ?_, apart, fun l => absurd l h.live⟩
  obtain ⟨own, taken⟩ := taken_of_channelOf k
  rw [← own]
  exact held c taken

theorem taken_mapChannels {f : Channel → Channel} (taken : (s.mapChannels f).taken c) : ∃ x, s.taken x ∧ f x = c := by
  rcases taken with a | a
  · obtain ⟨x, k, e⟩ := Option.map_eq_some_iff.1 a
    exact ⟨x, .inl k, e⟩
  · obtain ⟨x, k, e⟩ := Option.map_eq_some_iff.1 a
    exact ⟨x, .inr k, e⟩

theorem DriveKept.apart_mapChannels {f : Channel → Channel} (h : DriveKept s) (bed : ∀ c, (f c).bed = c.bed) (c e : Channel)
    (a : (s.mapChannels f).vd.channelA = some c) (k : (s.mapChannels f).vd.channelB = some e) : c.bed ≠ e.bed := by
  obtain ⟨x, ex, rfl⟩ := Option.map_eq_some_iff.1 a
  obtain ⟨y, ey, rfl⟩ := Option.map_eq_some_iff.1 k
  rw [bed, bed]
  exact h.apart x y ex ey

/-- Every taken channel changes, and its bed and its valve's state stay. -/
theorem Kept.mapChannels {f : Channel → Channel} (h : Kept p s) (bed : ∀ c, (f c).bed = c.bed)
    (state : ∀ c, s.taken c → (f c).valveState = c.valveState) : Kept p (s.mapChannels f) := by
  refine h.rechannel _ _ (fun c taken => ?_) (h.drive.apart_mapChannels bed)
  obtain ⟨x, was, rfl⟩ := taken_mapChannels taken
  rw [bed, state x was]
  exact h.drive.held was

theorem Kept.modChannel {f : Channel → Channel} (h : Kept p s) (bed : ∀ c, (f c).bed = c.bed)
    (state : ∀ c, s.taken c → c.bed = b → (f c).valveState = c.valveState) : Kept p (s.modChannel b f) := by
  refine h.mapChannels (fun c => ?_) fun c taken => ?_
  · split <;> simp [bed]
  · split
    next own => exact state c taken own
    next => rfl

theorem taken_freeChannel (b : BedId) (s : State) (c : Channel) : (s.freeChannel b).taken c ↔ s.taken c ∧ c.bed ≠ b := by
  unfold State.taken State.freeChannel
  simp only [Option.filter_eq_some_iff, decide_eq_true_eq, or_and_right]

theorem channelOf_freeChannel (b : BedId) (s : State) : (s.freeChannel b).channelOf b = none :=
  channelOf_none.2 fun c taken => ((taken_freeChannel b s c).1 taken).2

theorem Kept.freeChannel (h : Kept p s) (b : BedId) : Kept p (s.freeChannel b) :=
  h.rechannel _ _ (fun c taken => h.drive.held ((taken_freeChannel b s c).1 taken).1) fun c e a k =>
    h.drive.apart c e (Option.filter_eq_some_iff.1 a).1 (Option.filter_eq_some_iff.1 k).1

/-- A held valve's channel is freed and its valve closes. -/
theorem Kept.releaseHeld (h : Kept p s) (held : (s.setupOf b).kind = .held) : Kept p ((s.freeChannel b).valveClosed b) :=
  (h.freeChannel b).valveClosed ((h.freeChannel b).drive.undriven_held held (channelOf_freeChannel b s))

/-! ### Close requests -/

theorem Kept.closeOpening (h : Kept p s) (latch : (s.setupOf b).kind = .latch) (opening : s.valve b = .opening) :
    Kept p (s.closeOpening b) := by
  have drive := h.drive
  unfold State.closeOpening
  split
  next waits =>
    rw [Bool.and_eq_true, Bool.not_eq_true'] at waits
    have gone : Kept p { s with vd.queue := s.vd.queue.filter fun r => decide (r.bed ≠ b) } :=
      h.redrive (w := { s.vd with queue := s.vd.queue.filter fun r => decide (r.bed ≠ b) }) rfl
        ⟨⟨(List.filter_sublist.map _).nodup drive.requests.1, fun r m => drive.requests.2 r (List.mem_filter.1 m).1⟩,
          fun d m => drive.opens d (List.mem_filter.1 m).1, drive.pulse, drive.closures, drive.channels, drive.apart,
          fun l => absurd l h.live⟩
    refine gone.valveClosed (gone.drive.undriven_latch latch (fun m => ?_) (fun rsv x k => ?_) fun m => ?_)
    · simpa using (List.mem_filter.1 m).2
    · have := pulsing_of (s := s) k
      rw [waits.2] at this
      cases this
    · have := (drive.closures.2 b m).2.2
      rw [opening] at this
      simp at this
  next => exact h.queueRequest latch nofun

theorem Kept.closeHeldOpening (h : Kept p s) (held : (s.setupOf b).kind = .held) : Kept p (s.closeHeldOpening b) := by
  unfold State.closeHeldOpening
  split
  next since _ phase =>
    refine h.modChannel (fun _ => rfl) fun c taken own => ?_
    have := h.drive.channelOf_taken taken
    rw [own] at this
    rw [this] at phase
    unfold Channel.valveState
    rw [show c.phase = .pullIn since _ from Option.some.inj phase]
  all_goals exact h.releaseHeld held

theorem Kept.closeRequest (h : Kept p s) (b : BedId) : Kept p (s.closeRequest b) := by
  unfold State.closeRequest
  split
  next shut => exact h.bedClosed (by rw [shut]; rfl)
  next latch opening => exact h.closeOpening latch opening
  next latch open' =>
    have closing : Kept p (s.setValve b .closing) := h.setValve (h.drive.undriven_open latch open') fun _ => by rw [open']; rfl
    exact closing.queueRequest latch nofun
  next => exact h
  next latch _ => exact h.queueRequest latch nofun
  next held _ => exact h.closeHeldOpening held
  next held _ => exact h.releaseHeld held
  next => exact h
  next => exact h

/-! ### A cycle ends -/

theorem Kept.endCycle (h : Kept p s) (busy : (s.bed b).state.busy = true) (c : EndCause) : Kept p (s.endCycle b c) := by
  have ended := h.cycle (h.spared busy) (st := .closing) rfl
  unfold State.endCycle
  dsimp only
  split
  · exact ended.modBed rfl
  · exact Kept.closeRequest (ended.modBed rfl) b

theorem busy_of_cycling {x : BedState} (h : x.cycling = true) : x.busy = true := by
  unfold BedState.busy
  rw [h]
  rfl

theorem busy_of_credited {x : BedState} (h : x.credited = true) : x.busy = true := by
  unfold BedState.credited at h
  split at h
  · rfl
  · rfl
  · cases h

theorem Kept.cut (h : Kept p s) (b : BedId) (c : EndCause) : Kept p (s.cut b c) := by
  unfold State.cut
  split
  next cycling => exact h.endCycle (busy_of_cycling cycling) c
  next => exact h

theorem Kept.faultBed (h : Kept p s) (b : BedId) (c : EndCause) : Kept p (s.faultBed b c) := by
  unfold State.faultBed
  split
  next credited => exact h.endCycle (busy_of_credited credited) c
  next => exact h

theorem Kept.credit (h : Kept p s) (b : BedId) (n : Nat) : Kept p (s.credit b n) := by
  unfold State.credit
  split
  next => exact h
  next some =>
    have credited : (s.bed b).state.credited = true := by
      rw [Bool.or_eq_true, not_or] at some
      simpa using some.2
    have added : Kept p (s.addCredit b n) := h.modBed rfl
    have busy : ((s.addCredit b n).bed b).state.busy = true := by
      unfold State.addCredit
      rw [State.bed_modBed_same]
      exact busy_of_credited credited
    dsimp only
    split
    · exact added
    · split
      · exact added.endCycle busy _
      · exact added

end Sys2Proof.Machine

/-! PROOFS. The valves' bounds: the claim's end, its withdrawal and the holds keep them (R18, R71, R72, R76, R81, R99, R100). -/

namespace Sys2Proof.Machine

variable {p : Prop} {b d : BedId} {s t u : State} {n : Notice} {c : Claim}

/-! ### The claim record changes -/

/-- Neither a CLAIM nor a SHED waits. -/
def State.unsaid (s : State) : Prop := s.claims = 0 ∧ s.sheds = 0

theorem ClaimKept.noClaims (h : ClaimKept p s) (phase : s.sb.claim.phase ≠ .sending) : s.claims = 0 :=
  Nat.eq_zero_of_not_pos fun k => phase (h.sending ((claims_pos s).2 k))

theorem ClaimKept.noSheds (h : ClaimKept p s) (phase : s.sb.claim.phase ≠ .asking) : s.sheds = 0 :=
  Nat.eq_zero_of_not_pos fun k => phase (h.asking ((sheds_pos s).2 k))

/-- The claim record changes, to one that may commit only if the one before may, for the same bed. -/
theorem Kept.setClaim (h : Kept p s) (live : c.live = true → s.sb.claim.live = true ∧ c.bed = s.sb.claim.bed)
    (claim : ClaimKept p { s with sb.claim := c }) : Kept p { s with sb.claim := c } where
  bounds := h.bounds.frame rfl (fun a c => ⟨a, c⟩) (fun _ => id) (fun _ _ => id) (fun _ _ => id) live
  claim := claim
  drive := h.drive.frame rfl id rfl
  live := h.live

/-- The claim ends. -/
theorem Kept.ending (h : Kept p s) (quiet : s.unsaid) (flight : s.sb.claim.phase ≠ .none) (phase : c.phase = .ending)
    (outcome : c.outcome = none) : Kept p { s with sb.claim := c } := by
  have dead : c.live = false := by unfold Claim.live; rw [phase]
  have idle : c.underWay = false := by unfold Claim.underWay; rw [phase]; rfl
  refine h.setClaim (fun l => by rw [dead] at l; cases l) ⟨fun l => ?_, fun l => ?_, fun l => ?_, h.claim.claims, h.claim.sheds, fun l => ?_,
    fun l => ?_, fun l => ?_, fun a k => absurd (h.claim.offered a k) flight, fun _ _ => dead⟩
  · rw [show c.live = true from l] at dead
    cases dead
  · rw [show c.underWay = true from l] at idle
    cases idle
  · rw [show c.underWay = true from l] at idle
    cases idle
  · exact absurd quiet.1 (Nat.pos_iff_ne_zero.1 ((claims_pos s).1 l))
  · exact absurd quiet.2 (Nat.pos_iff_ne_zero.1 ((sheds_pos s).1 l))
  · rw [show c.outcome = none from outcome] at l
    cases l

theorem Kept.clearClaim (h : Kept p s) (quiet : s.unsaid) : Kept p s.clearClaim := by
  have cleared : Kept p { s with sb.claim := .none } :=
    h.setClaim nofun ⟨nofun, nofun, nofun, h.claim.claims, h.claim.sheds,
      fun l => absurd quiet.1 (Nat.pos_iff_ne_zero.1 ((claims_pos s).1 l)),
      fun l => absurd quiet.2 (Nat.pos_iff_ne_zero.1 ((sheds_pos s).1 l)), nofun, fun _ _ => rfl, fun _ _ => rfl⟩
  exact cleared.alike (alike_noteOccasion _)

/-- The claim has been sent, it may commit, and neither a CLAIM nor a SHED waits: it can be resolved. -/
structure State.decides (s : State) : Prop where
  live : s.sb.claim.live = true
  sent : s.sb.claim.phase ≠ .sending
  quiet : s.unsaid

theorem State.decides.way (h : s.decides) : s.sb.claim.underWay = true := underWay_of_live h.live
theorem State.decides.flight (h : s.decides) : s.sb.claim.phase ≠ .none := ((Claim.underWay_iff _).1 h.way).1

/-- A claim that may commit, with its entry in the book and neither a CLAIM nor a SHED waiting, may take any phase while it holds no
outcome. -/
theorem Kept.setPhase (h : Kept p s) (live : s.sb.claim.live = true) (quiet : s.unsaid)
    (entered : s.hasEntry s.sl.own s.sb.claim.bed.val = true) (bed : c.bed = s.sb.claim.bed) (outcome : c.outcome = none) :
    Kept p { s with sb.claim := c } := by
  have way := underWay_of_live live
  refine h.setClaim (fun _ => ⟨live, bed⟩) ⟨fun _ => ?_, fun _ => ?_, fun _ _ => ?_, h.claim.claims, h.claim.sheds, fun l => ?_,
    fun l => ?_, fun l => ?_, fun a k => absurd (h.claim.offered a k) ((Claim.underWay_iff _).1 way).1, fun q k => ?_⟩
  · exact bed ▸ h.claim.holds live
  · exact bed ▸ h.claim.idle way
  · exact bed ▸ entered
  · exact absurd quiet.1 (Nat.pos_iff_ne_zero.1 ((claims_pos s).1 l))
  · exact absurd quiet.2 (Nat.pos_iff_ne_zero.1 ((sheds_pos s).1 l))
  · simp [outcome] at l
  · have := h.claim.barred q k
    rw [live] at this
    cases this

theorem Kept.rephase (h : Kept p s) (decides : s.decides) (bed : c.bed = s.sb.claim.bed) (outcome : c.outcome = none) :
    Kept p { s with sb.claim := c } :=
  h.setPhase decides.live decides.quiet (h.claim.entry decides.way decides.sent) bed outcome

/-! ### The claim's end (R71, R72) -/

theorem setPending_withClaim (e : Cause) (bed value : Nat) (c : Claim) (s : State) :
    State.setPending e bed value { s with sb.claim := c } = { s.setPending e bed value with sb.claim := c } := by
  unfold State.setPending
  dsimp only
  split
  next h => rw [if_pos (show s.anyPending = true from h)]; rfl
  next h => rw [if_neg (show ¬ s.anyPending = true from h)]; rfl

theorem offer_withClaim (n : Notice) (c : Claim) (s : State) :
    State.offer n { s with sb.claim := c } = { s.offer n with sb.claim := c } := by
  unfold State.offer
  split
  next h => rw [if_pos (show s.admits n = true from h)]
  next h =>
    rw [if_neg (show ¬ s.admits n = true from h)]
    split
    · exact setPending_withClaim ..
    · rfl

theorem remove_withClaim (st bd : Nat) (c : Claim) (s : State) :
    State.remove st bd { s with sb.claim := c } = { s.remove st bd with sb.claim := c } := by
  unfold State.remove
  split
  next h => rw [if_pos (show s.hasEntry st bd = true from h)]; rfl
  next h => rw [if_neg (show ¬ s.hasEntry st bd = true from h)]

/-- The record may be ended before the notice and the entry. -/
theorem endClaim_first (s : State) : s.endClaim
    = State.remove s.sl.own s.sb.claim.bed.val (State.offer (.drop s.sb.claim.bed) { s with sb.claim := s.sb.claim.over }) := by
  rw [offer_withClaim, remove_withClaim]
  rfl

theorem Kept.endClaim (h : Kept p s) (quiet : s.unsaid) (way : s.sb.claim.underWay = true) : Kept p s.endClaim := by
  have ended : Kept p { s with sb.claim := s.sb.claim.over } := h.ending quiet ((Claim.underWay_iff _).1 way).1 rfl rfl
  have shut : (s.valve s.sb.claim.bed).active = false := h.inactive (h.claim.idle way)
  have dropped := ended.alike (alike_offer (n := .drop s.sb.claim.bed) rfl rfl _)
  rw [endClaim_first]
  rw [Overdraw.offer_rest] at dropped ⊢
  exact dropped.removeOwn shut nofun

theorem endClaim_dead (s : State) : s.endClaim.sb.claim.live = false := by rw [endClaim_phase]; rfl

theorem endClaim_valve (b : BedId) (s : State) : s.endClaim.valve b = s.valve b := by rw [endClaim_rest]; rfl

theorem Kept.dropClaim (h : Kept p s) (quiet : s.unsaid) (way : s.sb.claim.underWay = true) : Kept p s.dropClaim := by
  have ended := h.endClaim quiet way
  unfold State.dropClaim
  dsimp only
  split
  · refine ended.toWaiting ⟨?_, fun l => by rw [endClaim_dead] at l; cases l⟩ _
    rw [endClaim_valve]
    exact h.inactive (h.claim.idle way)
  · exact ended

/-! ### Cancellations -/

/-- A cancellation brings no notice of any sort. -/
theorem cancel_count (q f : Notice → Bool) (s : State) :
    (s.cancel q).tq.queue.countP (fun x => f x.notice) ≤ s.tq.queue.countP fun x => f x.notice := by
  unfold State.cancel
  split
  · unfold State.modHead
    split
    next e => simp [e, List.countP_cons]
    next => exact le_rfl
  · split
    next x l e =>
      split
      · exact (List.drop_sublist ..).countP_le
      · rw [e]
        exact (List.Sublist.cons_cons x List.eraseP_sublist).countP_le
    next => exact le_rfl

/-- The queue changes, and no CLAIM or SHED comes. -/
theorem alike_tq (q : TransmitQueue) (claims : State.claims { s with tq := q } ≤ s.claims) (sheds : State.sheds { s with tq := q } ≤ s.sheds) :
    Alike s { s with tq := q } := ⟨rfl, rfl, rfl, rfl, fun _ => rfl, fun _ => id, fun _ => id, rfl, claims, sheds⟩

theorem alike_cancel (q : Notice → Bool) (s : State) : Alike s (s.cancel q) := by
  rw [cancel_rest]
  exact alike_tq _ (cancel_count q Notice.isClaim s) (cancel_count q Notice.isShed s)

/-! ### Withdrawal (R81) -/

theorem not_holds_claims (h : ¬ s.holdsNotice Notice.isClaim = true) : s.claims = 0 := Nat.eq_zero_of_not_pos fun k => h ((claims_pos s).2 k)
theorem not_holds_sheds (h : ¬ s.holdsNotice Notice.isShed = true) : s.sheds = 0 := Nat.eq_zero_of_not_pos fun k => h ((sheds_pos s).2 k)

/-- The record of a claim that goes on in its phase: it may commit only if it could, and an outcome is held in ASKING. -/
theorem Kept.mark (h : Kept p s) (phase : c.phase = s.sb.claim.phase) (bed : c.bed = s.sb.claim.bed)
    (live : c.live = true → s.sb.claim.live = true) (outcome : c.outcome.isSome = true → c.phase = .asking) :
    Kept p { s with sb.claim := c } := by
  have way : c.underWay = s.sb.claim.underWay := by unfold Claim.underWay; rw [phase]
  refine h.setClaim (fun l => ⟨live l, bed⟩) ⟨fun l => ?_, fun l => ?_, fun l k => ?_, h.claim.claims, h.claim.sheds, fun l => ?_,
    fun l => ?_, outcome, fun a k => phase.trans (h.claim.offered a k), fun q k => Bool.eq_false_iff.2 fun l => ?_⟩
  · exact bed ▸ h.claim.holds (live l)
  · exact bed ▸ h.claim.idle (way ▸ l)
  · exact bed ▸ h.claim.entry (way ▸ l) (phase ▸ k)
  · exact phase.trans (h.claim.sending l)
  · exact phase.trans (h.claim.asking l)
  · have := h.claim.barred q k
    rw [live l] at this
    cases this

theorem Kept.withdraw (h : Kept p s) : Kept p s.withdraw := by
  unfold State.withdraw
  split
  next => exact h
  next => exact h
  next sending =>
    have cancelled := h.alike (alike_cancel Notice.isClaim s)
    have claim : (s.cancel Notice.isClaim).sb.claim = s.sb.claim := by rw [cancel_sb]
    dsimp only
    split
    · exact cancelled.mark rfl rfl (fun l => by simp [Claim.live, claim, sending] at l)
        fun o => cancelled.claim.held o
    next gone =>
      refine cancelled.clearClaim ⟨not_holds_claims gone, cancelled.claim.noSheds ?_⟩
      rw [claim, sending]
      nofun
  next phase =>
    exact h.endClaim ⟨h.claim.noClaims (by rw [phase]; nofun), h.claim.noSheds (by rw [phase]; nofun)⟩
      ((Claim.underWay_iff _).2 (by rw [phase]; exact ⟨nofun, nofun⟩))
  next phase =>
    exact h.endClaim ⟨h.claim.noClaims (by rw [phase]; nofun), h.claim.noSheds (by rw [phase]; nofun)⟩
      ((Claim.underWay_iff _).2 (by rw [phase]; exact ⟨nofun, nofun⟩))
  next asking =>
    have held : Kept p { s with sb.claim.outcome := some .drop } :=
      h.mark rfl rfl (fun l => by simp [Claim.live, asking] at l) fun _ => asking
    have cancelled := held.alike (alike_cancel Notice.isShed _)
    have phase : (State.cancel Notice.isShed { s with sb.claim.outcome := some .drop }).sb.claim.phase = .asking := by
      rw [cancel_sb]; exact asking
    dsimp only
    split
    · exact cancelled
    next gone =>
      exact cancelled.endClaim ⟨cancelled.claim.noClaims (by rw [phase]; nofun), not_holds_sheds gone⟩
        ((Claim.underWay_iff _).2 (by rw [phase]; exact ⟨nofun, nofun⟩))

theorem withdraw_dead (s : State) : s.withdraw.sb.claim.live = false := by
  unfold State.withdraw
  split
  next phase => unfold Claim.live; rw [phase]
  next phase => unfold Claim.live; rw [phase]
  next phase =>
    dsimp only
    split
    · simp [Claim.live, cancel_sb, phase]
    · rfl
  next => exact endClaim_dead s
  next => exact endClaim_dead s
  next phase =>
    dsimp only
    split
    · simp [Claim.live, cancel_sb, phase]
    · exact endClaim_dead _

theorem withdraw_valve (b : BedId) (s : State) : s.withdraw.valve b = s.valve b := by rw [withdraw_rest]; rfl

/-- After the withdrawal the bed of an inactive valve may rest. -/
theorem Kept.withdraw_mayRest (h : Kept p s) (claiming : (s.bed b).state = .claiming) : State.mayRest b s.withdraw :=
  ⟨by rw [withdraw_valve]; exact h.inactive (by rw [claiming]; rfl), fun l => by rw [withdraw_dead] at l; cases l⟩

/-! ### The hold set (R99, R100) and line loss (R18) -/

theorem Kept.holdBed (h : Kept p s) (r : HoldReason) (b : BedId) : Kept p (s.holdBed r b) := by
  have cycled (busy : (s.bed b).state.busy = true) : Kept p (match r.cut with
      | some c => s.endCycle b c
      | none => s) := by
    split
    · exact h.endCycle busy _
    · exact h
  unfold State.holdBed
  split
  next k => exact cycled (by rw [k]; rfl)
  next k => exact cycled (by rw [k]; rfl)
  next k => exact cycled (by rw [k]; rfl)
  next claiming =>
    split
    · exact h
    · exact h.withdraw.toWaiting (h.withdraw_mayRest claiming) 0
  all_goals exact h

theorem Kept.joinHold (h : Kept p s) (r : HoldReason) : Kept p (s.joinHold r) := by
  unfold State.joinHold
  split
  · exact h
  · have put : Kept p { s with bc.holds := s.bc.holds.put r true } := h.view rfl
    exact (put.forBeds fun b _ k => k.holdBed r b).alike (alike_noteOccasion _)

theorem alike_leaveHold (r : HoldReason) (s : State) : Alike s (s.leaveHold r) := by
  unfold State.leaveHold
  split
  · exact alike_of_view rfl
  · exact .refl s

theorem Kept.setHold (h : Kept p s) (r : HoldReason) (x : Bool) : Kept p (s.setHold r x) := by
  unfold State.setHold
  split
  · exact h.joinHold r
  · exact h.alike (alike_leaveHold r s)

theorem Kept.weighWeather (h : Kept p s) : Kept p s.weighWeather := by
  unfold State.weighWeather
  split
  · exact ((h.setHold _ _).setHold _ _).setHold _ _
  · exact ((h.setHold _ _).setHold _ _).setHold _ _

theorem Kept.closeLine (h : Kept p s) : Kept p s.closeLine := (h.joinHold .line).alike (alike_raise ..)

theorem Kept.ownCommitted (h : Kept p s) : Kept p s.ownCommitted := by
  unfold State.ownCommitted
  split
  · exact h.closeLine
  · exact h

end Sys2Proof.Machine

/-! PROOFS. The valves' bounds: the claim's resolution, the offer and the end of an event keep them (R58, R63 to R77, R130). -/

namespace Sys2Proof.Machine

variable {p : Prop} {b d : BedId} {s t u : State} {n : Notice} {c : Claim}

/-! ### A valve opens (R130, R132, R134) -/

/-- A condition that changes at one bed counts at most one bed more. -/
theorem filter_beds_grow (b : BedId) (f g : BedId → Bool) (same : ∀ d, d ≠ b → g d = f d) :
    (allBeds.filter g).length ≤ (allBeds.filter f).length + 1 := by
  have grow (l : List BedId) : l.countP g ≤ l.countP f + l.count b := by
    induction l with
    | nil => exact le_rfl
    | cons x l ih =>
      rw [List.countP_cons, List.countP_cons, List.count_cons]
      rcases eq_or_ne x b with rfl | ne
      · simp only [beq_self_eq_true, if_true]
        split <;> split <;> omega
      · rw [same x ne, if_neg (show ¬ (x == b) = true by simpa using ne)]
        omega
  rw [← List.countP_eq_length_filter, ← List.countP_eq_length_filter]
  have once : allBeds.count b = 1 := by fin_cases b <;> rfl
  exact once ▸ grow allBeds

theorem DriveKept.undriven_shut (h : DriveKept s) (shut : s.valve b = .closed) : Undriven b s where
  request m := by have := (h.opens b m).1; rw [shut] at this; cases this
  pulse rsv x k := by have := (h.pulse _ rsv x k).2 rfl; rw [shut] at this; cases this
  closure m := by have := (h.closures.2 b m).2.2; rw [shut] at this; simp at this
  channel := by
    cases k : s.channelOf b with
    | none => rfl
    | some c =>
      have := (h.channels b c k).2
      rw [shut] at this
      unfold Channel.valveState at this
      split at this <;> cases this

/-- There is room for the valve of this bed, its own entry is COMMITTED, and the bed is in a cycle, with no claim that may commit. -/
structure State.opens (b : BedId) (s : State) : Prop where
  owns : s.owns b
  busy : (s.bed b).state.busy = true
  three : s.activeValves.length ≤ 3
  one : (s.setupOf b).kind = .held → s.activeHeld.length ≤ 1
  station : s.sl.station = .active ∨ s.sl.station = .barred
  dead : s.sb.claim.live = false

theorem Kept.openValve (h : Kept p s) (shut : s.valve b = .closed) (opens : s.opens b) : Kept p (s.setValve b .opening) := by
  have other {d : BedId} (ne : d ≠ b) : (s.setValve b .opening).valve d = s.valve d := by rw [valve_setValve, if_neg ne]
  refine ⟨⟨?_, ?_, fun d k => ?_, fun d k => ?_, fun a c => ?_, fun l => ?_⟩, ?_, h.drive.setValve (h.drive.undriven_shut shut) h.live _, h.live⟩
  · have := filter_beds_grow b (fun d => (s.valve d).active) (fun d => ((s.setValve b .opening).valve d).active)
      fun d ne => by rw [other ne]
    exact this.trans (Nat.add_le_add_right opens.three 1)
  · rw [activeHeld_eq]
    by_cases held : (s.setupOf b).kind = .held
    · have := filter_beds_grow b (fun d => (s.valve d).active && decide ((s.setupOf d).kind = .held))
        (fun d => ((s.setValve b .opening).valve d).active && decide ((s.setupOf d).kind = .held)) fun d ne => by rw [other ne]
      rw [← activeHeld_eq] at this
      exact this.trans (Nat.add_le_add_right (opens.one held) 1)
    · refine le_trans (le_of_eq ?_) h.bounds.two
      rw [activeHeld_eq]
      congr 1
      refine List.filter_congr fun d _ => ?_
      rcases eq_or_ne d b with rfl | ne
      · rw [show ((s.setValve d .opening).setupOf d).kind = (s.setupOf d).kind from rfl, decide_eq_false held, Bool.and_false, Bool.and_false]
      · rw [other ne]
        rfl
  · rcases eq_or_ne d b with rfl | ne
    · exact opens.owns
    · rw [other ne] at k
      exact h.bounds.owned d k
  · rcases eq_or_ne d b with rfl | ne
    · exact opens.busy
    · rw [other ne] at k
      exact h.bounds.cycle d k
  · rcases opens.station with k | k
    · exact absurd k a
    · exact absurd k c
  · have dead := opens.dead
    rw [show s.sb.claim.live = true from l] at dead
    cases dead
  · exact h.claim.frame rfl rfl rfl (fun _ => id) (fun _ => id) (fun _ => id) le_rfl le_rfl

theorem Kept.takeChannel (h : Kept p s) (held : (s.setupOf b).kind = .held) (shut : s.valve b = .closed) (opens : s.opens b) :
    Kept p (s.takeChannel b) := by
  have opened := h.openValve shut opens
  have out := channelOf_none.1 (h.drive.undriven_shut shut).channel
  have own : (s.setValve b .opening).valve b = .opening := by rw [valve_setValve, if_pos rfl]
  have new : (Channel.mk b s.takenPhase none none).valveState = .opening := by
    unfold Channel.valveState State.takenPhase
    rcases em (s.vd.supply = .good) with good | good
    · rw [if_pos good]
    · rw [if_neg good]
  have mine : ((s.setValve b .opening).setupOf b).kind = .held ∧ (s.setValve b .opening).valve b = (Channel.mk b s.takenPhase none none).valveState :=
    ⟨held, own.trans new.symm⟩
  unfold State.takeChannel
  dsimp only
  split
  next free =>
    refine opened.rechannel _ s.vd.channelB (fun c taken => ?_) fun c e a k => ?_
    · rcases taken with a | a
      · cases a
        exact mine
      · exact opened.drive.held (.inr a)
    · cases a
      exact (out e (.inr k)).symm
  next x taken free =>
    refine opened.rechannel s.vd.channelA _ (fun c taken => ?_) fun c e a k => ?_
    · rcases taken with a | a
      · exact opened.drive.held (.inl a)
      · cases a
        exact mine
    · cases k
      exact out c (.inl a)
  next => exact h

theorem Kept.openRequest (h : Kept p s) (opens : s.opens b) : Kept p (s.openRequest b) := by
  unfold State.openRequest
  split
  next ready =>
    obtain ⟨shut, -, still⟩ := ready
    split
    next latch =>
      exact (h.openValve shut opens).queueRequest latch fun _ => ⟨by rw [valve_setValve, if_pos rfl], still⟩
    next held => exact h.takeChannel held shut opens
  next => exact h

/-! ### A commit (R36, R70) -/

theorem owns_commit {f : Entry → Entry} (keeps : ∀ e, (f e).station = e.station ∧ (f e).bed = e.bed) (committed : ∀ e, (f e).committed = true)
    (entered : s.hasEntry s.sl.own b.val = true) : (s.putBook (updateEntry s.sl.own b.val f s.sb.book)).owns b := by
  obtain ⟨e, found⟩ := (entered_iff ..).1 entered
  refine ⟨f e, ?_, committed e⟩
  exact (find_updateEntry s.sl.own b.val f keeps s.sb.book).trans (congrArg (Option.map f) found)

theorem Kept.commitClaim (h : Kept p s) (decides : s.decides) : Kept p s.commitClaim := by
  obtain ⟨three, one⟩ := h.bounds.room decides.live
  have station : s.sl.station = .active ∨ s.sl.station = .barred :=
    or_iff_not_imp_left.2 fun a => of_not_not fun c => decides.flight (h.claim.offered a c)
  unfold State.commitClaim
  extract_lets c b x t
  have booked : Kept p b :=
    h.alike (alike_updateEntry (f := fun e => { e with committed := true, heard := s.now }) (fun _ => id) (fun _ _ _ _ => rfl) true)
  have owns : b.owns c.bed := owns_commit (fun _ => ⟨rfl, rfl⟩) (fun _ => rfl) (h.claim.entry decides.way decides.sent)
  have ended : Kept p t := booked.ending decides.quiet decides.flight rfl rfl
  have offered := ended.alike (alike_offer (n := .commit c.bed) rfl rfl t)
  rw [Overdraw.offer_rest] at offered ⊢
  have started := (offered.cycle (b := c.bed) (st := .opening) nofun rfl).modBed (b := c.bed)
    (f := fun x => { x with run := some (nextCycle x.run x.need t.runClock) }) rfl
  refine Kept.ownCommitted (Kept.openRequest started ⟨owns, ?_, three, one, station, rfl⟩)
  unfold State.startCycle
  rw [State.bed_modBed_same]
  show ((State.moveBed c.bed .opening _).bed c.bed).state.busy = true
  rw [state_moveBed, if_pos rfl]
  rfl

/-! ### The shed and the resolution (R69, R73 to R77) -/

theorem Kept.shedOwn (h : Kept p s) (decides : s.decides) (outcome : s.sb.claim.outcome = none) (e : Entry) : Kept p (s.shedOwn e) := by
  unfold State.shedOwn
  have waits : Kept p { s with
      sb.claim.phase := .awaiting, sb.claim.shedMade := true, sb.claim.victim := some (e.station, e.bed),
      sb.claim.resolveSince := none, sb.claim.victimSince := some s.now } :=
    h.rephase decides rfl outcome
  dsimp only
  split
  · exact waits.cut _ .shed
  · exact waits

/-- A CLAIM is offered in SENDING while none waits, a SHED in ASKING. -/
theorem Kept.offerOwn (h : Kept p s) (claim : n.isClaim = true → s.claims = 0 ∧ s.sb.claim.phase = .sending)
    (shed : n.isShed = true → s.sheds = 0 ∧ s.sb.claim.phase = .asking) : Kept p (s.offer n) := by
  unfold State.offer
  split
  · have claims : State.claims { s with tq.queue := s.tq.queue ++ [⟨n, 0, false⟩] } = s.claims + if n.isClaim = true then 1 else 0 := by
      simp [State.claims, List.countP_append, List.countP_cons]
    have sheds : State.sheds { s with tq.queue := s.tq.queue ++ [⟨n, 0, false⟩] } = s.sheds + if n.isShed = true then 1 else 0 := by
      simp [State.sheds, List.countP_append, List.countP_cons]
    refine ⟨?_, ⟨h.claim.holds, h.claim.idle, h.claim.entry, ?_, ?_, fun l => ?_, fun l => ?_, h.claim.held, h.claim.offered, h.claim.barred⟩,
      h.drive.frame rfl id rfl, h.live⟩
    · exact h.bounds.frame rfl (fun a c => ⟨a, c⟩) (fun _ => id) (fun _ _ => id) (fun _ _ => id) fun l => ⟨l, rfl⟩
    · rw [claims]
      split
      next k => rw [(claim k).1]
      next => exact h.claim.claims
    · rw [sheds]
      split
      next k => rw [(shed k).1]
      next => exact h.claim.sheds
    · rw [claims_pos, claims] at l
      split at l
      next k => exact (claim k).2
      next => exact h.claim.sending ((claims_pos s).2 l)
    · rw [sheds_pos, sheds] at l
      split at l
      next k => exact (shed k).2
      next => exact h.claim.asking ((sheds_pos s).2 l)
  · split
    · exact h.alike (alike_setPending ..)
    · exact h

theorem Kept.shedPeer (h : Kept p s) (decides : s.decides) (outcome : s.sb.claim.outcome = none) (e : Entry) : Kept p (s.shedPeer e) :=
  (h.rephase (c := { s.sb.claim with phase := .asking, shedMade := true, victim := some (e.station, e.bed), resolveSince := none })
    decides rfl outcome).offerOwn nofun fun _ => ⟨decides.quiet.2, rfl⟩

theorem Kept.resolve (h : Kept p s) (decides : s.decides) (outcome : s.sb.claim.outcome = none) : Kept p s.resolve := by
  unfold State.resolve
  split
  · exact h.commitClaim decides
  · split
    · unfold State.shedClaim
      split
      · exact h.dropClaim decides.quiet decides.way
      · split
        · exact h.shedOwn decides outcome _
        · exact h.shedPeer decides outcome _
    · exact h.dropClaim decides.quiet decides.way

theorem live_of_phase (h : c.phase = .resolving ∨ c.phase = .awaiting) : c.live = true := by
  unfold Claim.live
  rcases h with k | k <;> rw [k]

/-- A claim in RESOLVING or AWAITING can be resolved. -/
theorem Kept.decides (h : Kept p s) (phase : s.sb.claim.phase = .resolving ∨ s.sb.claim.phase = .awaiting) :
    s.decides ∧ s.sb.claim.outcome = none := by
  have other : s.sb.claim.phase ≠ .sending ∧ s.sb.claim.phase ≠ .asking := by rcases phase with k | k <;> rw [k] <;> exact ⟨nofun, nofun⟩
  refine ⟨⟨live_of_phase phase, other.1, h.claim.noClaims other.1, h.claim.noSheds other.2⟩, ?_⟩
  exact Option.not_isSome_iff_eq_none.1 fun k => other.2 (h.claim.held k)

/-- A claim in ASKING whose SHED has left the queue can be resolved, but for a held drop. -/
theorem Kept.asks (h : Kept p s) (phase : s.sb.claim.phase = .asking) (gone : s.sheds = 0) (outcome : s.sb.claim.outcome ≠ some .drop) :
    s.decides := by
  refine ⟨?_, by rw [phase]; nofun, h.claim.noClaims (by rw [phase]; nofun), gone⟩
  unfold Claim.live
  rw [phase]
  exact decide_eq_true outcome

theorem Kept.applyHeld (h : Kept p s) (phase : s.sb.claim.phase = .asking) (gone : s.sheds = 0) : Kept p s.applyHeld := by
  unfold State.applyHeld
  split
  next again =>
    have decides := h.asks phase gone (by rw [again]; nofun)
    have cleared : Kept p { s with sb.claim.outcome := none } := h.rephase decides rfl rfl
    exact cleared.resolve (cleared.asks phase gone nofun) rfl
  next =>
    exact h.endClaim ⟨h.claim.noClaims (by rw [phase]; nofun), gone⟩ ((Claim.underWay_iff _).2 (by rw [phase]; exact ⟨nofun, nofun⟩))
  next => exact h

theorem Kept.victimLeaves (h : Kept p s) : Kept p s.victimLeaves := by
  unfold State.victimLeaves
  split
  next phase =>
    obtain ⟨decides, outcome⟩ := h.decides (.inr phase)
    exact h.resolve decides outcome
  next phase outcome =>
    have held : Kept p { s with sb.claim.outcome := some .reResolve } :=
      h.mark rfl rfl (fun _ => by unfold Claim.live; rw [phase, outcome]; rfl) fun _ => phase
    have cancelled := held.alike (alike_cancel Notice.isShed _)
    have asking : (State.cancel Notice.isShed { s with sb.claim.outcome := some .reResolve }).sb.claim.phase = .asking := by
      rw [cancel_sb]
      exact phase
    dsimp only
    split
    · exact cancelled
    next gone => exact cancelled.applyHeld asking (not_holds_sheds gone)
  all_goals exact h

/-! ### Offers (R63 to R66) -/

theorem offer_moveBed (n : Notice) (b : BedId) (st : BedState) (s : State) : (s.offer n).moveBed b st = (s.moveBed b st).offer n := by
  unfold State.offer
  split
  next h => rw [if_pos (show (s.moveBed b st).admits n = true from h)]; rfl
  next h =>
    rw [if_neg (show ¬ (s.moveBed b st).admits n = true from h)]
    split
    next k =>
      rw [if_pos (show (s.moveBed b st).sl.station.admits n = true from k)]
      unfold State.setPending
      split
      next a => rw [if_pos (show (s.moveBed b st).anyPending = true from a)]; rfl
      next a => rw [if_neg (show ¬ (s.moveBed b st).anyPending = true from a)]; rfl
    next k => rw [if_neg (show ¬ (s.moveBed b st).sl.station.admits n = true from k)]

/-- The claim of a bed that is offered. -/
theorem Kept.offerBed (h : Kept p s) (waits : (s.bed b).state = .waiting) (active : s.sl.station = .active)
    (free : s.sb.claim.phase = .none) (ready : s.valveReady b = true) : Kept p (s.offerBed b) := by
  have dead : s.sb.claim.live = false := by unfold Claim.live; rw [free]
  have idle : s.sb.claim.underWay = false := by unfold Claim.underWay; rw [free]; rfl
  have moved : Kept p (s.moveBed b .claiming) :=
    h.rest ⟨h.inactive (by rw [waits]; rfl), fun l => by rw [dead] at l; cases l⟩ rfl
  have claiming : ((s.moveBed b .claiming).bed b).state = .claiming := by rw [state_moveBed, if_pos rfl]
  obtain ⟨four, two⟩ : s.activeValves.length < 4 ∧ ((s.setupOf b).kind = .held → s.activeHeld.length < 2) := by
    unfold State.valveReady at ready
    rw [Bool.and_eq_true, Bool.and_eq_true, decide_eq_true_eq] at ready
    refine ⟨ready.1.1, fun held => ?_⟩
    have := ready.1.2
    rw [held] at this
    exact of_decide_eq_true this
  unfold State.offerBed
  extract_lets x flow
  rw [offer_moveBed]
  refine Kept.offerOwn (s := { s.moveBed b .claiming with sb.claim := { Claim.none with phase := .sending, bed := b, flow := flow, urgency := x.urgency, age := x.waitAge } })
    ⟨⟨moved.bounds.four, moved.bounds.two, moved.bounds.owned, moved.bounds.cycle, moved.bounds.early,
        fun _ => ⟨Nat.le_of_lt_succ four, fun held => Nat.le_of_lt_succ (two held)⟩⟩,
      ⟨fun _ => claiming, fun _ => ?_, fun _ k => absurd rfl k, moved.claim.claims, moved.claim.sheds, fun _ => rfl, fun l => ?_, nofun,
        fun k => absurd active k, fun _ k => ?_⟩, moved.drive.frame rfl id rfl, h.live⟩ (fun _ => ⟨?_, rfl⟩) nofun
  · show ((s.moveBed b .claiming).bed b).state.busy = false
    rw [claiming]
    rfl
  · exact absurd (h.claim.noSheds (by rw [free]; nofun)) (Nat.pos_iff_ne_zero.1 ((sheds_pos s).1 l))
  · rw [show s.sl.station = .barred from k] at active
    cases active
  · exact h.claim.noClaims (by rw [free]; nofun)

theorem Kept.weighOccasion (h : Kept p s) : Kept p s.weighOccasion := by
  unfold State.weighOccasion
  split
  next open' =>
    split
    next b found =>
      have waits : (s.bed b).state = .waiting := waiting_of_find found
      have eligible : s.eligible b = true := List.find?_some (p := fun b => s.eligible b) found
      refine h.offerBed waits open'.1 open'.2 ?_
      unfold State.eligible at eligible
      simp only [Bool.and_eq_true] at eligible
      exact eligible.1.2
    next => exact h
  next => exact h

/-! ### The end of an event -/

theorem Kept.overdraw (h : Kept p s) : Kept p s.overdraw := by
  unfold State.overdraw
  refine Kept.foldl (fun s e k => ?_) _ h
  unfold State.cutOver
  split
  · split
    · exact k.cut _ .overdraw
    · exact k
  · exact k

theorem alike_clearSaturated (s : State) : Alike s s.clearSaturated := by
  unfold State.clearSaturated
  split
  · exact alike_of_view rfl
  · exact .refl s

theorem Kept.report (h : Kept p s) : Kept p s.report := by
  unfold State.report
  have listed : Kept p { s with sb.claim.seniors := s.liveSeniors } := h.view rfl
  generalize State.mk _ _ _ _ _ _ _ _ _ _ _ _ = t at listed ⊢
  dsimp only
  split
  next phase =>
    split
    · obtain ⟨decides, outcome⟩ := listed.decides (.inl phase)
      exact listed.resolve decides outcome
    · exact listed
  next =>
    split
    · exact listed.victimLeaves
    · exact listed
  next =>
    split
    · exact listed.victimLeaves
    · exact listed
  all_goals exact listed

theorem Kept.bookSteps (h : Kept p s) : Kept p s.bookSteps := by
  have clean : Kept p { s with sb.dirty := false } := h.view rfl
  exact ((clean.overdraw.alike (alike_clearSaturated _)).report).alike (alike_noteOccasion _)

theorem Kept.settleBook (h : Kept p s) (k : Nat) : Kept p (s.settleBook k) := by
  induction k generalizing s with
  | zero => exact h
  | succ k ih =>
    unfold State.settleBook
    split
    · exact ih h.bookSteps
    · exact h

theorem Kept.settle (h : Kept p s) : Kept p s.settle := by
  unfold State.settle
  have settled : Kept p { s.settleBook settleLaps with sb.dirty := false, bc.occasion := false } :=
    Kept.view (h.settleBook settleLaps) rfl
  dsimp only
  split
  · exact settled.weighOccasion
  · exact settled

theorem alike_offerAlert (e : Cause) (s : State) : Alike s (s.offerAlert e) := by
  unfold State.offerAlert
  dsimp only
  split
  · exact (alike_disarm e s).trans (alike_offer rfl rfl _)
  · exact .refl s

/-- The work that closes an event keeps the clauses. -/
theorem Kept.finish (h : Kept p s) : Kept p s.finish :=
  h.settle.alike (alike_foldl (fun s e => alike_offerAlert e s) _ _)

end Sys2Proof.Machine

/-! PROOFS. The valves' bounds: the draw entry, BARRED, and the valve drive's events keep them (R57, R131 to R142, R184 to R187). -/

namespace Sys2Proof.Machine

variable {p : Prop} {b d : BedId} {s t u : State} {n : Notice}

/-! ### The draw entry (R57) -/

theorem Kept.placeDraw (h : Kept p s) (flow : Nat) : Kept p (s.placeDraw flow) := by
  unfold State.placeDraw
  split
  · exact h.alike (alike_changeEntry (fun _ => ⟨rfl, rfl⟩) fun _ k => absurd k (by decide))
  · have placed := h.alike (alike_insert (e := ⟨s.sl.own, drawBed, flow, .normal, true, 0, s.now⟩) fun _ _ => rfl)
    dsimp only
    split
    · exact placed.ownCommitted
    · exact placed

theorem alike_removeDraw (s : State) : Alike s s.removeDraw := by
  unfold State.removeDraw
  split
  · dsimp only
    split
    · exact alike_remove fun _ => by decide
    · exact (alike_offer rfl rfl s).trans (alike_remove fun _ => by decide)
  · exact .refl s

/-! ### Entry to BARRED (R187) -/

theorem Kept.barBed (h : Kept p s) (b : BedId) : Kept p (s.barBed b) := by
  unfold State.barBed
  split
  next k => exact h.endCycle (by rw [k]; rfl) .barred
  next k => exact h.endCycle (by rw [k]; rfl) .barred
  next k => exact h.endCycle (by rw [k]; rfl) .barred
  next k => exact h.toIdle (h.mayRest (by rw [k]; rfl) (by rw [k]; nofun))
  next k => exact h.toIdle (h.mayRest (by rw [k]; rfl) (by rw [k]; nofun))
  next k => exact h.withdraw.toIdle (h.withdraw_mayRest k)
  all_goals exact h

theorem purge_count (f : Notice → Bool) (s : State) :
    (s.purge.tq.queue.countP fun x => f x.notice) ≤ s.tq.queue.countP fun x => f x.notice := by
  unfold State.purge
  dsimp only
  split
  · calc _ = ((s.tq.queue.take 1).map fun q : Queued => { q with cancelled := true }).countP (fun x => f x.notice)
          + ((s.tq.queue.drop 1).filter fun q => !q.notice.isPurged).countP (fun x => f x.notice) := List.countP_append
      _ ≤ (s.tq.queue.take 1).countP (fun x => f x.notice) + (s.tq.queue.drop 1).countP (fun x => f x.notice) :=
          Nat.add_le_add (le_of_eq (List.countP_map ..)) List.filter_sublist.countP_le
      _ = _ := by rw [← List.countP_append, List.take_append_drop]
  · split
    · exact List.filter_sublist.countP_le
    · exact List.filter_sublist.countP_le

theorem alike_purge (s : State) : Alike s s.purge := by
  rw [PeerNotices.purge_rest]
  exact alike_tq _ (purge_count Notice.isClaim s) (purge_count Notice.isShed s)

theorem Kept.bar (h : Kept p s) : Kept False { s with sl.station := .barred } where
  bounds := ⟨h.bounds.four, h.bounds.two, h.bounds.owned, h.bounds.cycle, fun _ k => absurd rfl k, h.bounds.room⟩
  claim := ⟨h.claim.holds, h.claim.idle, h.claim.entry, h.claim.claims, h.claim.sheds, h.claim.sending, h.claim.asking, h.claim.held,
    fun _ k => absurd rfl k, nofun⟩
  drive := h.drive.frame rfl nofun rfl
  live := nofun

/-- In BARRED no bed is left in CLAIMING, so no claim may commit. -/
theorem Kept.barBeds (h : Kept p s) : Kept True s.barBeds := by
  have bare : Kept False s.barBeds := h.bar.forBeds fun b _ k => k.barBed b
  refine ⟨bare.bounds, ⟨bare.claim.holds, bare.claim.idle, bare.claim.entry, bare.claim.claims, bare.claim.sheds, bare.claim.sending,
    bare.claim.asking, bare.claim.held, bare.claim.offered, fun _ _ => Bool.eq_false_iff.2 fun l => ?_⟩, bare.drive, bare.live⟩
  have claiming := bare.claim.holds l
  rcases barBeds_state s.barBeds.sb.claim.bed s with k | k | k | k <;> rw [k] at claiming <;> cases claiming

theorem alike_undrawn (s : State) : Alike s { s with fm.drawing := false, fm.quiet := 0 } := alike_of_view rfl

theorem Kept.enterBarred (h : Kept p s) : Kept True s.enterBarred := by
  rw [enterBarred_eq]
  exact h.barBeds.alike (((alike_purge _).trans (alike_removeDraw _)).trans (alike_undrawn _))

theorem Kept.duplicate (h : Kept True s) (kind : Nat) : Kept True (s.duplicate kind) := by
  have clash : Kept True (s.raiseClash kind) := h.alike (alike_raise ..)
  unfold State.duplicate
  split
  · exact h
  · exact clash.view rfl
  · exact clash.enterBarred
  · exact clash.enterBarred
  · exact clash
  · exact h.alike (alike_setPending ..)

/-! ### The start-up closure (R142, R184) -/

theorem alike_tallyDue (s : State) : Alike s s.tallyDue := by
  unfold State.tallyDue
  split
  · exact .refl s
  · exact alike_offer rfl rfl s

/-- Before ACTIVE the station state moves on within CHECKING, LISTENING and ACTIVE. -/
theorem Kept.goOn (h : Kept p s) (before : s.sl.station ≠ .active ∧ s.sl.station ≠ .barred) {x : StationState}
    (after : x ≠ .barred ∧ x ≠ .loading) : Kept p { s with sl.station := x } where
  bounds := ⟨h.bounds.four, h.bounds.two, h.bounds.owned, h.bounds.cycle, fun _ _ => h.bounds.early before.1 before.2, h.bounds.room⟩
  claim := ⟨h.claim.holds, h.claim.idle, h.claim.entry, h.claim.claims, h.claim.sheds, h.claim.sending, h.claim.asking, h.claim.held,
    fun _ _ => h.claim.offered before.1 before.2, fun _ k => absurd k after.1⟩
  drive := h.drive.frame rfl (fun k => absurd k after.2) rfl
  live := after.2

theorem Kept.startUpDone (h : Kept True s) (checking : s.sl.station = .checking) : Kept True s.startUpDone := by
  have on := (h.goOn (x := .listening) (by rw [checking]; exact ⟨nofun, nofun⟩) ⟨nofun, nofun⟩)
  have listens : Kept True s.listens :=
    (on.view (t := { s with vd.check := .done, sl.station := .listening, sl.listenSince := s.now, tq.tallySince := some s.now }) rfl).alike
      (alike_tallyDue _)
  rcases Bool.eq_false_or_eq_true s.sl.clashNoted with noted | unnoted
  · rw [startUpDone_noted noted]
    exact listens.enterBarred
  · rw [startUpDone_unnoted unnoted]
    exact listens

theorem Kept.checkStartUp (h : Kept True s) : Kept True s.checkStartUp := by
  unfold State.checkStartUp
  split
  next k => exact h.startUpDone k.1
  next => exact h

theorem latching_kind (h : s.latching b = true) : (s.setupOf b).kind = .latch := by
  unfold State.latching at h
  simp only [Bool.and_eq_true, decide_eq_true_eq] at h
  exact h.1.2

theorem Kept.startUpClosure (h : Kept True s) (checking : s.sl.station = .checking) : Kept True s.startUpClosure := by
  have queued (b : BedId) (s : State) (k : Kept True s ∧ s.sl.station = .checking) :
      Kept True (if s.latching b then s.queueRequest b .closes else s)
        ∧ (if s.latching b then s.queueRequest b .closes else s).sl.station = .checking := by
    split
    next latching => exact ⟨k.1.queueRequest (latching_kind latching) nofun, by rw [(inside_queueRequest ..).sl]; exact k.2⟩
    next => exact k
  have all := foldl_holds (P := fun s => Kept True s ∧ s.sl.station = .checking) (fun s b => queued b s) allBeds
    (s := { s with vd.check := .closure }) ⟨h.view rfl, checking⟩
  unfold State.startUpClosure
  dsimp only
  split
  · exact all.1.checkStartUp
  · exact all.1.startUpDone all.2

theorem Kept.startCoils (h : Kept True s) (checking : s.sl.station = .checking) : Kept True s.startCoils := by
  unfold State.startCoils
  split
  · exact h.startUpClosure checking
  · exact h.view rfl

end Sys2Proof.Machine

/-! PROOFS. The valves' bounds: pulses, pull-ins and the coil supply keep them (R131 to R142). -/

namespace Sys2Proof.Machine

variable {p : Prop} {b d : BedId} {s t u : State} {r : Request} {rsv : Bool} {since : Nat}

/-! ### Pulses (R131, R133, R138) -/

/-- Where only valves move, the drive holds no more beds. -/
theorem Undriven.moved (free : Undriven b s) (vd : t.vd = { s.vd with valves := t.vd.valves }) : Undriven b t := by
  obtain ⟨request, pulse, closure, channel⟩ := free
  have same : t.channelOf b = s.channelOf b := by unfold State.channelOf; rw [vd]
  exact ⟨by rw [vd]; exact request, by rw [vd]; exact pulse, by rw [vd]; exact closure, same.trans channel⟩

/-- The generator rests, and nothing drives the valve of its pulse any more. -/
theorem Kept.rested (h : Kept p s) (pulse : s.vd.generator = .pulse r rsv since) (x : Nat) :
    Kept p { s with vd.generator := .recovery x } ∧ Undriven r.bed { s with vd.generator := .recovery x } := by
  have drive := h.drive
  have mine := pulsing_of pulse
  have rested : Kept p { s with vd.generator := .recovery x } := h.redrive (w := { s.vd with generator := .recovery x }) rfl
    ⟨drive.requests, fun b m => ⟨(drive.opens b m).1, rfl⟩, nofun,
      ⟨drive.closures.1, fun b m => ⟨(drive.closures.2 b m).1, rfl, (drive.closures.2 b m).2.2⟩⟩, drive.channels, drive.apart,
      fun l => absurd l h.live⟩
  refine ⟨rested, drive.pulsing_request mine, nofun, fun m => ?_, drive.latch_channel (drive.pulse r rsv since pulse).1⟩
  have := (drive.closures.2 _ m).2.1
  rw [mine] at this
  cases this

theorem bedOpened_vd (b : BedId) (s : State) : (s.bedOpened b).vd = s.vd := by rw [EdgesAndOffers.bedOpened_rest]

theorem Kept.endOpenPulse (h : Kept p s) (free : Undriven b s) (opening : s.valve b = .opening) : Kept p (s.endOpenPulse b) := by
  have opened := (h.setValve (v := .opened) free fun _ => by rw [opening]; rfl).bedOpened b
  have valve : ((s.setValve b .opened).bedOpened b).valve b = .opened := by
    unfold State.valve
    rw [bedOpened_vd]
    exact PerBed.get_set_same ..
  unfold State.endOpenPulse
  dsimp only
  split
  · exact opened.setValve (free.moved (by rw [bedOpened_vd]; rfl)) fun _ => by rw [valve]; rfl
  · exact opened

theorem Kept.endPulse (h : Kept p s) (pulse : s.vd.generator = .pulse r rsv since) : Kept p (s.endPulse r) := by
  obtain ⟨rested, free⟩ := h.rested pulse s.now
  unfold State.endPulse
  dsimp only
  split
  next opens => exact rested.endOpenPulse free ((h.drive.pulse r rsv since pulse).2 opens)
  next => exact rested.valveClosed free

theorem Kept.cutPulse (h : Kept p s) : Kept p s.cutPulse := by
  unfold State.cutPulse
  split
  next pulse =>
    obtain ⟨rested, free⟩ := h.rested pulse s.now
    exact rested.setValve free fun k => absurd k (by decide)
  all_goals exact h

/-! ### Pull-ins (R134, R135) -/

theorem bedConfirmed_withDrive (b : BedId) (w : ValveDrive) (s : State) :
    State.bedConfirmed b { s with vd := w } = { s.bedConfirmed b with vd := w } := by
  unfold State.bedConfirmed
  by_cases confirming : (s.bed b).state = .confirming
  · rw [if_pos confirming, if_pos (show (State.bed { s with vd := w } b).state = .confirming from confirming)]
    rfl
  · rw [if_neg confirming, if_neg (show ¬ (State.bed { s with vd := w } b).state = .confirming from confirming)]

/-- OPEN is reported whatever the drive holds. -/
theorem bedOpened_withDrive (b : BedId) (w : ValveDrive) (s : State) :
    State.bedOpened b { s with vd := w } = { s.bedOpened b with vd := w } := by
  obtain ⟨m, timed⟩ : ∃ m, m = { s.moveBed b .confirming with fm.confirms := (s.moveBed b .confirming).fm.confirms.set b (some s.now) } := ⟨_, rfl⟩
  have before : s.bedOpened b = if (s.bed b).state = .opening then
      if (s.setupOf b).confirm = .immediate then m.bedConfirmed b else m else s := by rw [timed]; rfl
  have after : State.bedOpened b { s with vd := w } = if (s.bed b).state = .opening then
      if (s.setupOf b).confirm = .immediate then State.bedConfirmed b { m with vd := w } else { m with vd := w }
      else { s with vd := w } := by rw [timed]; rfl
  rw [before, after]
  split
  · split
    · exact bedConfirmed_withDrive b w m
    · rfl
  · rfl

theorem Kept.endPullIn (h : Kept p s) {c : Channel} (mine : s.channelOf b = some c) (release : Bool) (pulls : c.valveState = .opening) :
    Kept p (s.endPullIn b release) := by
  obtain ⟨held, valve⟩ := h.drive.channels b c mine
  have freed := h.freeChannel b
  have free := freed.drive.undriven_held held (channelOf_freeChannel b s)
  have opened : Kept p ((s.freeChannel b).setValve b .opened) := freed.setValve free fun _ => by
    rw [show (s.freeChannel b).valve b = s.valve b from rfl, valve, pulls]
    rfl
  have other {e : BedId} (ne : e ≠ b) : (s.setValve b .opened).valve e = s.valve e := by rw [valve_setValve, if_neg ne]
  unfold State.endPullIn
  extract_lets t
  have vd : t.vd = (s.setValve b .opened).vd := bedOpened_vd ..
  split
  · have same : t.freeChannel b = ((s.freeChannel b).setValve b .opened).bedOpened b := by
      unfold State.freeChannel
      rw [vd]
      exact (bedOpened_withDrive b _ (s.setValve b .opened)).symm
    rw [same]
    exact (opened.bedOpened b).valveClosed (free.moved (by rw [bedOpened_vd]; rfl))
  · set f : Channel → Channel := fun c => { c with
      phase := .hold, active := none, pending := some (dutyAt (t.setupOf b).duty t.vd.coilVolts) }
    have same : t.modChannel b f = ((s.modChannel b f).setValve b .opened).bedOpened b := by
      unfold State.modChannel State.mapChannels
      rw [vd]
      exact (bedOpened_withDrive b _ (s.setValve b .opened)).symm
    rw [same]
    have keeps (c : Channel) : (if c.bed = b then f c else c).bed = c.bed := by split <;> rfl
    refine Kept.bedOpened (opened.rechannel (s.modChannel b f).vd.channelA (s.modChannel b f).vd.channelB (fun e taken => ?_)
      (h.drive.apart_mapChannels keeps)) b
    obtain ⟨x, was, rfl⟩ := taken_mapChannels taken
    obtain ⟨kind, stands⟩ := h.drive.held was
    rw [keeps]
    split
    next own =>
      refine ⟨kind, ?_⟩
      rw [own, show ((s.freeChannel b).setValve b .opened).valve b = .opened from (valve_setValve ..).trans (if_pos rfl)]
      rfl
    next ne => exact ⟨kind, (other ne).trans stands⟩

/-! ### The coil supply (R136 to R140) -/

theorem Kept.supplyComes (h : Kept p s) : Kept p s.supplyComes := by
  have good : Kept p { s with vd.supply := .good, vd.chargeSince := some s.now } := h.view rfl
  refine (good.mapChannels (fun c => ?_) fun c _ => ?_).kick
  · split <;> rfl
  · rcases em (c.phase = .waiting) with waits | other
    · rw [if_pos waits]
      unfold Channel.valveState
      rw [waits]
    · rw [if_neg other]

theorem Kept.supplyGoes (h : Kept p s) : Kept p s.supplyGoes := by
  have lost : Kept p { s with vd.supply := .lost, vd.ready := false, vd.chargeSince := none } := h.view rfl
  exact (lost.joinHold .supply).alike (alike_setPending ..)

theorem supplyGoes_station (s : State) : s.supplyGoes.sl = s.sl := (CoilSupply.inside_supplyGoes s).sl

/-- The undriven valves among those named are CLOSED. -/
theorem Kept.closeThose (h : Kept p s) {q : BedId → Bool} (free : ∀ b, q b = true → Undriven b s) : Kept p (s.closeThose q) := by
  have step (t : State) (b : BedId) (k : Kept p t ∧ ∀ d, q d = true → Undriven d t) :
      Kept p (if q b then t.valveClosed b else t) ∧ ∀ d, q d = true → Undriven d (if q b then t.valveClosed b else t) := by
    split
    next m => exact ⟨k.1.valveClosed (k.2 b m), fun d n => (k.2 d n).moved (by rw [valveClosed_vd])⟩
    next => exact k
  exact (foldl_holds (P := fun t => Kept p t ∧ ∀ d, q d = true → Undriven d t) step allBeds ⟨h, free⟩).1

theorem Kept.flushQueue (h : Kept p s) : Kept p s.flushQueue := by
  have drive := h.drive
  have emptied : Kept p { s with vd.queue := [] } := h.redrive (w := { s.vd with queue := [] }) rfl
    ⟨⟨List.nodup_nil, nofun⟩, nofun, drive.pulse, drive.closures, drive.channels, drive.apart, fun l => absurd l h.live⟩
  refine emptied.closeThose (q := CoilSupply.opensQueued s) fun b waits => ?_
  have m : ⟨b, .opens⟩ ∈ s.vd.queue := by simpa [CoilSupply.opensQueued] using waits
  obtain ⟨opening, still⟩ := drive.opens b m
  refine emptied.drive.undriven_latch (drive.requests.2 _ m) nofun (fun rsv x k => ?_) fun k => ?_
  · have := pulsing_of (s := s) k
    rw [still] at this
    cases this
  · have := (drive.closures.2 b k).2.2
    rw [opening] at this
    simp at this

theorem Kept.releaseChannels (h : Kept p s) : Kept p s.releaseChannels := by
  have emptied : Kept p { s with vd.channelA := none, vd.channelB := none } := h.rechannel none none (by simp) nofun
  refine emptied.closeThose (q := CoilSupply.channelled s) fun b taken => ?_
  obtain ⟨c, mine⟩ := Option.isSome_iff_exists.1 taken
  exact emptied.drive.undriven_held (h.drive.channels b c mine).1 rfl

theorem Kept.markClosing (h : Kept p s) (latch : (s.setupOf b).kind = .latch) : Kept p (s.markClosing b) := by
  unfold State.markClosing
  split
  next open' => exact h.setValve (h.drive.undriven_open latch open') fun _ => by rw [open']; rfl
  next => exact h

theorem leftOpen_iff (b : BedId) (s : State) : s.leftOpen b = true
    ↔ s.latching b = true ∧ (s.valve b = .opened ∨ s.valve b = .closing ∨ s.valve b = .unknown) := by
  unfold State.leftOpen
  simp only [Bool.and_eq_true, Bool.or_eq_true, decide_eq_true_eq, or_assoc]

theorem Kept.markList (h : Kept p s) : Kept p (CoilSupply.markList s) := by
  have all : ∀ b ∈ CoilSupply.leftList s, (s.setupOf b).kind = .latch := fun b m =>
    latching_kind ((leftOpen_iff b s).1 (List.mem_filter.1 (List.mem_of_mem_take m)).2).1
  unfold CoilSupply.markList
  generalize CoilSupply.leftList s = l at all
  induction l generalizing s with
  | nil => exact h
  | cons b l ih =>
    refine ih (h.markClosing (all b List.mem_cons_self)) fun d m => ?_
    rw [show (s.markClosing b).setupOf d = s.setupOf d from setupOf_congr (congrArg _ (inside_markClosing b s).sl) d]
    exact all d (List.mem_cons_of_mem b m)

/-- The closure list is filled while the generator drives nothing. -/
theorem Kept.reserveClosure (h : Kept p s) (still : ∀ b, s.pulsing b = false) (ready : Bool) : Kept p (s.reserveClosure ready) := by
  have marked := h.markList
  have drive := marked.drive
  have marks := CoilSupply.marks_markList s
  have relist (l : List BedId) (once : l.Nodup) (left : ∀ b ∈ l, b ∈ CoilSupply.leftList s) :
      Kept p { CoilSupply.markList s with vd.closures := l } := by
    refine marked.redrive (w := { (CoilSupply.markList s).vd with closures := l }) rfl
      ⟨drive.requests, drive.opens, drive.pulse, ⟨once, fun b m => ⟨?_, ?_, ?_⟩⟩, drive.channels, drive.apart, fun k => absurd k marked.live⟩
    all_goals obtain ⟨latching, stands⟩ := (leftOpen_iff b s).1 (List.mem_filter.1 (List.mem_of_mem_take (left b m))).2
    · rw [marks]
      exact latching_kind latching
    · rw [marks]
      exact still b
    · show (CoilSupply.markList s).valve b = _ ∨ (CoilSupply.markList s).valve b = _
      unfold CoilSupply.markList
      rw [CoilSupply.marked_valve]
      rcases stands with k | k | k
      · rw [if_pos ⟨left b m, k⟩]
        exact .inl rfl
      · rw [if_neg (by rw [k]; nofun), k]
        exact .inl rfl
      · rw [if_neg (by rw [k]; nofun), k]
        exact .inr rfl
  rw [CoilSupply.reserveClosure_eq]
  split
  · exact (relist _ (CoilSupply.leftList_nodup s) fun _ => id).kick
  · exact relist [] List.nodup_nil nofun

theorem Kept.recloseBed (h : Kept p s) (b : BedId) : Kept p (s.recloseBed b) := by
  unfold State.recloseBed
  split
  next left =>
    simp only [Bool.and_eq_true] at left
    have latch := latching_kind ((leftOpen_iff b s).1 left.1.1).1
    refine (h.markClosing latch).queueRequest ?_ nofun
    rw [show (s.markClosing b).setupOf b = s.setupOf b from setupOf_congr (congrArg _ (inside_markClosing b s).sl) b]
    exact latch
  next => exact h

/-! ### The coil check (R141) -/

theorem Kept.stopDriving (h : Kept p s) (b : BedId) : Kept p (s.stopDriving b) := by
  have drive := h.drive
  have unlisted : Kept p { s with
      vd.queue := s.vd.queue.filter fun r => decide (r.bed ≠ b), vd.closures := s.vd.closures.filter fun d => decide (d ≠ b) } :=
    h.redrive (w := { s.vd with
        queue := s.vd.queue.filter fun r => decide (r.bed ≠ b), closures := s.vd.closures.filter fun d => decide (d ≠ b) }) rfl
      ⟨⟨(List.filter_sublist.map _).nodup drive.requests.1, fun r m => drive.requests.2 r (List.mem_filter.1 m).1⟩,
        fun d m => drive.opens d (List.mem_filter.1 m).1, drive.pulse,
        ⟨drive.closures.1.filter _, fun d m => drive.closures.2 d (List.mem_filter.1 m).1⟩, drive.channels, drive.apart,
        fun l => absurd l h.live⟩
  unfold State.stopDriving
  dsimp only
  split
  · exact unlisted.cutPulse
  · exact unlisted

theorem coilResult_station (b : BedId) (ohms : Nat) (s : State) : (s.coilResult b ohms).sl = s.sl := by
  unfold State.coilResult
  split
  · rfl
  · rw [State.raise, State.takeFault_rest, State.setPending_rest]
    exact (inside_stopDriving b s).sl

theorem Kept.coilResult (h : Kept p s) (checking : s.sl.station = .checking) (b : BedId) (ohms : Nat) : Kept p (s.coilResult b ohms) := by
  have stopped := h.stopDriving b
  have station : (s.stopDriving b).sl.station = .checking := (congrArg _ (inside_stopDriving b s).sl).trans checking
  have idle : (s.stopDriving b).sb.claim.phase = .none := stopped.claim.offered (by rw [station]; nofun) (by rw [station]; nofun)
  have shut := (activeValves_nil _).1 (stopped.bounds.early (by rw [station]; nofun) (by rw [station]; nofun)) b
  unfold State.coilResult
  split
  · exact h.view rfl
  · exact (stopped.setOff ⟨shut, fun l => by unfold Claim.live at l; rw [idle] at l; cases l⟩).alike (alike_raise ..)

theorem Kept.testCoil (h : Kept True s) (checking : s.sl.station = .checking) (ohms : Nat) : Kept True (s.testCoil ohms) := by
  unfold State.testCoil
  split
  next b rest since _ =>
    have later := h.alike (alike_advanceTo (since + Config.coilTestTime) s)
    have tested := later.coilResult checking b ohms
    dsimp only
    split
    · exact tested.startUpClosure (by rw [coilResult_station]; exact checking)
    · exact tested.view rfl
  all_goals exact h

end Sys2Proof.Machine

/-! PROOFS. The valves' bounds: rate windows, readings, boundaries and orders keep them (R92, R93, R103 to R108, R147 to R164, R176). -/

namespace Sys2Proof.Machine

variable {p : Prop} {b d : BedId} {s t u : State} {w : Window}

/-! ### Rate windows (R147 to R156) -/

theorem Kept.creditWindow (h : Kept p s) (w : Window) : Kept p (s.creditWindow w) := by
  unfold State.creditWindow
  split
  · unfold State.creditMetered
    dsimp only
    split
    · exact h.view (by rfl)
    · exact Kept.foldl (fun _ x k => k.credit x.1 x.2) _ (h.view (by rfl))
  · refine Kept.foldl (fun s b k => ?_) _ h
    unfold State.creditNominal
    exact Kept.credit (k.view (by rfl)) b _

theorem Kept.confirmFlows (h : Kept p s) (w : Window) : Kept p (s.confirmFlows w) := by
  unfold State.confirmFlows
  split
  · refine h.forBeds fun b s k => ?_
    split
    · exact k.bedConfirmed b
    · exact k
  · exact h

theorem Kept.fireBranch (h : Kept p s) (w : Window) (f : BedFault) (e : EndCause) : Kept p (s.fireBranch w f e) :=
  (Kept.foldl (fun _ b k => k.faultBed b e) w.running h).alike (alike_raise ..)

theorem Kept.leakCheck (h : Kept p s) (w : Window) : Kept p (s.leakCheck w) := by
  unfold State.leakCheck
  dsimp only
  split
  · exact Kept.fireBranch (h.view (by rfl)) w .leak .leak
  · exact h.view (by rfl)

theorem Kept.noflowCheck (h : Kept p s) (w : Window) : Kept p (s.noflowCheck w) := by
  unfold State.noflowCheck
  dsimp only
  split
  · exact Kept.fireBranch (h.view (by rfl)) w .noflow .noflow
  · exact h.view (by rfl)

theorem Kept.stuckCheck (h : Kept p s) (w : Window) : Kept p (s.stuckCheck w) := by
  unfold State.stuckCheck
  dsimp only
  split
  · exact Kept.placeDraw ((h.alike (alike_setPending ..)).view (by rfl)) _
  · exact h.view (by rfl)

theorem Kept.drawStep (h : Kept p s) (w : Window) : Kept p (s.drawStep w) := by
  unfold State.drawStep
  split
  · exact h
  · split
    · exact Kept.placeDraw (h.view (by rfl)) _
    · split
      · exact Kept.alike (h.view (by rfl)) (alike_removeDraw _)
      · exact h.view (by rfl)

theorem Kept.checkBranch (h : Kept p s) (w : Window) : Kept p (s.checkBranch w) := by
  have checked := ((h.leakCheck w).noflowCheck w).stuckCheck w
  unfold State.checkBranch
  dsimp only
  split
  · split
    · exact checked.drawStep w
    · exact checked
  · exact h

theorem Kept.endWindow (h : Kept p s) : Kept p s.endWindow :=
  ((Kept.creditWindow (h.view (by rfl)) _).confirmFlows _).checkBranch _

theorem Kept.giveUpConfirm (h : Kept p s) (b : BedId) : Kept p (s.giveUpConfirm b) := (h.faultBed b .noflow).alike (alike_raise ..)

/-! ### Wetness and probes (R89, R117, R126, R162, R163) -/

theorem Kept.weighWetness (h : Kept p s) (b : BedId) : Kept p (s.weighWetness b) := by
  have ends (busy : (s.bed b).state.busy = true) : Kept p (if s.wetEnough b then s.endCycle b .wet else s) := by
    split
    · exact h.endCycle busy .wet
    · exact h
  unfold State.weighWetness
  split
  next k => exact ends (by rw [k]; rfl)
  next k => exact ends (by rw [k]; rfl)
  next k =>
    split
    · exact h.toIdle (h.mayRest (by rw [k]; rfl) (by rw [k]; nofun))
    · exact h
  next => exact h.evaluate b true
  next => exact h.evaluate b true
  next => exact h.evaluate b true
  all_goals exact h

theorem Kept.handWetness (h : Kept p s) (b : BedId) (n : Nat) : Kept p (s.handWetness b n) := by
  unfold State.handWetness
  split
  · exact h
  · exact Kept.weighWetness (h.modBed (by rfl)) b

theorem Kept.probeLost (h : Kept p s) (b : BedId) : Kept p (s.probeLost b) := by
  unfold State.probeLost
  extract_lets t
  have lost : Kept p t := h.modBed rfl
  split
  · split
    next k => exact lost.toFaulted (lost.mayRest (by rw [k]; rfl) (by rw [k]; nofun)) .probe
    next k => exact lost.toFaulted (lost.mayRest (by rw [k]; rfl) (by rw [k]; nofun)) .probe
    next k => exact lost.withdraw.toFaulted (lost.withdraw_mayRest k) .probe
    all_goals exact lost
  · exact lost.evaluate b false

theorem alike_putProbe (b : BedId) (x : Probe) (s : State) : Alike s (s.putProbe b x) := alike_of_view rfl

theorem Kept.goodRead (h : Kept p s) (b : BedId) (n : Nat) : Kept p (s.goodRead b n) := by
  unfold State.goodRead
  dsimp only
  split
  · split
    · exact Kept.handWetness ((h.alike (alike_putProbe ..)).modBed (by rfl)) b _
    · exact h.alike (alike_putProbe ..)
  · exact (h.alike (alike_putProbe ..)).handWetness b _

theorem Kept.badRead (h : Kept p s) (b : BedId) (one two : Nat) : Kept p (s.badRead b one two) := by
  unfold State.badRead
  dsimp only
  split
  · exact (h.alike ((alike_putProbe ..).trans (alike_raise ..))).probeLost b
  · exact h.alike (alike_putProbe ..)

theorem Kept.readProbe (h : Kept p s) (b : BedId) (r : ProbeResult) : Kept p (s.readProbe b r) := by
  unfold State.readProbe
  dsimp only
  split
  · exact h.goodRead b _
  · exact h
  · exact h
  · exact h.badRead b _ _

/-! ### The clock, the weather record and the temperature (R164 to R170) -/

theorem alike_setClock (m : Nat) (s : State) : Alike s (s.setClock m) := by
  unfold State.setClock
  dsimp only
  split <;> exact alike_of_view rfl

theorem alike_evaluateCause (e : Cause) (s : State) : Alike s (s.evaluateCause e) := by
  unfold State.evaluateCause
  split
  · exact alike_setPending ..
  · exact .refl s

theorem Kept.adopt (h : Kept p s) (k : Sky) (source : Nat) : Kept p (s.adopt k source) := by
  have weighed : Kept p (State.weighWeather { s with pw.weather := some ⟨k, source, s.now⟩ }) := Kept.weighWeather (h.view (by rfl))
  unfold State.adopt
  dsimp only
  unfold State.followMinute
  split
  · exact Kept.view (weighed.alike (alike_setClock ..)) rfl
  · exact weighed.view (by rfl)

theorem Kept.skyDue (h : Kept p s) : Kept p s.skyDue := by
  unfold State.skyDue
  split
  · exact h
  next t _ =>
    have offered := h.alike (alike_offer (n := .sky (s.skyNow t)) rfl rfl s)
    dsimp only
    split
    · exact Kept.adopt (offered.view (by rfl)) _ _
    · exact offered.adopt _ _

theorem Kept.goStale (h : Kept p s) : Kept p s.goStale := (Kept.weighWeather (h.view (by rfl))).alike (alike_evaluateCause ..)

theorem Kept.takeTemperature (h : Kept p s) (x : Int) : Kept p (s.takeTemperature x) := by
  unfold State.takeTemperature
  dsimp only
  split
  · exact Kept.skyDue (h.view (by rfl))
  · exact h.view (by rfl)

theorem Kept.readTemperature (h : Kept p s) (r : ProbeResult) : Kept p (s.readTemperature r) := by
  have bad (n : Nat) : Kept p (s.badTemperature n) := by
    unfold State.badTemperature
    dsimp only
    split
    · exact Kept.alike (h.view (by rfl)) (alike_raise ..)
    · exact h.view (by rfl)
  unfold State.readTemperature
  split
  · unfold State.goodTemperature
    dsimp only
    split
    · split
      · exact Kept.takeTemperature (h.view (by rfl)) _
      · exact h.view (by rfl)
    · exact Kept.takeTemperature (h.view (by rfl)) _
  · exact bad _
  · exact bad _

/-! ### Boundaries (R92, R93, R102) -/

theorem alike_rotateBuckets (index : Nat) (s : State) : Alike s (s.rotateBuckets index) := by
  unfold State.rotateBuckets
  split
  · exact alike_of_view rfl
  · exact .refl s

theorem Kept.applyHour (h : Kept p s) (index : Nat) : Kept p (s.applyHour index) := by
  have debts : Kept p s.updateDebts := by
    unfold State.updateDebts
    refine Kept.view (h.forBeds (f := fun b s => if (s.setupOf b).present && decide ((s.bed b).state ≠ .off) then
      s.modBed b fun x => { x with debt := debtAfter (s.setupOf b).area _ _ x.debt } else s) fun b s k => ?_) rfl
    split
    · exact k.modBed rfl
    · exact k
  have weighed : Kept p (State.forBeds (fun b s => if s.probeRules b then s else s.evaluate b false) s.updateDebts) := by
    refine debts.forBeds fun b s k => ?_
    split
    · exact k
    · exact k.evaluate b false
  exact weighed.alike (alike_rotateBuckets index _)

theorem Kept.applyDay (h : Kept p s) : Kept p s.applyDay := by
  unfold State.applyDay
  refine Kept.forBeds (fun b s k => ?_) (h.forBeds fun b s k => ?_)
  · split
    · exact k.evaluate b false
    · exact k
  · split
    · exact k.modBed rfl
    · exact k

theorem Kept.takeDue (h : Kept p s) : Kept p s.takeDue := by
  unfold State.takeDue
  refine Kept.foldl (fun s x k => ?_) s.bc.due (s := { s with bc.due := [] }) (h.view (by rfl))
  unfold State.applyBoundary
  split
  · exact k.applyDay
  · exact k.applyHour _

theorem Kept.dayBoundary (h : Kept p s) : Kept p s.dayBoundary := by
  unfold State.dayBoundary
  split
  · exact Kept.applyDay (h.view (by rfl))
  · exact h
  · split
    · exact h
    · exact Kept.applyDay (h.view (by rfl))

theorem Kept.hourBoundary (h : Kept p s) : Kept p s.hourBoundary := by
  unfold State.hourBoundary
  split
  · exact Kept.applyHour (Kept.applyDay (h.view (by rfl))) _
  · exact Kept.applyHour (h.view (by rfl)) _
  · exact h
  · split
    · exact h
    · unfold State.countedHour
      dsimp only
      split
      · exact Kept.applyHour (Kept.applyDay (h.view (by rfl))) _
      · exact Kept.applyHour (h.view (by rfl)) _

/-! ### Orders (R103 to R108, R176, R179, R180) -/

theorem Kept.skipBed (h : Kept p s) (b : BedId) : Kept p (s.skipBed b) := by
  unfold State.skipBed
  extract_lets t
  have marked : Kept p t := h.modBed rfl
  have ends (busy : (t.bed b).state.busy = true) : Kept p ((t.modBed b fun x => { x with ordered := false }).endCycle b .skip) :=
    Kept.endCycle (marked.modBed rfl) (by rw [State.bed_modBed_same]; exact busy) .skip
  split
  next => exact marked
  next => exact marked
  next => exact marked.modBed rfl
  next k => exact marked.toIdle (marked.mayRest (by rw [k]; rfl) (by rw [k]; nofun))
  next k => exact marked.toIdle (marked.mayRest (by rw [k]; rfl) (by rw [k]; nofun))
  next k => exact marked.withdraw.toIdle (marked.withdraw_mayRest k)
  next k => exact ends (by rw [k]; rfl)
  next k => exact ends (by rw [k]; rfl)
  next k => exact ends (by rw [k]; rfl)
  next => exact marked.modBed rfl

theorem Kept.targetBed (h : Kept p s) (start stop : Nat) (b : BedId) : Kept p (s.targetBed start stop b) := by
  unfold State.targetBed
  extract_lets t
  have marked : Kept p t := h.modBed rfl
  split
  · exact marked.bringTargets b
  · exact marked.bringTargets b
  · exact marked.bringTargets b
  · exact marked.bringTargets b
  all_goals exact marked

theorem Kept.waterBed (h : Kept p s) (n : Nat) (b : BedId) : Kept p (s.waterBed n b) := by
  unfold State.waterBed
  split
  · exact h.modBed rfl
  · exact h.applyWater b n

theorem Kept.clearCause (h : Kept p s) (e : Cause) : Kept p (s.clearCause e) := by
  have returned : Kept p ((s.rearm e).returnBeds e) := by
    refine Kept.forBeds (fun b s k => ?_) (h.alike (alike_rearm e s))
    split
    next faulted =>
      have back := (k.toIdle (k.mayRest (b := b) (by rw [faulted.1]; rfl) (by rw [faulted.1]; nofun))).evaluate b false
      unfold State.returnBed
      dsimp only
      split
      · unfold State.raiseFree
        exact Kept.alike (back.view (by rfl)) (alike_raise ..)
      · exact back
    next => exact k
  exact returned.alike (alike_evaluateCause ..)

theorem alike_emptyRecord (s : State) : Alike s s.emptyRecord := alike_of_view rfl

theorem Kept.clearOrder (h : Kept p s) (n : Nat) : Kept p (s.clearOrder n) := by
  unfold State.clearOrder
  split
  · exact h.clearCause _
  · exact (Kept.foldl (fun _ e k => k.clearCause e) Cause.all h).alike (alike_emptyRecord _)

theorem alike_refuse (n : Nat) (k : OrderKind) (r : RefusalReason) (s : State) : Alike s (s.refuse n k r) :=
  (alike_noteRefusal k r s).trans (alike_answer ..)

theorem Kept.groupOrder {act : List BedId → State → State} (h : Kept p s) (acts : ∀ l, Kept p (act l s)) (sel : Nat) (k : OrderKind) (args : Bool) :
    Kept p (s.groupOrder sel k args act) := by
  unfold State.groupOrder
  split
  · exact h
  · split
    · exact h.alike (alike_noteRefusal ..)
    · split
      · exact h.alike (alike_noteRefusal ..)
      · exact acts _

theorem Kept.bedOrder {act : BedId → State → State} (h : Kept p s) (acts : ∀ b s, Kept p s → Kept p (act b s)) (n sel : Nat) (k : OrderKind)
    (args : Bool) (takes : BedId → State → Bool) : Kept p (s.bedOrder n sel k args takes act) := by
  unfold State.bedOrder
  split
  · refine h.groupOrder (fun l => Kept.foldl (fun s b kept => ?_) l h) sel k args
    unfold State.groupBed
    split
    · exact kept.alike (alike_noteRefusal ..)
    · split
      · exact kept.alike (alike_noteRefusal ..)
      · exact acts b s kept
  · split
    · exact h.alike (alike_refuse ..)
    · split
      · exact h.alike (alike_refuse ..)
      · split
        · exact h.alike (alike_refuse ..)
        · split
          · exact h.alike (alike_refuse ..)
          · exact (acts _ s h).alike (alike_answer ..)

theorem Kept.stationOrder {act : State → State} (h : Kept p s) (acts : Kept p (act s)) (n sel : Nat) (k : OrderKind) (args : Bool) :
    Kept p (s.stationOrder n sel k args act) := by
  unfold State.stationOrder
  split
  · exact h.groupOrder (fun _ => acts) sel k args
  · split
    · exact h.alike (alike_refuse ..)
    · split
      · exact h.alike (alike_refuse ..)
      · exact acts.alike (alike_answer ..)

end Sys2Proof.Machine

/-! PROOFS. The valves' bounds: peers' notices, the line and the own transmissions keep them (R13 to R16, R31 to R33, R41 to R48, R67, R78). -/

namespace Sys2Proof.Machine

open LineTransmissions (insert_keeps)

variable {p : Prop} {b d : BedId} {s t u : State} {n : Notice} {src : Nat}

/-! ### The end of a frame (R7, R16) -/

theorem alike_frameOver (len : Nat) (s : State) : Alike s (s.frameOver len) := alike_of_view rfl

theorem alike_refresh (src : Nat) (s : State) : Alike s (s.refresh src) := by
  unfold State.refresh
  split <;> exact alike_of_view rfl

theorem alike_modRow (src : Nat) (f : Row → Row) (s : State) : Alike s (s.modRow src f) := alike_of_view rfl

theorem alike_recomputeBudget (s : State) : Alike s s.recomputeBudget := by
  unfold State.recomputeBudget
  dsimp only
  split
  · exact .refl s
  · exact alike_of_view rfl

theorem alike_receiveError (s : State) : Alike s s.receiveError := alike_of_view rfl

/-- A frame ends: what its notice does keeps the clauses where it comes from a peer. -/
theorem ValvesSound.receive {f : State → State} (h : ValvesSound s) (kind len : Nat)
    (keeps : ∀ t, Kept True t → src ≠ t.sl.own → Kept True (f t)) : ValvesSound (s.receive src kind len f) := by
  unfold State.receive
  split
  next receiving =>
    have live : s.live = true := by
      unfold State.receiving at receiving
      simp only [Bool.and_eq_true] at receiving
      exact receiving.1.1
    have framed := (kept_of_sound h live).alike (alike_frameOver len s)
    dsimp only
    split
    · exact (framed.duplicate kind).finish.sound
    next peer =>
      have awake : Alike (s.frameOver len) { s.frameOver len with li.yielding := false } := alike_of_view rfl
      unfold State.heard
      dsimp only
      split
      · have like := awake.trans (alike_refresh src _)
        exact (keeps _ (framed.alike like) fun e => peer (e.trans like.own)).finish.sound
      · exact (keeps _ (framed.alike awake) peer).finish.sound
  next => exact h

theorem ValvesSound.hand {f : State → State} (h : ValvesSound s) (tgt kind len : Nat) (fits : Bool)
    (keeps : ∀ t, Kept True t → src ≠ t.sl.own → Kept True (f t)) : ValvesSound (s.hand src tgt kind len fits f) := by
  refine h.receive kind len fun t k peer => ?_
  split
  · split
    · exact keeps t k peer
    · exact k.alike (alike_receiveError t)
  · exact k

/-! ### A peer's notices (R42 to R48, R52, R78) -/

/-- An entry of a peer is placed or changed. -/
theorem alike_enterPeer {bd : Nat} {f : Entry → Entry} {e : Entry} (peer : src ≠ s.sl.own)
    (keeps : ∀ e, (f e).station = e.station ∧ (f e).bed = e.bed) (station : e.station = src) :
    Alike s (if s.hasEntry src bd then s.changeEntry src bd f else s.insert e) := by
  split
  · exact alike_changeEntry keeps fun o => absurd o peer
  · exact alike_insert fun o => absurd (station.symm.trans o) peer

theorem alike_takeClaim (peer : src ≠ s.sl.own) (bed flow : Nat) (u : Urgency) (age : Nat) : Alike s (s.takeClaim src bed flow u age) :=
  (alike_modRow src _ s).trans (alike_enterPeer peer (fun _ => ⟨rfl, rfl⟩) rfl)

theorem alike_takeCommit (peer : src ≠ s.sl.own) (bed : Nat) : Alike s (s.takeCommit src bed) := by
  unfold State.takeCommit
  split
  · exact alike_changeEntry (fun _ => ⟨rfl, rfl⟩) fun o => absurd o peer
  · split
    · exact alike_insert fun o => absurd o peer
    · exact alike_insert fun o => absurd o peer

theorem alike_takeFree (peer : src ≠ s.sl.own) (bed : Nat) : Alike s (s.takeFree src bed) :=
  (alike_remove fun o => absurd o peer).trans (alike_of_view rfl)

theorem alike_takeBudget (src : Nat) (x : TallyNotice) (s : State) : Alike s (s.takeBudget src x) := by
  have budget : Alike s (State.recomputeBudget (s.modRow src fun r => { r with budget := some x.budget, barred := x.barred })) :=
    (alike_modRow ..).trans (alike_recomputeBudget _)
  unfold State.takeBudget
  dsimp only
  split
  · refine budget.trans ?_
    unfold State.mismatch
    dsimp only
    split
    · exact (alike_setPending ..).trans (alike_takeFault ..)
    · exact alike_setPending ..
  · exact budget

theorem alike_dropUnlisted (peer : src ≠ s.sl.own) (l : List TallyEntry) : Alike s (s.dropUnlisted src l) := by
  unfold State.dropUnlisted
  dsimp only
  split
  · exact .refl s
  · refine alike_filterBook (fun e own _ => ?_) true
    rw [Bool.or_eq_true]
    exact .inl (by simpa [own] using peer.symm)

theorem alike_takeTally (peer : src ≠ s.sl.own) (x : TallyNotice) : Alike s (s.takeTally src x) := by
  have budget := alike_takeBudget src x s
  have dropped := budget.trans (alike_dropUnlisted (src := src) (by rw [budget.own]; exact peer) x.entries)
  refine foldl_holds (P := fun t => Alike s t) (fun t e like => like.trans ?_) x.entries dropped
  exact alike_enterPeer (by rw [like.own]; exact peer) (fun _ => ⟨rfl, rfl⟩) rfl

theorem Kept.takeShed (h : Kept p s) (tgt victim : Nat) (u : Urgency) : Kept p (s.takeShed tgt victim u) := by
  unfold State.takeShed
  split
  · exact (h.alike (alike_answer ..)).cut _ .shed
  · exact h.alike (alike_answer ..)

theorem alike_expire {station : Nat} (peer : station ≠ s.sl.own) : Alike s (s.expire station) := by
  have gone : Alike s { s with sb.presence := s.sb.presence.filter fun r => r.station != station } := alike_of_view rfl
  unfold State.expire
  dsimp only
  refine Alike.trans ?_ (alike_recomputeBudget _)
  split
  · exact gone
  · exact gone.trans (alike_filterBook (keep := fun e => e.station != station) (fun e own _ => by
      rw [show e.station = s.sl.own from own]
      simpa using peer.symm) true)

/-! ### The head leaves the queue (R14, R27, R33) -/

theorem alike_popHead (s : State) : Alike s s.popHead := by
  refine ⟨rfl, rfl, rfl, rfl, fun _ => rfl, fun _ => id, fun _ => id, rfl, ?_, ?_⟩
  · exact (List.drop_sublist ..).countP_le
  · exact (List.drop_sublist ..).countP_le

variable {q : Queued} {l : List Queued}

theorem ClaimKept.popped_claims (h : ClaimKept p s) (queue : s.tq.queue = q :: l) (claim : q.notice.isClaim = true) : s.popHead.claims = 0 := by
  have one := h.claims
  unfold State.claims at one ⊢
  unfold State.popHead
  rw [queue, List.countP_cons_of_pos (p := fun q : Queued => q.notice.isClaim) claim] at one
  rw [queue]
  exact Nat.le_zero.1 (Nat.le_of_succ_le_succ one)

theorem ClaimKept.popped_sheds (h : ClaimKept p s) (queue : s.tq.queue = q :: l) (shed : q.notice.isShed = true) : s.popHead.sheds = 0 := by
  have one := h.sheds
  unfold State.sheds at one ⊢
  unfold State.popHead
  rw [queue, List.countP_cons_of_pos (p := fun q : Queued => q.notice.isShed) shed] at one
  rw [queue]
  exact Nat.le_zero.1 (Nat.le_of_succ_le_succ one)

/-- A CLAIM at the head is of the claim in SENDING. -/
theorem ClaimKept.head_claim (h : ClaimKept p s) (queue : s.tq.queue = q :: l) (claim : q.notice.isClaim = true) : s.sb.claim.phase = .sending :=
  h.sending (by unfold State.holdsNotice; rw [queue, List.any_cons, claim]; rfl)

theorem ClaimKept.head_shed (h : ClaimKept p s) (queue : s.tq.queue = q :: l) (shed : q.notice.isShed = true) : s.sb.claim.phase = .asking :=
  h.asking (by unfold State.holdsNotice; rw [queue, List.any_cons, shed]; rfl)

/-- After a CLAIM left the queue neither a CLAIM nor a SHED waits. -/
theorem Kept.popped_unsaid (h : Kept p s) (queue : s.tq.queue = q :: l) (claim : q.notice.isClaim = true) : s.popHead.unsaid :=
  ⟨h.claim.popped_claims queue claim, (h.alike (alike_popHead s)).claim.noSheds
    (by rw [show s.popHead.sb.claim.phase = s.sb.claim.phase from rfl, h.claim.head_claim queue claim]; nofun)⟩

theorem Kept.leftCancelled (h : Kept p s) (queue : s.tq.queue = q :: l) : Kept p (s.popHead.leftCancelled q.notice) := by
  have popped := h.alike (alike_popHead s)
  unfold State.leftCancelled
  split
  next claim => exact popped.clearClaim (h.popped_unsaid queue claim)
  next =>
    split
    next shed => exact popped.applyHeld (h.claim.head_shed queue shed) (h.claim.popped_sheds queue shed)
    next => exact popped

theorem Kept.collide (h : Kept p s) : Kept p s.collide := by
  have raised : Kept p (State.raiseRun (State.countCollision { s with li.attempt := none, li.idleSince := s.now })) := by
    unfold State.raiseRun
    dsimp only
    split
    · exact Kept.alike (h.view (by rfl)) (alike_raise ..)
    · exact h.view (by rfl)
  unfold State.collide State.dropCancelled
  generalize State.raiseRun _ = t at raised ⊢
  split
  next queue =>
    split
    · exact raised.leftCancelled queue
    · exact raised
  next => exact raised

/-! ### Completions (R15, R31 to R33, R67, R72) -/

theorem Kept.claimOnLine (h : Kept p s) (phase : s.sb.claim.phase = .sending) (quiet : s.unsaid) : Kept p s.claimOnLine := by
  have way : s.sb.claim.underWay = true := (Claim.underWay_iff _).2 (by rw [phase]; exact ⟨nofun, nofun⟩)
  unfold State.claimOnLine
  extract_lets c placed
  have insert : Kept p placed := h.insertOwn (b := c.bed) rfl (h.inactive (h.claim.idle way))
  obtain ⟨tq, sl, claim⟩ : placed.tq = s.tq ∧ placed.sl = s.sl ∧ placed.sb.claim = s.sb.claim := insert_keeps ..
  have still : placed.unsaid := by
    unfold State.unsaid State.claims State.sheds
    rw [tq]
    exact quiet
  split
  · exact insert.endClaim still (by rw [claim]; exact way)
  next kept =>
    split
    · exact insert.dropClaim still (by rw [claim]; exact way)
    next entered =>
      have live : s.sb.claim.live = true := by
        unfold Claim.live
        rw [phase]
        simpa using kept
      refine insert.setPhase (by rw [claim]; exact live) still ?_ rfl ?_
      · rw [claim]
        simpa using entered
      · show placed.sb.claim.outcome = none
        rw [claim]
        exact Option.not_isSome_iff_eq_none.1 fun k => by rw [h.claim.held k] at phase; cases phase

theorem Kept.claimOver (h : Kept p s) : Kept p s.claimOver := by
  unfold State.claimOver
  split
  next phase => exact h.clearClaim ⟨h.claim.noClaims (by rw [phase]; nofun), h.claim.noSheds (by rw [phase]; nofun)⟩
  next => exact h

theorem Kept.shedAnswered (h : Kept p s) (phase : s.sb.claim.phase = .asking) (gone : s.sheds = 0) (r : Reply) : Kept p (s.shedAnswered r) := by
  unfold State.shedAnswered
  split
  · exact h.applyHeld phase gone
  next held =>
    have outcome : s.sb.claim.outcome = none := by simpa using held
    have decides := h.asks phase gone (by rw [outcome]; nofun)
    split
    · exact h.rephase decides rfl outcome
    · exact h.dropClaim decides.quiet decides.way

theorem Kept.shedGivenUp (h : Kept p s) (phase : s.sb.claim.phase = .asking) (gone : s.sheds = 0) (station victim : Nat) (claimant : BedId) :
    Kept p (s.shedGivenUp station victim claimant) := by
  have raised := h.alike (alike_raise .noanswer victim station station 6 4 claimant.val s)
  have asking : (s.raise .noanswer victim station station 6 4 claimant.val).sb.claim.phase = .asking :=
    (phase_of_core (alike_raise ..).claim).trans phase
  have quiet : (s.raise .noanswer victim station station 6 4 claimant.val).sheds = 0 := Nat.le_zero.1 (gone ▸ (alike_raise ..).sheds)
  unfold State.shedGivenUp
  dsimp only
  split
  · exact raised.applyHeld asking quiet
  · exact raised.dropClaim ⟨raised.claim.noClaims (by rw [asking]; nofun), quiet⟩
      ((Claim.underWay_iff _).2 (by rw [asking]; exact ⟨nofun, nofun⟩))

theorem alike_modHead {f : Queued → Queued} (same : ∀ q, (f q).notice = q.notice) (s : State) : Alike s (s.modHead f) := by
  unfold State.modHead
  split
  next queue => exact alike_queue _ (by simp [State.claims, queue, List.countP_cons, same]) (by simp [State.sheds, queue, List.countP_cons, same])
  next => exact .refl s

theorem Kept.shedOnLine (h : Kept p s) (queue : s.tq.queue = q :: l) (shed : q.notice.isShed = true) (station victim : Nat)
    (claimant : BedId) (slot : Option SlotByte) : Kept p (s.shedOnLine q station victim claimant slot) := by
  have popped := h.alike (alike_popHead s)
  have phase : s.popHead.sb.claim.phase = .asking := h.claim.head_shed queue shed
  have gone := h.claim.popped_sheds queue shed
  unfold State.shedOnLine
  split
  · exact popped.shedAnswered phase gone _
  · split
    · exact popped.shedGivenUp phase gone ..
    · split
      · exact popped.applyHeld phase gone
      · exact h.alike (alike_modHead (f := fun x => { x with unanswered := x.unanswered + 1 }) (fun _ => rfl) s)

theorem alike_completed (s : State) : Alike s s.completed := by
  have sent : Alike s { s with li.attempt := none, li.yielding := true, tq.headRun := 0, li.lossSince := s.now } := alike_of_view rfl
  exact sent.trans (alike_leaveHold ..)

theorem alike_enterOwnSlot (s : State) : Alike s s.enterOwnSlot := by
  unfold State.enterOwnSlot
  split
  · split
    · exact alike_of_view rfl
    · exact .refl s
  · exact .refl s

theorem completed_queue (s : State) : s.completed.tq.queue = s.tq.queue := by
  unfold State.completed State.leaveHold
  split <;> rfl

theorem enterOwnSlot_queue (s : State) : s.enterOwnSlot.tq.queue = s.tq.queue := by
  unfold State.enterOwnSlot
  split
  · split <;> rfl
  · rfl

/-- The head's notice is on the line. -/
theorem Kept.onLine (h : Kept p s) (queue : s.tq.queue = q :: l) : Kept p (s.popHead.onLine q.notice) := by
  have popped := h.alike (alike_popHead s)
  unfold State.onLine
  split
  next claim =>
    have head : q.notice.isClaim = true := by rw [claim]; rfl
    exact popped.claimOnLine (h.claim.head_claim queue head) (h.popped_unsaid queue head)
  next => exact popped.claimOver
  next => exact popped.claimOver
  all_goals exact popped

theorem Kept.complete (h : Kept p s) (a : Attempt) (slot : Option SlotByte) : Kept p (s.complete a slot) := by
  unfold State.complete
  split
  · exact h
  next x rest queue =>
    split
    next shed =>
      have ended : Alike s (State.completed (s.enterOwnSlot.advanceTo (attemptEnd a + Config.slotTime))) :=
        ((alike_enterOwnSlot s).trans (alike_advanceTo ..)).trans (alike_completed _)
      refine (h.alike ended).shedOnLine (l := rest) ?_ (by rw [shed]; rfl) ..
      rw [completed_queue]
      exact (enterOwnSlot_queue s).trans queue
    next =>
      have ended : Kept p (State.completed { s.advanceTo (attemptEnd a) with li.rx := .slot, li.slotSince := (s.advanceTo (attemptEnd a)).now }) :=
        Kept.alike (h.view (by rfl)) (alike_completed _)
      exact ended.onLine (l := rest) ((completed_queue _).trans queue)

end Sys2Proof.Machine

/-! PROOFS. Every step keeps the valves' bounds (R56, R114, R130). -/

namespace Sys2Proof.ValveBoundsKept

open Sys2Proof.Machine

variable {p : Prop} {b d : BedId} {s t u : State}

/-! ### A station that drives nothing -/

/-- With no valve active, the drive at rest, no claim and neither a CLAIM nor a SHED waiting all the clauses hold. -/
theorem sound_still (shut : ∀ b, (s.valve b).active = false) (rest : s.driveAtRest) (phase : s.sb.claim.phase = .none)
    (outcome : s.sb.claim.outcome = none) (quiet : s.unsaid) : ValvesSound s := by
  have none := (activeValves_nil s).2 shut
  have held : s.activeHeld = [] := by unfold State.activeHeld; rw [none]; rfl
  have dead : s.sb.claim.live = false := by unfold Claim.live; rw [phase]
  have idle : s.sb.claim.underWay = false := by unfold Claim.underWay; rw [phase]; rfl
  obtain ⟨queue, generator, closures, a, c⟩ := rest
  have free (b : BedId) : s.channelOf b = Option.none := by unfold State.channelOf; rw [a, c]
  have inactive (b : BedId) (k : (s.valve b).active = true) : False := by rw [shut b] at k; cases k
  have undead (k : s.sb.claim.live = true) : False := by rw [dead] at k; cases k
  have over' (k : s.sb.claim.underWay = true) : False := by rw [idle] at k; cases k
  refine ⟨⟨?_, ?_, fun b k => (inactive b k).elim, fun b k => (inactive b k).elim, fun _ _ => none, fun k => (undead k).elim⟩,
    ⟨fun k => (undead k).elim, fun k => (over' k).elim, fun k => (over' k).elim, le_of_eq_of_le quiet.1 (Nat.zero_le 1),
      le_of_eq_of_le quiet.2 (Nat.zero_le 1), fun k => ?_, fun k => ?_, fun k => ?_, fun _ _ => phase, fun _ => dead⟩,
    ⟨?_, fun b m => ?_, fun r rsv x k => ?_, ?_, fun b e k => ?_, fun e _ k => ?_, fun _ => ⟨queue, generator, closures, a, c⟩⟩⟩
  · rw [none]
    exact Nat.zero_le 4
  · rw [held]
    exact Nat.zero_le 2
  · exact absurd quiet.1 (Nat.pos_iff_ne_zero.1 ((claims_pos s).1 k))
  · exact absurd quiet.2 (Nat.pos_iff_ne_zero.1 ((sheds_pos s).1 k))
  · rw [outcome] at k
    cases k
  · rw [queue]
    exact ⟨List.nodup_nil, nofun⟩
  · rw [queue] at m
    cases m
  · rw [generator] at k
    cases k
  · rw [closures]
    exact ⟨List.nodup_nil, nofun⟩
  · rw [free b] at k
    cases k
  · rw [a] at k
    cases k

theorem unknown_inactive (b : BedId) : ((PerBed.const ValveState.unknown).get b).active = false := by rw [PerBed.get_const]; rfl

theorem sound_reset : ValvesSound State.reset :=
  sound_still unknown_inactive ⟨rfl, rfl, rfl, rfl, rfl⟩ rfl rfl ⟨rfl, rfl⟩

theorem sound_coldStart (s : State) : ValvesSound s.coldStart :=
  sound_still unknown_inactive ⟨rfl, rfl, rfl, rfl, rfl⟩ rfl rfl ⟨rfl, rfl⟩

theorem sound_warmStart (s : State) : ValvesSound s.warmStart :=
  sound_still unknown_inactive ⟨rfl, rfl, rfl, rfl, rfl⟩ rfl rfl ⟨rfl, rfl⟩

/-! ### The end of LOADING (R84, R183 to R185) -/

theorem alike_bedFaults (image : List Byte) (s : State) : Alike s (s.bedFaults image) := by
  obtain ⟨a, rest⟩ := SetupImage.bedFaults_rest image s
  rw [rest]
  exact alike_of_view rfl

theorem kept_takeKept (h : Kept p s) : Kept p s.takeKept := by
  have weighed := h.takeDue.weighWeather
  unfold State.takeKept
  dsimp only
  split
  · exact weighed.goStale
  · exact weighed

theorem kept_firstTally (h : Kept p s) : Kept p s.firstTally := by
  unfold State.firstTally
  split
  · exact Kept.alike (h.view (by rfl)) (alike_tallyDue _)
  · exact h

/-- A state with the claim, the queue and the resting drive of another one that loads, and no valve active. -/
theorem sound_loaded (h : ValvesSound s) (loading : s.sl.station = .loading) (like : Alike s u) (claim : t.sb.claim = u.sb.claim)
    (queue : t.tq = u.tq) (shut : ∀ b, (t.valve b).active = false)
    (vd : t.vd.queue = u.vd.queue ∧ t.vd.generator = u.vd.generator ∧ t.vd.closures = u.vd.closures ∧ t.vd.channelA = u.vd.channelA
      ∧ t.vd.channelB = u.vd.channelB) : ValvesSound t := by
  have k := h.alike like
  have station : u.sl.station = .loading := like.station.trans loading
  have phase : u.sb.claim.phase = .none := k.claim.offered (by rw [station]; nofun) (by rw [station]; nofun)
  obtain ⟨q, g, c, a, e⟩ := k.drive.rest station
  obtain ⟨vq, vg, vc, va, ve⟩ := vd
  have kept := (claimKept_iff u).2 k.claim
  refine sound_still shut ⟨vq.trans q, vg.trans g, vc.trans c, va.trans a, ve.trans e⟩ (claim ▸ phase) ?_ ?_
  · rw [claim]
    exact Option.not_isSome_iff_eq_none.1 fun o => by rw [k.claim.held o] at phase; cases phase
  · unfold State.unsaid State.claims State.sheds
    rw [queue]
    exact ⟨kept.noClaims (by rw [phase]; nofun), kept.noSheds (by rw [phase]; nofun)⟩

theorem firstValve_inactive (x : BedSetup) : (firstValve x).active = false := by
  unfold firstValve
  split
  · split <;> rfl
  · rfl

theorem kept_loadImage (h : ValvesSound s) (loading : s.sl.station = .loading) (image : List Byte) (flowHigh rainHigh : Bool) :
    Kept True (s.loadImage image flowHigh rainHigh) := by
  have ended : Alike s (s.endLoading flowHigh rainHigh) := alike_of_view rfl
  have still := (activeValves_nil s).1 (h.bounds.early (by rw [loading]; nofun) (by rw [loading]; nofun))
  have taken : Kept True (match imageError image with
      | none => (s.endLoading flowHigh rainHigh).takeSetup image
      | some o => (s.endLoading flowHigh rainHigh).takeNoSetup image o) := by
    split
    · refine kept_of_sound (sound_loaded h loading (ended.trans (alike_bedFaults image _)) rfl rfl (fun b => ?_) ⟨rfl, rfl, rfl, rfl, rfl⟩) rfl
      rw [show State.valve (State.takeSetup image (s.endLoading flowHigh rainHigh)) b = _ from PerBed.get_map ..]
      exact firstValve_inactive _
    next o _ =>
      have raised := ended.trans (alike_raise .setup 15 0 0 0 o 0 (s.endLoading flowHigh rainHigh))
      exact kept_of_sound (sound_loaded h loading raised rfl rfl (fun b => (congrArg ValveState.active (raised.valve b)).trans (still b))
        ⟨rfl, rfl, rfl, rfl, rfl⟩) rfl
  exact kept_firstTally (kept_takeKept taken)

/-! ### Commands -/

/-- What a command that is taken past LOADING keeps, it keeps in every station state. -/
theorem sound_take {f : State → State} (h : ValvesSound s) (keeps : Kept True s → Kept True (f s)) : ValvesSound (s.take f) := by
  unfold State.take
  split
  next live => exact (keeps (kept_of_sound h live)).finish.sound
  next => exact h

theorem sound_ite {c : Prop} [Decidable c] (h : ValvesSound s) (k : c → ValvesSound t) : ValvesSound (if c then t else s) := by
  split
  next e => exact k e
  next => exact h

/-- What an order carries out keeps the clauses. -/
theorem sound_order {src tgt len : Nat} {f : State → State} (h : ValvesSound s) (keeps : ∀ t, Kept True t → Kept True (f t)) :
    ValvesSound (s.order src tgt len f) :=
  h.hand tgt 9 len true fun t k _ => keeps t k

theorem sound_reserveWaitTimeout (h : ValvesSound s) (run : exec .reserveWaitTimeout s = .next t) : ValvesSound t := by
  cases run
  refine sound_take h fun k => ?_
  split
  · split
    next ready =>
      refine Kept.startCoils (k.alike (alike_advanceTo ..)).supplyGoes ?_
      rw [supplyGoes_station]
      exact ready.1
    next => exact k
  · exact k

theorem sound_coilCheck {ohms : Nat} (h : ValvesSound s) (run : exec (.coilCheck ohms) s = .next t) : ValvesSound t := by
  cases run
  refine sound_take h fun k => ?_
  split
  next checking => exact k.testCoil checking ohms
  next => exact k

theorem sound_listeningTimerExpiry (h : ValvesSound s) (run : exec .listeningTimerExpiry s = .next t) : ValvesSound t := by
  cases run
  refine sound_take h fun k => ?_
  split
  next listening =>
    have late := k.alike (alike_advanceTo (s.sl.listenSince + Config.listeningTime) s)
    exact (late.goOn (x := .active) (by rw [State.advanceTo_sl, listening]; exact ⟨nofun, nofun⟩) ⟨nofun, nofun⟩).alike (alike_noteOccasion _)
  next => exact k

end Sys2Proof.ValveBoundsKept

/-! PROOFS. Every step keeps the valves' bounds: the commands one by one, and the statement (R56, R114, R130). -/

namespace Sys2Proof.ValveBoundsKept

open Sys2Proof.Machine

variable {p : Prop} {b d : BedId} {s t u : State}

/-! ### Starts and the station's own timers -/

theorem sound_setupImageRead {image : List Byte} {flowHigh rainHigh : Bool} (h : ValvesSound s)
    (run : exec (.setupImageRead image flowHigh rainHigh) s = .next t) : ValvesSound t := by
  cases run
  split
  next => exact h
  next loads =>
    have loading : s.sl.station = .loading := by
      rw [Bool.or_eq_true, not_or] at loads
      simpa [State.live] using loads.1
    exact (kept_loadImage h loading image flowHigh rainHigh).finish.sound

theorem sound_rstnReturnsHigh (h : ValvesSound s) (run : exec .rstnReturnsHigh s = .next t) : ValvesSound t := by
  cases run
  exact sound_ite h fun _ => h.view (by rfl)

theorem sound_attnToggle (h : ValvesSound s) (run : exec .attnToggle s = .next t) : ValvesSound t := by
  cases run
  exact sound_ite h fun _ => h.view (by rfl)

theorem sound_dayClockTick (h : ValvesSound s) (run : exec .dayClockTick s = .next t) : ValvesSound t := by
  have ticked : Alike s s.tickClock := by
    unfold State.tickClock
    dsimp only
    split <;> exact alike_of_view rfl
  cases run
  refine sound_ite h fun _ => ?_
  split
  next live => exact ((kept_of_sound h live).alike ticked).finish.sound
  next => exact h.alike ticked

/-! ### The line -/

theorem live_of_receiving (h : s.receiving = true) : s.live = true := by
  unfold State.receiving at h
  simp only [Bool.and_eq_true] at h
  exact h.1.1

theorem sound_invalidFrame {bytes : List Byte} (h : ValvesSound s) (run : exec (.invalidFrame bytes) s = .next t) : ValvesSound t := by
  cases run
  refine sound_ite h fun receiving => ?_
  exact ((kept_of_sound h (live_of_receiving receiving)).alike ((alike_frameOver ..).trans (alike_receiveError _))).finish.sound

theorem sound_slotEnd (h : ValvesSound s) (run : exec .slotEnd s = .next t) : ValvesSound t := by
  cases run
  exact sound_ite h fun _ => (h.alike (alike_enterOwnSlot s)).view (by rfl)

theorem sound_answerByteStart (h : ValvesSound s) (run : exec .answerByteStart s = .next t) : ValvesSound t := by
  cases run
  split
  · exact sound_ite h fun _ => h.view (by rfl)
  all_goals exact h

theorem sound_answerCollision (h : ValvesSound s) (run : exec .answerCollision s = .next t) : ValvesSound t := by
  cases run
  split
  · exact sound_ite h fun _ => h.view (by rfl)
  all_goals exact h

theorem sound_attemptBegin (h : ValvesSound s) (run : exec .attemptBegin s = .next t) : ValvesSound t := by
  cases run
  refine sound_ite h fun _ => ?_
  unfold State.beginAttempt
  split
  · exact h.view (by rfl)
  · exact h.view (by rfl)

theorem sound_collision (h : ValvesSound s) (run : exec .collision s = .next t) : ValvesSound t := by
  cases run
  refine sound_ite h fun sends => ?_
  simp only [Bool.and_eq_true] at sends
  exact (kept_of_sound h sends.1.1).collide.finish.sound

theorem sound_transmissionCompletes {slot : Option SlotByte} (h : ValvesSound s)
    (run : exec (.transmissionCompletes slot) s = .next t) : ValvesSound t := by
  cases run
  split
  next a _ => exact sound_ite h fun live => ((kept_of_sound h live).complete a slot).finish.sound
  next => exact h

theorem sound_lineLossClosure (h : ValvesSound s) (run : exec .lineLossClosure s = .next t) : ValvesSound t := by
  cases run
  refine sound_take h fun k => ?_
  split
  · exact (k.alike (alike_advanceTo ..)).closeLine
  · exact k

theorem sound_tallyFallsDue (h : ValvesSound s) (run : exec .tallyFallsDue s = .next t) : ValvesSound t := by
  cases run
  refine sound_take h fun k => ?_
  split
  · exact Kept.alike (k.view (by rfl)) (alike_tallyDue _)
  · exact k

/-! ### The book and the claim exchange -/

theorem sound_peerExpiry {station : Nat} (h : ValvesSound s) (run : exec (.peerExpiry station) s = .next t) : ValvesSound t := by
  cases run
  refine sound_take h fun k => ?_
  split
  · split
    next => exact k
    next peer => exact k.alike ((alike_advanceTo ..).trans (alike_expire peer))
  · exact k

theorem sound_pendingLapse {station bed : Nat} (h : ValvesSound s) (run : exec (.pendingLapse station bed) s = .next t) : ValvesSound t := by
  cases run
  refine sound_take h fun k => ?_
  split
  · split
    next => exact k
    next other => exact k.alike ((alike_advanceTo ..).trans (alike_remove fun o => absurd (.inl o) other))
  · exact k

theorem sound_resolutionTimerExpiry (h : ValvesSound s) (run : exec .resolutionTimerExpiry s = .next t) : ValvesSound t := by
  cases run
  refine sound_take h fun k => ?_
  split
  next since phase _ =>
    have cleared : Kept True { s.advanceTo (since + Config.resolutionTime) with sb.claim.resolveSince := none } := k.view (by rfl)
    obtain ⟨decides, outcome⟩ := cleared.decides (.inl phase)
    exact cleared.resolve decides outcome
  next => exact k

theorem sound_victimTimerExpiry (h : ValvesSound s) (run : exec .victimTimerExpiry s = .next t) : ValvesSound t := by
  cases run
  refine sound_take h fun k => ?_
  split
  next since phase _ =>
    have late := k.alike (alike_advanceTo (since + Config.victimTime) s)
    obtain ⟨decides, -⟩ := late.decides (.inr phase)
    exact late.dropClaim decides.quiet decides.way
  next => exact k

theorem sound_courtesyDelayEnd {r : Urgency} (h : ValvesSound s) (run : exec (.courtesyDelayEnd r) s = .next t) : ValvesSound t := by
  cases run
  refine sound_take h fun k => ?_
  split
  · split
    · exact k
    · exact k.view (by rfl)
  · exact k

/-! ### The beds' timers -/

theorem sound_backoffEnd (h : ValvesSound s) (run : exec (.backoffEnd b) s = .next t) : ValvesSound t := by
  cases run
  refine sound_take h fun k => ?_
  split
  next n _ _ => exact ((k.alike (alike_advanceTo n s)).modBed (by rfl)).alike (alike_noteOccasion _)
  next => exact k

theorem sound_waitAgeTick (h : ValvesSound s) (run : exec (.waitAgeTick b) s = .next t) : ValvesSound t := by
  cases run
  refine sound_take h fun k => ?_
  split
  · exact (k.alike (alike_advanceTo ..)).modBed (by rfl)
  · exact k

theorem sound_runDayLimit (h : ValvesSound s) (run : exec (.runDayLimit b) s = .next t) : ValvesSound t := by
  cases run
  refine sound_take h fun k => ?_
  split
  next r waiting _ =>
    have late := k.alike (alike_advanceTo (s.sl.loadingEnd + (r.startMinute + 1440) * Config.minute) s)
    exact late.toIdle (late.mayRest (show ((s.bed b).state).busy = false by rw [waiting]; rfl) (show (s.bed b).state ≠ .claiming by rw [waiting]; nofun))
  next => exact k

theorem sound_soakEnd (h : ValvesSound s) (run : exec (.soakEnd b) s = .next t) : ValvesSound t := by
  cases run
  refine sound_take h fun k => ?_
  split
  next n soaking _ =>
    have late := k.alike (alike_advanceTo (n + (s.setupOf b).soak * Config.minute) s)
    have free := late.mayRest (b := b) (show ((s.bed b).state).busy = false by rw [soaking]; rfl) (show (s.bed b).state ≠ .claiming by rw [soaking]; nofun)
    unfold State.endSoak
    split
    · split
      · exact late.toIdle free
      · exact late.toWaiting free 0
    · exact late.toWaiting free 0
  next => exact k

theorem sound_confirmTimerExpiry (h : ValvesSound s) (run : exec (.confirmTimerExpiry b) s = .next t) : ValvesSound t := by
  cases run
  refine sound_take h fun k => ?_
  split
  · exact (k.alike (alike_advanceTo ..)).bedConfirmed b
  · exact k

theorem sound_confirmLimit (h : ValvesSound s) (run : exec (.confirmLimit b) s = .next t) : ValvesSound t := by
  cases run
  refine sound_take h fun k => ?_
  split
  · split
    · exact (k.alike (alike_advanceTo ..)).giveUpConfirm b
    · exact k
  · exact k

/-! ### The valve drive -/

theorem sound_pulseEnd (h : ValvesSound s) (run : exec .pulseEnd s = .next t) : ValvesSound t := by
  cases run
  refine sound_take h fun k => ?_
  split
  next r rsv since pulse =>
    exact ((k.alike (alike_advanceTo (since + tenMs s.sl.setup.pulseWidth) s)).endPulse (rsv := rsv) (since := since) pulse).checkStartUp
  all_goals exact k

theorem sound_recoveryEnd (h : ValvesSound s) (run : exec .recoveryEnd s = .next t) : ValvesSound t := by
  cases run
  refine sound_take h fun k => ?_
  split
  next since recovery =>
    have drive := k.drive
    have still (b : BedId) : s.pulsing b = false := by unfold State.pulsing; rw [recovery]
    have late := k.alike (alike_advanceTo (since + Config.recoveryTime) s)
    exact Kept.kick (late.redrive (w := { s.vd with generator := .idle }) rfl
      ⟨drive.requests, fun b m => ⟨(drive.opens b m).1, rfl⟩, nofun,
        ⟨drive.closures.1, fun b m => ⟨(drive.closures.2 b m).1, rfl, (drive.closures.2 b m).2.2⟩⟩, drive.channels, drive.apart,
        fun l => absurd l k.live⟩)
  all_goals exact k

theorem sound_pullInEnd (h : ValvesSound s) (run : exec (.pullInEnd b) s = .next t) : ValvesSound t := by
  cases run
  refine sound_take h fun k => ?_
  split
  next since release phase =>
    obtain ⟨c, mine, pulls⟩ := Option.map_eq_some_iff.1 phase
    have late := k.alike (alike_advanceTo (since + tenMs s.sl.setup.pullIn) s)
    exact late.endPullIn mine release (by unfold Channel.valveState; rw [pulls])
  all_goals exact k

theorem sound_coilSupplyMeasurement {volts : Nat} (h : ValvesSound s) (run : exec (.coilSupplyMeasurement volts) s = .next t) : ValvesSound t := by
  cases run
  refine sound_take h fun k => Kept.mapChannels (k.view (by rfl)) (fun _ => rfl) fun _ _ => rfl

theorem sound_pwmPeriodBoundary (h : ValvesSound s) (run : exec .pwmPeriodBoundary s = .next t) : ValvesSound t := by
  cases run
  refine sound_take h fun k => k.mapChannels (fun c => ?_) fun c _ => ?_
  · unfold Channel.boundary
    split <;> rfl
  · unfold Channel.boundary
    split <;> rfl

theorem sound_supplyGood (h : ValvesSound s) (run : exec .supplyGood s = .next t) : ValvesSound t := by
  cases run
  refine sound_take h fun k => ?_
  split
  · exact k.supplyComes
  · exact k

/-- After the pulse is cut nothing is pulsed until the closure. -/
theorem emptied_pulsing (b : BedId) (s : State) : (CoilSupply.State.emptied s).pulsing b = false := by
  have same : (CoilSupply.State.emptied s).vd.generator = s.cutPulse.vd.generator := by rw [(CoilSupply.emptied s).rest]
  have := CoilCheck.cutPulse_pulsing b s
  unfold State.pulsing at this ⊢
  rw [same]
  exact this

theorem sound_supplyLoss (h : ValvesSound s) (run : exec .supplyLoss s = .next t) : ValvesSound t := by
  cases run
  refine sound_take h fun k => ?_
  split
  · have emptied : Kept True (CoilSupply.State.emptied s.supplyGoes) := k.supplyGoes.cutPulse.flushQueue.releaseChannels
    exact (emptied.reserveClosure (fun b => emptied_pulsing b _) s.vd.ready).checkStartUp
  · exact k

theorem sound_supplyReturn (h : ValvesSound s) (run : exec .supplyReturn s = .next t) : ValvesSound t := by
  cases run
  refine sound_take h fun k => ?_
  split
  · exact (k.alike (alike_leaveHold .supply s)).supplyComes.forBeds fun b _ kept => kept.recloseBed b
  · exact k

theorem sound_reserveReady (h : ValvesSound s) (run : exec .reserveReady s = .next t) : ValvesSound t := by
  cases run
  refine sound_take h fun k => ?_
  split
  next n _ _ =>
    have ready : Kept True (State.noteOccasion { s.advanceTo (n + Config.chargeTime) with vd.ready := true, vd.chargeSince := none }) := k.view (by rfl)
    dsimp only
    split
    next waits => exact ready.startCoils waits.1
    next => exact ready
  next => exact k

/-! ### The meter, the probes and the weather -/

theorem sound_flowEdge (h : ValvesSound s) (run : exec .flowEdge s = .next t) : ValvesSound t := by
  cases run
  refine sound_take h fun k => ?_
  split
  · exact k.view (by rfl)
  · exact k

theorem sound_flowFilteredLevelChange (h : ValvesSound s) (run : exec .flowFilteredLevelChange s = .next t) : ValvesSound t := by
  cases run
  refine sound_take h fun k => ?_
  split
  · exact k.view (by rfl)
  · exact k

theorem sound_edgeCounterOverflow (h : ValvesSound s) (run : exec .edgeCounterOverflow s = .next t) : ValvesSound t := by
  cases run
  refine sound_take h fun k => ?_
  split
  · exact k.view (by rfl)
  · exact k

theorem alike_visitFrom (n : Nat) (s : State) : Alike s (s.visitFrom n) := by
  unfold State.visitFrom
  split <;> exact alike_of_view rfl

theorem sound_scanStart (h : ValvesSound s) (run : exec .scanStart s = .next t) : ValvesSound t := by
  cases run
  refine sound_take h fun k => ?_
  split
  · exact Kept.alike (k.view (by rfl)) (alike_visitFrom 0 _)
  · exact k

theorem sound_probeSettleEnd (h : ValvesSound s) (run : exec .probeSettleEnd s = .next t) : ValvesSound t := by
  cases run
  refine sound_take h fun k => ?_
  split
  · exact k.view (by rfl)
  all_goals exact k

theorem sound_probeMeasurementEnd {gaps : List Nat} (h : ValvesSound s) (run : exec (.probeMeasurementEnd gaps) s = .next t) : ValvesSound t := by
  cases run
  refine sound_take h fun k => ?_
  split
  next ch since _ =>
    have counted : Kept True { s.advanceTo (since + measureTime (measurePeriods gaps)) with pw.counter := (measurePeriods gaps).counter } := k.view (by rfl)
    dsimp only
    refine Kept.alike ?_ (alike_visitFrom _ _)
    split
    · exact counted.readProbe _ _
    · exact counted.readTemperature _
  all_goals exact k

theorem sound_rainTip (h : ValvesSound s) (run : exec .rainTip s = .next t) : ValvesSound t := by
  cases run
  refine sound_take h fun k => ?_
  split
  · dsimp only
    split
    · exact Kept.skyDue (k.view (by rfl))
    · exact k.view (by rfl)
  · exact k

theorem sound_rainFilteredLevelChange (h : ValvesSound s) (run : exec .rainFilteredLevelChange s = .next t) : ValvesSound t := by
  cases run
  refine sound_take h fun k => ?_
  split
  · exact k.view (by rfl)
  · exact k

theorem sound_skyTimerExpiry (h : ValvesSound s) (run : exec .skyTimerExpiry s = .next t) : ValvesSound t := by
  cases run
  refine sound_take h fun k => ?_
  split
  · exact Kept.skyDue (k.view (by rfl))
  · exact k

theorem sound_weatherRecordStale (h : ValvesSound s) (run : exec .weatherRecordStale s = .next t) : ValvesSound t := by
  cases run
  refine sound_take h fun k => ?_
  split
  · exact k
  · exact (k.alike (alike_advanceTo ..)).goStale

/-! ### Orders -/

theorem sound_query {src tgt sel form : Nat} (h : ValvesSound s) (run : exec (.query src tgt sel form) s = .next t) : ValvesSound t := by
  cases run
  refine sound_order h fun t k => ?_
  split
  · exact k.bedOrder (fun _ s kept => kept.alike (alike_offer rfl rfl s)) ..
  · exact k.stationOrder (k.alike (alike_offer rfl rfl t)) ..

/-! ### Every command, every step -/

theorem sound_next {r : Host.Outcome State Fault Refusal} (run : r = .next t) {x : State} (h : ValvesSound x) (e : r = .next x) : ValvesSound t := by
  cases run.symm.trans e
  exact h

theorem exec_keeps (i : Instr) (h : ValvesSound s) (run : exec i s = .next t) : ValvesSound t := by
  cases i with
  | coldStart => exact sound_next run (sound_coldStart s) rfl
  | warmStart => exact sound_next run (sound_warmStart s) rfl
  | rstnReturnsHigh => exact sound_rstnReturnsHigh h run
  | setupImageRead image flowHigh rainHigh => exact sound_setupImageRead h run
  | reserveWaitTimeout => exact sound_reserveWaitTimeout h run
  | coilCheck ohms => exact sound_coilCheck h run
  | listeningTimerExpiry => exact sound_listeningTimerExpiry h run
  | frameAbandoned why => exact sound_next run (sound_ite h fun _ => h.view (by rfl)) rfl
  | discardQuietEnd => exact sound_next run (sound_ite h fun _ => h.view (by rfl)) rfl
  | slotEnd => exact sound_slotEnd h run
  | invalidFrame bytes => exact sound_invalidFrame h run
  | malformedNotice src tgt kind payload => exact sound_next run (h.hand tgt kind payload.length false fun _ k _ => k) rfl
  | duplicateNumberEvent kind len => exact sound_next run (h.receive kind len fun _ k _ => k) rfl
  | unhandedFrameReceived src tgt kind len => exact sound_next run (h.receive kind len fun _ k _ => k) rfl
  | tallyReceived src tgt tally => exact sound_next run (h.hand tgt 1 _ _ fun _ k peer => k.alike (alike_takeTally peer tally)) rfl
  | claimReceived src tgt bed flow u age => exact sound_next run (h.hand tgt 2 4 _ fun _ k peer => k.alike (alike_takeClaim peer bed flow u age)) rfl
  | commitReceived src tgt bed => exact sound_next run (h.hand tgt 3 1 _ fun _ k peer => k.alike (alike_takeCommit peer bed)) rfl
  | dropReceived src tgt bed => exact sound_next run (h.hand tgt 4 1 _ fun _ k peer => k.alike (alike_remove fun o => absurd o peer)) rfl
  | freeReceived src tgt bed => exact sound_next run (h.hand tgt 5 1 _ fun _ k peer => k.alike (alike_takeFree peer bed)) rfl
  | shedReceived src tgt victim claimant u => exact sound_next run (h.hand tgt 6 3 _ fun _ k _ => k.takeShed tgt victim u) rfl
  | skyReceived src tgt sky =>
    refine sound_next run (h.hand (src := src) tgt 7 11 sky.fits (f := fun s => if s.adopts src then s.adopt sky src else s) fun t k _ => ?_) rfl
    split
    · exact k.adopt sky src
    · exact k
  | water src tgt sel litres => exact sound_next run (sound_order h fun _ k => k.bedOrder (fun b _ kept => kept.waterBed litres b) ..) rfl
  | skip src tgt sel => exact sound_next run (sound_order h fun _ k => k.bedOrder (fun b _ kept => kept.skipBed b) ..) rfl
  | pause src tgt sel => exact sound_next run (sound_order h fun _ k => k.stationOrder (k.joinHold .pause) ..) rfl
  | resume src tgt sel => exact sound_next run (sound_order h fun t k => k.stationOrder (k.alike (alike_leaveHold .pause t)) ..) rfl
  | target src tgt sel start stop => exact sound_next run (sound_order h fun _ k => k.bedOrder (fun b _ kept => kept.targetBed start stop b) ..) rfl
  | clear src tgt sel cause => exact sound_next run (sound_order h fun _ k => k.stationOrder (k.clearOrder cause) ..) rfl
  | query src tgt sel form => exact sound_query h run
  | clock src tgt sel minute => exact sound_next run (sound_order h fun t k => k.stationOrder (k.alike (alike_setClock minute t)) ..) rfl
  | answerByteStart => exact sound_answerByteStart h run
  | answerCollision => exact sound_answerCollision h run
  | attemptBegin => exact sound_attemptBegin h run
  | yieldingClear => exact sound_next run (sound_ite h fun _ => h.view (by rfl)) rfl
  | collision => exact sound_collision h run
  | transmissionCompletes slot => exact sound_transmissionCompletes h run
  | lineLossClosure => exact sound_lineLossClosure h run
  | tallyFallsDue => exact sound_tallyFallsDue h run
  | peerExpiry station => exact sound_peerExpiry h run
  | pendingLapse station bed => exact sound_pendingLapse h run
  | resolutionTimerExpiry => exact sound_resolutionTimerExpiry h run
  | victimTimerExpiry => exact sound_victimTimerExpiry h run
  | courtesyDelayEnd u => exact sound_courtesyDelayEnd h run
  | backoffEnd bed => exact sound_backoffEnd h run
  | waitAgeTick bed => exact sound_waitAgeTick h run
  | dayClockTick => exact sound_dayClockTick h run
  | hourBoundary => exact sound_next run (sound_take h Kept.hourBoundary) rfl
  | dayRollover => exact sound_next run (sound_take h Kept.dayBoundary) rfl
  | runDayLimit bed => exact sound_runDayLimit h run
  | soakEnd bed => exact sound_soakEnd h run
  | pulseEnd => exact sound_pulseEnd h run
  | recoveryEnd => exact sound_recoveryEnd h run
  | pullInEnd bed => exact sound_pullInEnd h run
  | coilSupplyMeasurement volts => exact sound_coilSupplyMeasurement h run
  | supplyGood => exact sound_supplyGood h run
  | supplyLoss => exact sound_supplyLoss h run
  | supplyReturn => exact sound_supplyReturn h run
  | reserveReady => exact sound_reserveReady h run
  | flowEdge => exact sound_flowEdge h run
  | edgeCounterOverflow => exact sound_edgeCounterOverflow h run
  | rateWindowEnd => exact sound_next run (sound_take h fun k => (k.alike (alike_advanceTo ..)).endWindow) rfl
  | confirmTimerExpiry bed => exact sound_confirmTimerExpiry h run
  | confirmLimit bed => exact sound_confirmLimit h run
  | scanStart => exact sound_scanStart h run
  | probeSettleEnd => exact sound_probeSettleEnd h run
  | probeMeasurementEnd gaps => exact sound_probeMeasurementEnd h run
  | rainTip => exact sound_rainTip h run
  | skyTimerExpiry => exact sound_skyTimerExpiry h run
  | weatherRecordStale => exact sound_weatherRecordStale h run
  | attnToggle => exact sound_attnToggle h run
  | frameBegins => exact sound_next run (sound_ite h fun _ => h.view (by rfl)) rfl
  | dominantLevel => exact sound_next run (sound_ite h fun _ => h.view (by rfl)) rfl
  | flowFilteredLevelChange => exact sound_flowFilteredLevelChange h run
  | rainFilteredLevelChange => exact sound_rainFilteredLevelChange h run
  | pwmPeriodBoundary => exact sound_pwmPeriodBoundary h run

theorem step_keeps (h : ValvesSound s) (run : step s = .next t) : ValvesSound t := by
  unfold step at run
  split at run
  · cases run
    exact h.view (by rfl)
  next i rest _ =>
    have taken : ValvesSound { s with pending := rest } := h.view (by rfl)
    exact exec_keeps i taken run

/-- Settles O60: each command keeps the clauses of valves, claim and drive, and they hold after reset. -/
theorem everyStepKeepsTheValveBounds : Obligations.EveryStepKeepsTheValveBounds := by
  unfold Obligations.EveryStepKeepsTheValveBounds
  exact ⟨fun _ _ => step_keeps, sound_reset⟩

end Sys2Proof.ValveBoundsKept
